-- ==== Sys2Proof/Word.lean ====
section
/-! DEFINITION. The word types of the model and their plainest conversions. -/

namespace Sys2Proof

/-- One byte of memory, of a FIFO or of a line. -/
abbrev Byte := BitVec 8

/-- One 32-bit word: a slot of a long word, a host-visible register (R177, R505). -/
abbrev Word := BitVec 32

/-- A byte from a number, modulo 256. -/
abbrev byteOf (n : Nat) : Byte := BitVec.ofNat 8 n

end Sys2Proof
end

