-- ==== Sys2Proof/Syntax.lean ====
section
/-! DEFINITION. The commands of the block: one constructor of `Instr` for every row of the table of operations and events,
with its operands. Verbs carry the parsed keys of their line, engine operations the cluster that runs them, protocol events
what arrives with them. -/

namespace Sys2Proof

/-- A window w0 to w8 (R266). -/
abbrev Win := Fin 9
/-- A partition p0 to p7 (R10). -/
abbrev Part := Fin 8
/-- A court c0 to c7 (R10). -/
abbrev Court := Fin 8
/-- A rally port X0 to X7 (R374). -/
abbrev PortNo := Fin 8
/-- A cluster by its global number g = 12c + k (R10). -/
abbrev Clu := Fin 96
/-- A stream: 0 LD, 1 VE, 2 RE, 3 PE, 4 ST (R11). -/
abbrev Strm := Fin 5
/-- The IDE stream slot on which a host request arrives, none for a request on no stream (R353). -/
abbrev Sid := Option (Fin 9)

/-- What a line carries beside its verb: its tag, and whether it came over the UART, with its number there (R276, R281,
R285). -/
structure LineCtx where
  tag  : Option Nat := none
  uart : Bool := false
  num  : Nat := 0
  deriving DecidableEq, Repr

/-- Rounding modes of R85. -/
inductive Rounding where
  | rne | rtz | rsto
  deriving DecidableEq, Repr

/-- The items of `nc=` (R320); a `flush` or `sat` number is kept as given. -/
structure NcItems where
  flush : Option Nat := none
  sat   : Option Nat := none
  nanmm : Option Bool := none
  round : Option Rounding := none
  seed  : Option Nat := none
  deriving DecidableEq, Repr

/-- What a `peek` or a `poke` reaches (R265, R337). -/
inductive DbgTarget where
  | sp | v | a | l | e | w | t | tally | region | q
  deriving DecidableEq, Repr

/-- What the detectors of R437 report while an operation runs: lines of device memory (by device address) read with a
corrected or an uncorrectable error, the same of court caches, corrected scratchpad words (their clusters), scratchpad words
(cluster, address) with an uncorrectable error, a parity error of a register or tile, a residue mismatch. -/
structure HwObs where
  dramCe  : List Nat := []
  dramUe  : List Nat := []
  ccCe    : List Nat := []
  ccUe    : List Nat := []
  spCe    : List Nat := []
  spUe    : List (Nat × Nat) := []
  parity  : Bool := false
  suspect : Bool := false
  deriving DecidableEq, Repr

/-- A rally frame, field by field (R378); `cx` is the three bits of CX. -/
structure Frame where
  cls     : Nat
  hop     : Nat
  crcls   : Nat
  crlvl   : Nat
  crcnt   : Nat
  seq     : Nat
  ack     : Nat
  nak     : Bool
  cx      : Nat
  src     : Nat
  dst     : Nat
  c7      : Nat
  c8      : Nat
  payload : List Byte
  crc     : Nat
  deriving DecidableEq, Repr

/-- An error that a detector reports for the latch of R443, with the fields of R444; `cluster` 255 and `stream` 7 mean
none. -/
structure HwErr where
  code    : Nat
  cluster : Nat
  stream  : Nat
  unit    : Nat
  offset  : Nat
  addr    : Nat
  space   : Nat
  court   : Nat
  detail  : Nat
  deriving DecidableEq, Repr

/-- The IDE_KM messages that a VENDOR_DEFINED_REQUEST carries (R428). -/
inductive IdeKm where
  | keyProg (k : Fin 9) (set : Bool) (dir : Bool) (sub : Fin 3) (key : List Byte)
  | setGo (k : Fin 9) (set : Bool)
  | setStop (k : Fin 9) (set : Bool)
  deriving DecidableEq, Repr

/-- Why a read of host memory brings no data (R367). -/
inductive HostErr where
  | unsupported | abort | poison | timeout
  deriving DecidableEq, Repr

/-- What a boot stage meets (R470 to R475, R484): a shared-structure error by its cause, the channel that fails training.
-/
structure BootObs where
  cause : Option Nat := none
  chan  : Option (Fin 16) := none
  deriving DecidableEq, Repr

/-- What the operator has wired while the board was without input: host connectors A and B, and standby power on the
management header (R489, R491, R497). -/
structure Wiring where
  a   : Bool := true
  b   : Bool := true
  hdr : Bool := false
  deriving DecidableEq, Repr

/-- An instruction of the TAP: the mandatory ones of IEEE 1149.1 and every other code, which selects the bypass register
(R500). -/
inductive TapIr where
  | bypass | sample | preload | extest
  | other (code : Nat)
  deriving DecidableEq, Repr

/-- The inputs of the TAP at a rising TCK: TMS, TDI, and whether TRST_N is asserted; those of a header left open are 1, 1 and
not (R500). -/
structure TapClk where
  tms  : Bool := true
  tdi  : Bool := true
  trst : Bool := false
  deriving DecidableEq, Repr

/-- Sources that hold the device in reset (R467). -/
inductive RstSource where
  | power | resetN | perstA | perstB | hot | dl
  deriving DecidableEq, Repr

/-- The commands. An operand with a default is one whose default is the plain case of the event: nothing detected, one piece, no
further circumstance. -/
inductive Instr where
  -- device-window verbs (R302 to R317)
  | hello (l : LineCtx) (baud : Option Nat)
  | uartBaudSwitch
  | part (l : LineCtx) (p : Part) (courts : List Court) (il : Bool) (scrubError : Bool := false)
  | free (l : LineCtx) (p : Part) (scrubError : Bool := false)
  | freeDone (p : Part)
  | clock (l : LineCtx) (p : Part) (mhz : Nat)
  | relockDone (p : Part)
  | linkReport (l : LineCtx) (x : Option PortNo)
  | linkOpUp (l : LineCtx) (x : PortNo)
  | linkOpDown (l : LineCtx) (x : PortNo)
  | linkOpRetrain (l : LineCtx) (x : PortNo)
  | linkRack (l : LineCtx) (n : Option Nat)
  | route (l : LineCtx) (p : Part) (dst : Nat) (x : Option PortNo)
  | group (l : LineCtx) (p : Part) (id : Option Nat) (members : Option (List (Nat × Nat))) (rto : Option Nat)
  | attest (l : LineCtx) (nonce : List Byte)
  | attestReportDone
  | session (l : LineCtx) (p : Part) (pub : List Byte)
  | fwStat (l : LineCtx)
  | fwWrite (l : LineCtx) (src len : Nat)
  | statDevice (l : LineCtx)
  | statParts (l : LineCtx)
  | statCourts (l : LineCtx)
  | statDeviceCounters (l : LineCtx)
  | temp (l : LineCtx)
  | echo (l : LineCtx) (on : Bool)
  | drillCourts (l : LineCtx) (courts : List Court)
  | drillPassDone (w : Win)
  | resetCommand (l : LineCtx)
  | resetCommandFire
  -- partition-window verbs (R318 to R339)
  | load (l : LineCtx) (p : Part) (b : Bool) (src len : Nat)
  | loadDone (p : Part) (obs : HwObs)
  | swap (l : LineCtx) (p : Part)
  | go (l : LineCtx) (p : Part) (img : Option Bool) (args : Option Nat) (dl : Option Nat) (nc : NcItems)
      (done : Option Nat)
  | wait (l : LineCtx) (p : Part)
  | sig (l : LineCtx) (p : Part)
  | halt (l : LineCtx) (p : Part)
  | abort (l : LineCtx) (p : Part)
  | set (l : LineCtx) (p : Part) (nc : Option NcItems) (dl : Option Nat)
  | shard (l : LineCtx) (p : Part) (idx : Nat) (g pp c : List Nat) (dev : List (Nat × Nat))
  | shardDrop (l : LineCtx) (p : Part) (idx : Nat)
  | commit (l : LineCtx) (p : Part)
  | rallySetApply (p : Part)
  | statPartition (l : LineCtx) (p : Part)
  | statSlots (l : LineCtx) (p : Part)
  | statKeys (l : LineCtx) (p : Part)
  | statPartCounters (l : LineCtx) (p : Part)
  | statShard (l : LineCtx) (p : Part) (idx : Nat)
  | statPoison (l : LineCtx) (p : Part)
  | tally (l : LineCtx) (p : Part) (set : Option Nat)
  | key (l : LineCtx) (p : Part) (slot : Nat) (wrap : List Byte)
  | unkey (l : LineCtx) (p : Part) (slot : Nat)
  | move (l : LineCtx) (p : Part) (out : Bool) (pa host len : Nat) (key : Option Nat)
  | fill (l : LineCtx) (p : Part) (pa len val : Nat)
  | moverJobEnd (p : Part) (id : Nat) (obs : HwObs)
  | sealChunk (p : Part) (id : Nat) (obs : HwObs) (k : Nat := 0)
  | unsealChunk (p : Part) (id : Nat) (k : Nat := 0)
  | breakCount (l : LineCtx) (p : Part) (cl : Nat) (s : Nat) (n : Nat)
  | breakTag (l : LineCtx) (p : Part) (tag : Nat)
  | breakDrop (l : LineCtx) (p : Part)
  | breakStopped (p : Part)
  | step (l : LineCtx) (p : Part) (cl s m : Nat)
  | cont (l : LineCtx) (p : Part)
  | peek (l : LineCtx) (p : Part) (cl : Nat) (what : DbgTarget) (s reg addr len : Option Nat)
  | poke (l : LineCtx) (p : Part) (cl : Nat) (what : DbgTarget) (s reg addr : Option Nat) (val : Option Nat)
      (data : Option (List Byte))
  | drillPartition (l : LineCtx) (p : Part)
  | lock (l : LineCtx) (p : Part) (proof : List Byte)
  -- windows and registers (R267 to R289, R505 to R511)
  | lineParse (w : Win) (scrubError : Bool := false)
  | parserResume (w : Win) (scrubError : Bool := false)
  | evLost (w : Option Win)
  | cmdinWrite (w : Win) (sid : Sid) (data : List (Option Byte)) (off : Nat := 0)
  | replyoutRead (w : Win) (sid : Sid) (off n : Nat)
  | winctlWrite (w : Win) (sid : Sid) (v : Word)
  | ringbaseWrite (p : Part) (sid : Sid) (lo hi : Option Word)
  | ringsizeWrite (p : Part) (sid : Sid) (v : Word)
  | ringEnable (p : Part) (sid : Sid) (cie : Bool)
  | ringDisable (p : Part) (sid : Sid) (cie : Bool)
  | ringCieWrite (p : Part) (sid : Sid) (cie : Bool)
  | ringconsWrite (p : Part) (sid : Sid) (v : Word)
  | registerWriteIgnored (off : Nat) (data : List Byte)
  | ringEntryWrite (p : Part) (obs : HwObs := {})
  | msixUnmask (v : Fin 32) (en : Bool) (entry : Option (BitVec 64 × Word) := none) (mask : Option Bool := some false)
  | busMasterEnableSet (viral : Bool := false) (aer : Option (Bool × Word) := none)
  | functionLevelReset
  -- the host link (R346 to R360, R520)
  | hdmDecoderCommit (base size ways : Nat) (bi : Bool)
  | cxlMemRead (hpa : Nat) (sid : Sid) (cache : Bool) (obs : HwObs)
  | cxlMemWrite (hpa : Nat) (sid : Sid) (data : List Byte) (enable : Nat) (poison : Bool) (obs : HwObs)
  | birsp (da : Nat) (data : Option (List Byte))
  | bar4Read (off n : Nat) (sid : Sid) (obs : HwObs)
  | bar4Write (off : Nat) (data : List Byte) (sid : Sid) (ep : Bool) (obs : HwObs) (holes : List Nat := [])
  | ideIntegrityFailure (k : Fin 9)
  | ideKmKeyProg (sess : Fin 2) (k : Fin 9) (set : Bool) (dir : Bool) (sub : Fin 3) (key : List Byte)
  | kSetGo (sess : Fin 2) (k : Fin 9) (set : Bool)
  | kSetStop (sess : Fin 2) (k : Fin 9) (set : Bool)
  | getVersion
  | getCapabilities
  | negotiateAlgorithms (p384 sha384 gcm : Bool)
  | getDigests
  | getCertificate (slot off len : Nat)
  | challenge (slot : Nat) (nonce : List Byte)
  | getMeasurements (index : Nat) (sign : Bool) (nonce : List Byte)
  | keyExchange (pub : List Byte)
  | finish (sess : Fin 2) (mac : List Byte)
  | heartbeat (sess : Fin 2)
  | keyUpdate (sess : Fin 2)
  | endSession (sess : Fin 2)
  | vendorDefinedRequest (sess : Fin 2) (m : Option IdeKm)
  | spdmUnsupportedRequest (code : Nat)
  | mailboxCommand (opcode : Nat)
  -- the UART (R271 to R274)
  | uartByteReceive (b : Byte)
  | uartLineHandoff
  -- launches (R253 to R259)
  | launchStart (p : Part)
  | launchEnd (p : Part) (obs : HwObs := {})
  | deadlineExpire (p : Part)
  -- operations of every stream (R187, R232 to R236)
  | nop (g : Clu) (st : Strm)
  | sync (g : Clu) (st : Strm)
  | loop (g : Clu) (st : Strm)
  | br (g : Clu) (st : Strm)
  | aop (g : Clu) (st : Strm)
  | eop (g : Clu) (st : Strm)
  | top (g : Clu) (st : Strm)
  | qcmp (g : Clu) (st : Strm)
  | brk (g : Clu) (st : Strm)
  | fin (g : Clu) (st : Strm)
  -- the load engine (R203, R204)
  | ldt (g : Clu) (obs : HwObs)
  | lds (g : Clu) (obs : HwObs)
  | ldx (g : Clu) (obs : HwObs)
  | gath (g : Clu) (obs : HwObs)
  -- the vector engine (R206 to R212)
  | chain (g : Clu) (obs : HwObs)
  | const (g : Clu) (obs : HwObs)
  | vmov (g : Clu) (obs : HwObs)
  -- the reduce engine (R213 to R219)
  | rsum (g : Clu) (obs : HwObs)
  | rmax (g : Clu) (obs : HwObs)
  | rmin (g : Clu) (obs : HwObs)
  | rssq (g : Clu) (obs : HwObs)
  | rdot (g : Clu) (obs : HwObs)
  | argmx (g : Clu) (obs : HwObs)
  | argmn (g : Clu) (obs : HwObs)
  | topk (g : Clu) (obs : HwObs)
  | scan (g : Clu) (obs : HwObs)
  | xred (g : Clu) (obs : HwObs)
  | xredResult (p : Part) (xtag k : Nat) (obs : HwObs) (first : Nat := 0)
  | rly (g : Clu) (obs : HwObs)
  -- the permute engine (R221 to R225)
  | trn (g : Clu) (obs : HwObs)
  | perm (g : Clu) (obs : HwObs)
  | cpy (g : Clu) (obs : HwObs)
  | bcst (g : Clu) (obs : HwObs)
  | scat (g : Clu) (obs : HwObs)
  | gatp (g : Clu) (obs : HwObs)
  | pack (g : Clu) (obs : HwObs)
  | unpk (g : Clu) (obs : HwObs)
  | sort (g : Clu) (obs : HwObs)
  -- the store engine (R227 to R230)
  | stt (g : Clu) (obs : HwObs)
  | stx (g : Clu) (obs : HwObs)
  | put (g : Clu) (obs : HwObs)
  | done (g : Clu) (obs : HwObs)
  | fence (g : Clu) (obs : HwObs)
  -- completions, signals, remote regions, instruction caches
  | longWordComplete (g : Clu) (st : Strm)
  | signalArrive (g : Clu) (t : Fin 64) (n : Nat)
  | remoteRequest (g : Clu) (st : Strm)
  | remoteGrant (g : Clu)
  | remoteRelease (g : Clu)
  | icacheFill (g : Clu) (b : Bool) (line : Nat) (obs : HwObs)
  | icacheParityRefetch (g : Clu) (b : Bool) (line : Nat) (again : Bool) (obs : HwObs)
  -- rally links (R374 to R407)
  | frameWrite (x : PortNo) (f : Frame) (obs : HwObs)
  | frameReadreq (x : PortNo) (f : Frame)
  | flushTableRelease (x : PortNo)
  | frameReadrsp (x : PortNo) (f : Frame)
  | frameReduce (x : PortNo) (f : Frame) (suspect : Bool)
  | frameHello (x : PortNo) (f : Frame)
  | frameAbort (x : PortNo) (f : Frame)
  | frameIdle (x : PortNo) (f : Frame)
  | linkCrcTimeout (x : PortNo)
  | linkReplayLimit (x : PortNo)
  | linkRetryTimer (x : PortNo)
  | reductionTimeout (g : Clu) (st : Strm)
  -- faults and resets of partitions (R441 to R454)
  | faultLatch (p : Part) (errs : List HwErr)
  | faultReport (p : Part) (obs : HwObs := {})
  | partitionReset (p : Part) (scrubError : Bool)
  | partitionResetEnd (p : Part)
  | reverifyDone (p : Part) (obs : HwObs)
  | deviceFault (cause : Nat) (handler : Bool := true)
  | thermalSample (temps : List (BitVec 8))
  | patrolRead (da : Nat) (obs : HwObs)
  | drillSchedule (c : Court)
  | drillKernelEnd (g : Clu) (pass : Bool) (obs : HwObs := {})
  -- power, reset, boot and the board (R464 to R500)
  | powerOn (mv : Nat) (wiring : Wiring := {})
  | powerOnResetRelease
  | powerOff (mv : Nat) (hdr : Bool := false)
  | railFault (rail : Fin 8)
  | restart (v : Byte) (pec : Option Byte := none)
  | resetN (ns : Nat)
  | perstN (b : Bool)
  | hotReset
  | dlDown (refclk : Bool := false)
  | resetRelease (src : RstSource) (refclk : Bool := true)
  | bootStageAdvance (obs : BootObs)
  | hostLinkTraining
  | cageTrip (k : PortNo) (mw : Nat)
  | cableChange (k : PortNo) (copper : Option Bool)
  | jtagTapActive (ir : TapIr := .bypass) (clocks : List TapClk := [])
  | dlUp (width rate : Nat) (cxl : Bool)
  | cmdRtsN (asserted : Bool)
  | overvoltageRestart (mv : Nat)
  | hostReadCompletion (p : Part) (id off : Nat) (data : Option (List Byte)) (err : HostErr := .unsupported)
  deriving DecidableEq, Repr

end Sys2Proof
end

