-- ==== Sys2Proof/WellFormed.lean ====
section
/-! DEFINITION. Which commands are well formed: values that the grammar of lines, a bus or a frame can carry (R276 to R278,
R378, R444, R480, R505, R507, R520). A command that is not, no agent can send. -/

namespace Sys2Proof

/-- A number of a line (R278). -/
def u64 (n : Nat) : Bool := decide (n < 2 ^ 64)

/-- A length or number within limits. -/
def inLen (lo hi n : Nat) : Bool := decide (lo ≤ n) && decide (n ≤ hi)

/-- What holds of an operand that is given. -/
def okOpt {α : Type} (f : α → Bool) (o : Option α) : Bool := match o with | some a => f a | none => true

/-- A line's tag is 0 to 65535 (R276). -/
def LineCtx.ok (l : LineCtx) : Bool := okOpt (fun t => decide (t ≤ 65535)) l.tag

/-- The numbers of `nc=` (R278, R320). -/
def NcItems.ok (n : NcItems) : Bool := okOpt u64 n.flush && okOpt u64 n.sat && okOpt u64 n.seed

/-- The widths of the fields of a frame (R378). -/
def Frame.ok (f : Frame) : Bool :=
  decide (f.cls < 8) && decide (f.hop < 4) && decide (f.crcls < 8) && decide (f.crlvl < 4) && decide (f.crcnt < 64) &&
  decide (f.seq < 1024) && decide (f.ack < 1024) && decide (f.cx < 8) && decide (f.src < 256) && decide (f.dst < 256) &&
  decide (f.c7 < 256) && decide (f.c8 < 2 ^ 32) && decide (f.payload.length = 64) && decide (f.crc < 2 ^ 32)

/-- The widths of the fields of an error, and the units and spaces that a record names (R444). -/
def HwErr.ok (e : HwErr) : Bool :=
  decide (e.code < 256) && decide (e.cluster < 96 ∨ e.cluster = 255) && decide (e.stream ≤ 4 ∨ e.stream = 7) &&
  inLen 1 0x0D e.unit && decide (e.offset < 2 ^ 32) && decide (e.addr < 2 ^ 48) && decide (e.space < 3) &&
  decide (e.court ≤ 7 ∨ e.court = 15) && decide (e.detail < 256)

/-- A request of PCIe to BAR4: 1 to 4096 bytes of one 4 KiB page of its 32 GiB (R520). -/
def bar4Form (off n : Nat) : Bool := inLen 1 4096 n && decide (off % 4096 + n ≤ 4096) && decide (off + n ≤ 2 ^ 35)

/-- The command is well formed. -/
def wellFormed (i : Instr) : Bool :=
  match i with
  | .hello l baud => l.ok && okOpt u64 baud
  | .part l _ courts _ _ => l.ok && !courts.isEmpty
  | .free l _ _ => l.ok
  | .clock l _ mhz => l.ok && u64 mhz
  | .linkReport l _ => l.ok
  | .linkOpUp l _ => l.ok
  | .linkOpDown l _ => l.ok
  | .linkOpRetrain l _ => l.ok
  | .linkRack l n => l.ok && okOpt u64 n
  | .route l _ dst _ => l.ok && u64 dst
  | .group l _ id members rto => l.ok && okOpt u64 id && okOpt (fun m => m.all fun r => u64 r.1 && u64 r.2) members && okOpt u64 rto
  | .attest l _ => l.ok
  | .session l _ _ => l.ok
  | .fwStat l => l.ok
  | .fwWrite l src len => l.ok && u64 src && u64 len
  | .statDevice l => l.ok
  | .statParts l => l.ok
  | .statCourts l => l.ok
  | .statDeviceCounters l => l.ok
  | .temp l => l.ok
  | .echo l _ => l.ok
  | .drillCourts l courts => l.ok && !courts.isEmpty
  | .resetCommand l => l.ok
  | .load l _ _ src len => l.ok && u64 src && u64 len
  | .swap l _ => l.ok
  | .go l _ _ args dl nc done => l.ok && okOpt u64 args && okOpt u64 dl && nc.ok && okOpt u64 done
  | .wait l _ => l.ok
  | .sig l _ => l.ok
  | .halt l _ => l.ok
  | .abort l _ => l.ok
  | .set l _ nc dl => l.ok && okOpt NcItems.ok nc && okOpt u64 dl && (nc.isSome || dl.isSome)
  | .shard l _ idx g pp c dev => l.ok && u64 idx && g.all u64 && pp.all u64 && c.all u64 && dev.all fun r => u64 r.1 && u64 r.2
  | .shardDrop l _ idx => l.ok && u64 idx
  | .commit l _ => l.ok
  | .statPartition l _ => l.ok
  | .statSlots l _ => l.ok
  | .statKeys l _ => l.ok
  | .statPartCounters l _ => l.ok
  | .statShard l _ idx => l.ok && u64 idx
  | .statPoison l _ => l.ok
  | .tally l _ set => l.ok && okOpt u64 set
  | .key l _ slot _ => l.ok && u64 slot
  | .unkey l _ slot => l.ok && u64 slot
  | .move l _ _ pa host len key => l.ok && u64 pa && u64 host && u64 len && okOpt u64 key
  | .fill l _ pa len val => l.ok && u64 pa && u64 len && u64 val
  | .breakCount l _ cl s n => l.ok && u64 cl && u64 s && u64 n
  | .breakTag l _ tag => l.ok && u64 tag
  | .breakDrop l _ => l.ok
  | .step l _ cl s m => l.ok && u64 cl && u64 s && u64 m
  | .cont l _ => l.ok
  | .peek l _ cl _ s reg addr len => l.ok && u64 cl && okOpt u64 s && okOpt u64 reg && okOpt u64 addr && okOpt u64 len
  | .poke l _ cl _ s reg addr val data => l.ok && u64 cl && okOpt u64 s && okOpt u64 reg && okOpt u64 addr && okOpt u64 val && (val.isSome != data.isSome)
  | .drillPartition l _ => l.ok
  | .lock l _ _ => l.ok
  | .cmdinWrite _ _ data off => inLen 1 64 data.length && decide (off + data.length ≤ 64) && data.any (·.isSome)
  | .replyoutRead _ _ off n => inLen 1 64 n && decide (0x40 ≤ off) && decide (off < 0x80)
  | .ringbaseWrite _ _ lo hi => lo.isSome || hi.isSome
  | .cxlMemWrite _ _ data enable _ _ => decide (data.length = 64) && u64 enable
  | .birsp da data => okOpt (fun d => decide (d.length = 64)) data && decide (da % 64 = 0)
  | .bar4Read off n _ _ => bar4Form off n
  | .bar4Write off data _ _ _ _ => bar4Form off data.length
  | .ideKmKeyProg _ _ _ _ _ key => decide (key.length = 32)
  | .challenge _ nonce => decide (nonce.length = 32)
  | .keyExchange pub => decide (pub.length = 96)
  | .vendorDefinedRequest _ m => match m with | some (.keyProg _ _ _ _ key) => decide (key.length = 32) | _ => true
  | .signalArrive _ _ n => decide (1 ≤ n)
  | .frameWrite _ f _ => f.ok
  | .frameReadreq _ f => f.ok
  | .frameReadrsp _ f => f.ok
  | .frameReduce _ f _ => f.ok
  | .frameHello _ f => f.ok
  | .frameAbort _ f => f.ok
  | .frameIdle _ f => f.ok
  | .faultLatch _ errs => errs.all HwErr.ok
  | .deviceFault cause _ => inLen 1 8 cause
  | .thermalSample temps => decide (temps.length = 9)
  | .patrolRead da _ => decide (da < 0x600000000)
  | .hostReadCompletion _ _ off data _ => decide (off % 64 = 0) && okOpt (fun d => decide (d.length = 64)) data
  | .uartBaudSwitch | .freeDone _ | .relockDone _ | .attestReportDone | .drillPassDone _ | .resetCommandFire
  | .loadDone _ _ | .rallySetApply _ | .moverJobEnd _ _ _ | .sealChunk _ _ _ _ | .unsealChunk _ _ _ | .breakStopped _
  | .lineParse _ _ | .parserResume _ _ | .evLost _ | .winctlWrite _ _ _ | .ringsizeWrite _ _ _ | .ringEnable _ _ _
  | .ringDisable _ _ _ | .ringCieWrite _ _ _ | .ringconsWrite _ _ _ | .registerWriteIgnored _ _ | .ringEntryWrite _ _
  | .msixUnmask _ _ _ _ | .busMasterEnableSet _ _ | .functionLevelReset | .hdmDecoderCommit _ _ _ _ | .cxlMemRead _ _ _ _
  | .ideIntegrityFailure _ | .kSetGo _ _ _ | .kSetStop _ _ _ | .getVersion | .getCapabilities
  | .negotiateAlgorithms _ _ _ | .getDigests | .getCertificate _ _ _ | .getMeasurements _ _ _ | .finish _ _
  | .heartbeat _ | .keyUpdate _ | .endSession _ | .spdmUnsupportedRequest _ | .mailboxCommand _
  | .uartByteReceive _ | .uartLineHandoff | .launchStart _ | .launchEnd _ _ | .deadlineExpire _ | .nop _ _
  | .sync _ _ | .loop _ _ | .br _ _ | .aop _ _ | .eop _ _ | .top _ _ | .qcmp _ _ | .brk _ _ | .fin _ _ | .ldt _ _
  | .lds _ _ | .ldx _ _ | .gath _ _ | .chain _ _ | .const _ _ | .vmov _ _ | .rsum _ _ | .rmax _ _ | .rmin _ _
  | .rssq _ _ | .rdot _ _ | .argmx _ _ | .argmn _ _ | .topk _ _ | .scan _ _ | .xred _ _ | .xredResult _ _ _ _ _
  | .rly _ _ | .trn _ _ | .perm _ _ | .cpy _ _ | .bcst _ _ | .scat _ _ | .gatp _ _ | .pack _ _ | .unpk _ _
  | .sort _ _ | .stt _ _ | .stx _ _ | .put _ _ | .done _ _ | .fence _ _ | .longWordComplete _ _
  | .remoteRequest _ _ | .remoteGrant _ | .remoteRelease _ | .icacheFill _ _ _ _ | .icacheParityRefetch _ _ _ _ _
  | .flushTableRelease _ | .linkCrcTimeout _ | .linkReplayLimit _ | .linkRetryTimer _ | .reductionTimeout _ _
  | .faultReport _ _ | .partitionReset _ _ | .partitionResetEnd _ | .reverifyDone _ _ | .drillSchedule _
  | .drillKernelEnd _ _ _ | .powerOn _ _ | .powerOnResetRelease | .powerOff _ _ | .railFault _ | .restart _ _ | .resetN _
  | .perstN _ | .hotReset | .dlDown _ | .resetRelease _ _ | .bootStageAdvance _ | .hostLinkTraining | .cageTrip _ _
  | .cableChange _ _ | .jtagTapActive _ _ | .dlUp _ _ _ | .cmdRtsN _ | .overvoltageRestart _ => true

end Sys2Proof
end

