-- ==== Sys2Proof/Decode.lean ====
section
/-! DEFINITION. The table of commands gives no row any bits: commands come from outside as they are, and no word spells
one. -/

namespace Sys2Proof

/-- The command that a word spells by the bits of the table: none, as no row of the table has bits. -/
def decodeTableWord (nbits w : Nat) : Option Instr :=
  let _ := (nbits, w)
  none

end Sys2Proof
end

