-- ==== Sys2Proof/Config.lean ====
section
/-! DEFINITION. What an implementation fixes and the values the spec leaves free: constants without a body, so that no
proof can see what they are. Where a value may differ from one time to the next, it takes the model's counter
`State.free`. -/

namespace Sys2Proof

/-- R95 says which payload a STRICT NaN carries and is silent on its sign: free (assumption 3, DESIGN CHOICE). -/
opaque Config.strictNanSign : Bool → Nat → Bool

/-- R118: the function unit's own choice of a result code for an operation, a format and two operand codes; the model
takes it wherever it lies within the bound of R118 (assumption 4, DESIGN CHOICE). -/
opaque Config.funcUnit : Nat → Nat → Nat → Nat → Nat

/-- How much time passes, in the unit at hand: RUNTIME, timers and the event counters that count time are taken from it
(R38, R169, R170, R369; assumption 2, DESIGN CHOICE). -/
opaque Config.elapsed : Nat → Nat

/-- How far a mover job had come when the partition faulted or the job was stopped (R362, R446; assumption 2, DESIGN CHOICE). -/
opaque Config.progress : Nat → Nat

/-- Whether the scale line lands after the value line where the two arrays of a SCALED_SEP destination share a line: the
order in which a store writes them is not defined (R28, R137; assumption 2, DESIGN CHOICE). By the counter and the line. -/
opaque Config.scaleLast : Nat → Nat → Bool

/-- Where the search for a TID of a PUT's own begins, mod 256 (R392; assumption 15, DESIGN CHOICE). -/
opaque Config.putTid : Nat → Nat

/-- Whether a line of a long word in flight is not yet written when its partition faults (R446; assumption 8, DESIGN CHOICE). By
the counter, the place of the long word among those in flight, the scratchpad or none, and the line. -/
opaque Config.unwritten : Nat → Nat → Option Nat → Nat → Bool

/-- The set of the instruction cache in which a line of a slot lies, mod 128, and the way whose line leaves a full set (R23,
R26; assumption 25, DESIGN CHOICE). -/
opaque Config.icacheSet : Bool → Nat → Nat
opaque Config.icacheWay : Nat → Nat

/-- Whether a court cache line that holds poison has been evicted by now (R438; assumption 2, DESIGN CHOICE). By the counter
and the line. -/
opaque Config.evicted : Nat → Nat → Bool

/-- Whether the regions of the scratchpad that a drill kernel uses include a region (R457, R458; assumption 2, DESIGN CHOICE).
-/
opaque Config.drillUses : Nat → Nat → Bool

/-- Whether a read that no command's detectors speak of meets an error that is corrected (R341, R437), and whether one of
device memory meets an uncorrectable error (R342; assumption 2, DESIGN CHOICE). By the counter and the word or line. -/
opaque Config.corrected : Nat → Nat → Bool
opaque Config.uncorrectable : Nat → Nat → Bool

/-- The cell of the boundary register that an output pin follows (R500 names no order of the cells; assumption 28, DESIGN
CHOICE): pin 0 is FAULT_N, 1 CMD_CTS_N, 2 CMD_TXD. -/
opaque Config.boundaryCell : Nat → Nat

/-- The length of the boundary register, what its cells hold before any is loaded, and the levels that they capture of other
pins, by the counter and the cell; the length of the instruction register and the bits it captures beyond the two lowest (R500;
assumption 28, DESIGN CHOICE). -/
opaque Config.boundaryLength : Nat
opaque Config.boundaryInit : Nat → Bool
opaque Config.pinLevel : Nat → Nat → Bool
opaque Config.irLength : Nat
opaque Config.irCapture : Nat → Bool

/-- What the board's meters show, by the counter and the quantity (R498; assumption 28, DESIGN CHOICE). -/
opaque Config.meter : Nat → Nat → Nat

/-- Random bits of the management island: private keys and nonces (R419, R426; assumption 5, DESIGN CHOICE). -/
opaque Config.random : Nat → Nat

/-- The cohort's ECDSA P-384 private key (R414; assumption 5, DESIGN CHOICE). -/
opaque Config.cohortKey : Nat

/-- The 48 bytes of the SHA-384 of the boot ROM (R416; assumption 7, DESIGN CHOICE). -/
opaque Config.romDigest : Nat → Byte

/-- The cohort certificate chain that GET_CERTIFICATE returns (R414, R428; assumption 7, DESIGN CHOICE). -/
opaque Config.certChain : List Byte

/-- The parts of a firmware bundle, whose format the spec does not give (R472; assumption 7, DESIGN CHOICE): version, the
three images, security version, raise flag; none when header or lengths are inconsistent. -/
opaque Config.parseBundle : List Byte → Option (Nat × Nat × Nat × List Byte × List Byte × List Byte × Nat × Bool)

/-- Where a bundle holds its signing public key (x ‖ y), its signature (r ‖ s) and the bytes signed (R472; assumption 7, DESIGN
CHOICE). -/
opaque Config.bundleKey : List Byte → List Byte
opaque Config.bundleSig : List Byte → List Byte
opaque Config.bundleBody : List Byte → List Byte

/-- What a drill leaves in the registers of a cluster, by the model's counter and a place (R458 states the scratchpad only;
assumption 2, DESIGN CHOICE). -/
opaque Config.leftover : Nat → Nat → Nat

/-- Whether the CXL specification makes a mailbox command mandatory for a Type 3 device, and what such a command returns
(R346; assumption 7, DESIGN CHOICE). -/
opaque Config.mailboxMandatory : Nat → Bool
opaque Config.mailboxReturn : Nat → Nat → List Byte

/-- Whether a MAC or key of an SPDM session handshake verifies (R426; assumption 7, DESIGN CHOICE). -/
opaque Config.spdmFinishOk : List Byte → List Byte → Bool

/-- The digest of the transcript that a signature of the SPDM responder covers, by the model's counter, the kind of request
and its bytes (R426; assumption 7, DESIGN CHOICE). -/
opaque Config.spdmTranscript : Nat → Nat → List Byte → List Byte

end Sys2Proof
end

