-- ==== Sys2Proof/Machine/Bits.lean ====
section
/-! DEFINITION. Bit fields, byte order, sparse stores and text: the helpers every other file of the machine uses. -/

namespace Sys2Proof.Machine

/-- Bits [hi:lo] of a number (the notation of 00_scope.md). -/
def bits (w hi lo : Nat) : Nat := (w >>> lo) % 2 ^ (hi + 1 - lo)

/-- Bit [n] of a number. -/
def bit (w n : Nat) : Bool := (w >>> n) % 2 == 1

/-- 1 for true, 0 for false. -/
def b2n (b : Bool) : Nat := if b then 1 else 0

/-- The little-endian number held in a byte string (R5). -/
def leNat : List Byte → Nat
  | [] => 0
  | b :: r => b.toNat + 256 * leNat r

/-- `n` bytes of a number, little-endian (R5). -/
def leBytes : Nat → Nat → List Byte
  | 0, _ => []
  | n + 1, v => byteOf v :: leBytes n (v / 256)

/-- The big-endian number held in a byte string (R5: integers of cryptographic standards). -/
def beNat (l : List Byte) : Nat := l.foldl (fun a b => a * 256 + b.toNat) 0

/-- `n` bytes of a number, big-endian. -/
def beBytes (n v : Nat) : List Byte := (leBytes n v).reverse

/-- Two's complement reading of the low `w` bits. -/
def signed (w v : Nat) : Int :=
  let u := v % 2 ^ w
  if 2 * u < 2 ^ w then (u : Int) else (u : Int) - (2 : Int) ^ w

/-- The low `w` bits of an integer in two's complement. -/
def toCode (w : Nat) (x : Int) : Nat := (x % (2 : Int) ^ w).toNat

/-- Quotient rounded up. -/
def ceilDiv (a b : Nat) : Nat := (a + b - 1) / b

/-- The number rounded up to a multiple of 64. -/
def roundUp64 (x : Nat) : Nat := ceilDiv x 64 * 64

/-- A count that stays at its maximum once it reaches it (R124, R463). -/
def satAdd (max a b : Nat) : Nat := min max (a + b)

/-- The ceiling of log2, 0 for 0 and 1. -/
def log2Up (n : Nat) : Nat := if n ≤ 1 then 0 else Nat.log2 (n - 1) + 1

section Sparse
variable {α : Type}

/-- A read of a sorted sparse store: unlisted keys read as `d`. -/
def spGet (d : α) : List (Nat × α) → Nat → α
  | [], _ => d
  | (k, v) :: r, a => if a = k then v else spGet d r a

/-- A write of a sorted sparse store, keeping its keys rising and no entry equal to `d`. -/
def spSet [DecidableEq α] (d : α) : List (Nat × α) → Nat → α → List (Nat × α)
  | [], a, v => if v = d then [] else [(a, v)]
  | (k, w) :: r, a, v =>
    if a < k then (if v = d then (k, w) :: r else (a, v) :: (k, w) :: r)
    else if a = k then (if v = d then r else (a, v) :: r)
    else (k, w) :: spSet d r a v

/-- The keys of a sparse store that satisfy a test are removed: they read as the default. -/
def spDrop (p : Nat → Bool) (m : List (Nat × α)) : List (Nat × α) := m.filter fun c => !p c.1

/-- The canonical form of a sparse store: strictly rising keys, no entry at the default. -/
def spWf [DecidableEq α] (d : α) : List (Nat × α) → Bool
  | [] => true
  | [(_, v)] => decide (v ≠ d)
  | (k, v) :: (k', v') :: r => decide (v ≠ d) && decide (k < k') && spWf d ((k', v') :: r)

/-- Insertion of a number into a strictly rising list. -/
def insSorted (a : Nat) : List Nat → List Nat
  | [] => [a]
  | k :: r => if a < k then a :: k :: r else if a = k then k :: r else k :: insSorted a r

/-- The element of a fixed table, with a default outside it. -/
def tget (d : α) (l : List α) (i : Nat) : α := l.getD i d

end Sparse

/-- The bytes of an ASCII text. -/
def asc (t : String) : List Byte := t.toList.map fun c => byteOf c.toNat

/-- Decimal digits, most significant first, at most `f` of them. -/
def decDigits : Nat → Nat → List Byte
  | 0, _ => []
  | f + 1, n => if n < 10 then [byteOf (48 + n)] else decDigits f (n / 10) ++ [byteOf (48 + n % 10)]

/-- A number in decimal. -/
def dec (n : Nat) : List Byte := decDigits 40 n

/-- A signed number in decimal. -/
def decI (n : Int) : List Byte := if n < 0 then asc "-" ++ dec n.natAbs else dec n.toNat

/-- One lower-case hex digit. -/
def hexDigit (n : Nat) : Byte := if n % 16 < 10 then byteOf (48 + n % 16) else byteOf (87 + n % 16)

/-- `k` hex digits of a number, most significant first. -/
def hexN (k n : Nat) : List Byte := (List.range k).reverse.map fun i => hexDigit (n >>> (4 * i))

/-- A number in hex without leading zeros. -/
def hexMin (n : Nat) : List Byte := hexN (Nat.log2 n / 4 + 1) n

/-- The hex digits of a byte string, first byte first. -/
def hexBytes (l : List Byte) : List Byte := l.flatMap fun b => hexN 2 b.toNat

/-- Hex digits grouped in eights by underscores (R310). -/
def hexGroups : Nat → List Byte → List Byte
  | 0, _ => []
  | f + 1, l => if l.length ≤ 4 then hexBytes l else hexBytes (l.take 4) ++ asc "_" ++ hexGroups f (l.drop 4)

/-- A hexadecimal number with the `0x` prefix and an underscore every four digits beyond four (00_scope.md). -/
def hex0x (n : Nat) : List Byte := asc "0x" ++ hexMin n

/-- Texts joined by a separator. -/
def joinWith (sep : List Byte) : List (List Byte) → List Byte
  | [] => []
  | [x] => x
  | x :: r => x ++ sep ++ joinWith sep r

end Sys2Proof.Machine
end

