-- ==== Sys2Proof/Machine/Crypto.lean ====
section
/-! DEFINITION. The cryptographic functions the spec names by their standards (R238, R419 to R431, R364, R379): SHA-384,
HMAC, HKDF, AES-256 with GCM and RFC 3394 key wrap, ECDH and ECDSA over P-384, and CRC-32. PRESUMED from those
standards, which the spec names and does not restate (assumption 5, DESIGN CHOICE). -/

namespace Sys2Proof.Machine

/-! ## SHA-384 (FIPS 180-4) -/

/-- The first 80 primes. -/
def primes80 : List Nat :=
  [2, 3, 5, 7, 11, 13, 17, 19, 23, 29, 31, 37, 41, 43, 47, 53, 59, 61, 67, 71, 73, 79, 83, 89, 97, 101, 103, 107, 109,
    113, 127, 131, 137, 139, 149, 151, 157, 163, 167, 173] ++
  [179, 181, 191, 193, 197, 199, 211, 223, 227, 229, 233, 239, 241, 251, 257, 263, 269, 271, 277, 281, 283, 293, 307,
    311, 313, 317, 331, 337, 347, 349, 353, 359, 367, 373, 379, 383, 389, 397, 401, 409]

/-- The largest r with r^k ≤ n, by bits from the top. -/
def rootAux (k n : Nat) : Nat → Nat → Nat
  | 0, r => r
  | f + 1, r => let c := r + 2 ^ f; rootAux k n f (if c ^ k ≤ n then c else r)

/-- The round constants: the first 64 fraction bits of the cube roots of the first 80 primes. -/
def shaK : List Nat := primes80.map fun p => rootAux 3 (p <<< 192) 70 0 % 2 ^ 64

/-- The initial value of SHA-384: the first 64 fraction bits of the square roots of the ninth to sixteenth primes. -/
def sha384Init : List Nat := ((primes80.drop 8).take 8).map fun p => rootAux 2 (p <<< 128) 70 0 % 2 ^ 64

/-- Rotation right of a 64-bit number. -/
def rotr64 (x n : Nat) : Nat := (x >>> n) ||| ((x <<< (64 - n)) % 2 ^ 64)

/-- The message schedule, newest word first. -/
def shaSchedule : Nat → List Nat → List Nat
  | 0, w => w
  | n + 1, w =>
    let w15 := w.getD 14 0
    let w2 := w.getD 1 0
    let s0 := rotr64 w15 1 ^^^ rotr64 w15 8 ^^^ (w15 >>> 7)
    let s1 := rotr64 w2 19 ^^^ rotr64 w2 61 ^^^ (w2 >>> 6)
    shaSchedule n (((w.getD 15 0 + s0 + w.getD 6 0 + s1) % 2 ^ 64) :: w)

/-- One round. -/
def shaRound (s : List Nat) (kw : Nat × Nat) : List Nat :=
  match s with
  | [a, b, c, d, e, f, g, h] =>
    let t1 := (h + (rotr64 e 14 ^^^ rotr64 e 18 ^^^ rotr64 e 41) + ((e &&& f) ^^^ ((2 ^ 64 - 1 - e) &&& g)) + kw.1 + kw.2)
      % 2 ^ 64
    let t2 := ((rotr64 a 28 ^^^ rotr64 a 34 ^^^ rotr64 a 39) + ((a &&& b) ^^^ (a &&& c) ^^^ (b &&& c))) % 2 ^ 64
    [(t1 + t2) % 2 ^ 64, a, b, c, (d + t1) % 2 ^ 64, e, f, g]
  | s => s

/-- One 128-byte block. -/
def shaBlock (h : List Nat) (blk : List Byte) : List Nat :=
  let w := ((List.range 16).map fun i => beNat ((blk.drop (8 * i)).take 8)).reverse
  let ws := (shaSchedule 64 w).reverse
  (h.zip ((shaK.zip ws).foldl shaRound h)).map fun p => (p.1 + p.2) % 2 ^ 64

/-- Blocks of a padded message (fuel bounds their number). -/
def shaBlocks : Nat → List Nat → List Byte → List Nat
  | 0, h, _ => h
  | f + 1, h, m => if m.isEmpty then h else shaBlocks f (shaBlock h (m.take 128)) (m.drop 128)

/-- SHA-384 of a byte string: 48 bytes. -/
def sha384 (m : List Byte) : List Byte :=
  let z := (239 - m.length % 128) % 128
  let p := m ++ 0x80#8 :: List.replicate z 0 ++ beBytes 16 (8 * m.length)
  ((shaBlocks (p.length / 128 + 1) sha384Init p).flatMap (beBytes 8)).take 48

/-- HMAC-SHA-384 (RFC 2104). -/
def hmac384 (key m : List Byte) : List Byte :=
  let k0 := if key.length > 128 then sha384 key else key
  let k := k0 ++ List.replicate (128 - k0.length) 0
  sha384 (k.map (· ^^^ 0x5C#8) ++ sha384 (k.map (· ^^^ 0x36#8) ++ m))

/-- HKDF-Extract (RFC 5869). -/
def hkdfExtract (salt ikm : List Byte) : List Byte := hmac384 salt ikm

/-- The blocks of HKDF-Expand. -/
def hkdfBlocks (prk info : List Byte) : Nat → Nat → List Byte → List Byte
  | 0, _, _ => []
  | f + 1, i, t => let t' := hmac384 prk (t ++ info ++ [byteOf i]); t' ++ hkdfBlocks prk info f (i + 1) t'

/-- HKDF-Expand to `len` bytes (RFC 5869). -/
def hkdfExpand (prk info : List Byte) (len : Nat) : List Byte :=
  (hkdfBlocks prk info (ceilDiv len 48) 1 []).take len

/-! ## AES-256 (FIPS 197), GCM and key wrap -/

/-- Doubling in GF(2^8). -/
def gfDouble (a : Nat) : Nat := if a < 128 then 2 * a else (2 * a) % 256 ^^^ 0x1B

/-- Multiplication in GF(2^8). -/
def gfMulAux : Nat → Nat → Nat → Nat
  | 0, _, _ => 0
  | f + 1, a, b => (if b % 2 = 1 then a else 0) ^^^ gfMulAux f (gfDouble a) (b / 2)

def gfMul (a b : Nat) : Nat := gfMulAux 8 a b

/-- Powers in GF(2^8). -/
def gfPow (a : Nat) : Nat → Nat
  | 0 => 1
  | n + 1 => gfMul a (gfPow a n)

/-- The substitution of one byte: the inverse, then the affine map. -/
def sboxOf (x : Nat) : Nat :=
  let b := gfPow x 254
  let r (n : Nat) : Nat := ((b <<< n) ||| (b >>> (8 - n))) % 256
  b ^^^ r 1 ^^^ r 2 ^^^ r 3 ^^^ r 4 ^^^ 0x63

def sboxTable : List Nat := (List.range 256).map sboxOf

def subByte (x : Nat) : Nat := sboxTable.getD x 0

/-- The inverse substitution. -/
def invSubByte (x : Nat) : Nat := (sboxTable.findIdx? (· == x)).getD 0

/-- The key schedule: words as lists of four bytes, newest first. -/
def aesExpand : Nat → Nat → List (List Nat) → List (List Nat)
  | 0, _, w => w
  | f + 1, i, w =>
    let prev := w.headD []
    let old := w.getD 7 []
    let t := if i % 8 = 0 then
        match prev with
        | [a, b, c, d] => [subByte b ^^^ gfPow 2 (i / 8 - 1), subByte c, subByte d, subByte a]
        | l => l
      else if i % 8 = 4 then prev.map subByte else prev
    aesExpand f (i + 1) (((old.zip t).map fun p => p.1 ^^^ p.2) :: w)

/-- The fifteen round keys of a 32-byte key. -/
def aesKeys (key : List Byte) : List (List Nat) :=
  let k := key.map BitVec.toNat
  let w := ((List.range 8).map fun i => (k.drop (4 * i)).take 4).reverse
  let ws := (aesExpand 52 8 w).reverse
  (List.range 15).map fun r => ((ws.drop (4 * r)).take 4).flatten

def xorNat (a b : List Nat) : List Nat := (a.zip b).map fun p => p.1 ^^^ p.2

def mixCol (c0 c1 c2 c3 : Nat) (col : List Nat) : List Nat :=
  match col with
  | [a, b, c, d] =>
    [gfMul a c0 ^^^ gfMul b c1 ^^^ gfMul c c2 ^^^ gfMul d c3, gfMul a c3 ^^^ gfMul b c0 ^^^ gfMul c c1 ^^^ gfMul d c2,
      gfMul a c2 ^^^ gfMul b c3 ^^^ gfMul c c0 ^^^ gfMul d c1, gfMul a c1 ^^^ gfMul b c2 ^^^ gfMul c c3 ^^^ gfMul d c0]
  | l => l

def mixCols (c0 c1 c2 c3 : Nat) (s : List Nat) : List Nat :=
  (List.range 4).flatMap fun i => mixCol c0 c1 c2 c3 ((s.drop (4 * i)).take 4)

def shiftRows (s : List Nat) : List Nat := (List.range 16).map fun i => s.getD ((i + 4 * (i % 4)) % 16) 0
def invShiftRows (s : List Nat) : List Nat := (List.range 16).map fun i => s.getD ((i + 16 - 4 * (i % 4)) % 16) 0

/-- One block encrypted under the round keys. -/
def aesEnc (ks : List (List Nat)) (b : List Nat) : List Nat :=
  let s0 := xorNat b (ks.getD 0 [])
  let s := (List.range 13).foldl (fun s r => xorNat (mixCols 2 3 1 1 (shiftRows (s.map subByte))) (ks.getD (r + 1) [])) s0
  xorNat (shiftRows (s.map subByte)) (ks.getD 14 [])

/-- One block decrypted under the round keys. -/
def aesDec (ks : List (List Nat)) (b : List Nat) : List Nat :=
  let s0 := xorNat b (ks.getD 14 [])
  let s := (List.range 13).foldl (fun s r =>
    mixCols 14 11 13 9 (xorNat ((invShiftRows s).map invSubByte) (ks.getD (13 - r) []))) s0
  xorNat ((invShiftRows s).map invSubByte) (ks.getD 0 [])

/-- Multiplication in the field of GCM, on 128-bit numbers with the first bit most significant. -/
def ghashMul : Nat → Nat → Nat → Nat → Nat
  | 0, _, _, z => z
  | f + 1, x, v, z =>
    ghashMul f x (if v % 2 = 1 then (v / 2) ^^^ (0xE1 <<< 120) else v / 2) (if bit x f then z ^^^ v else z)

/-- GHASH over a byte string of whole blocks. -/
def ghash (h : Nat) : Nat → Nat → List Byte → Nat
  | 0, y, _ => y
  | f + 1, y, m => if m.isEmpty then y else ghash h f (ghashMul 128 (y ^^^ beNat (m.take 16)) h 0) (m.drop 16)

def pad16 (m : List Byte) : List Byte := m ++ List.replicate ((16 - m.length % 16) % 16) 0

/-- The counter-mode key stream applied to a message, from a 12-byte IV and a counter. -/
def gcmCtr (ks : List (List Nat)) (iv : List Byte) : Nat → Nat → List Byte → List Byte
  | 0, _, _ => []
  | f + 1, c, m =>
    if m.isEmpty then []
    else
      let k := aesEnc ks ((iv ++ beBytes 4 c).map BitVec.toNat)
      (((m.take 16).zip k).map fun p => p.1 ^^^ byteOf p.2) ++ gcmCtr ks iv f (c + 1) (m.drop 16)

/-- The tag of AES-256-GCM over a ciphertext. -/
def gcmTag (key iv aad ct : List Byte) : List Byte :=
  let ks := aesKeys key
  let h := beNat ((aesEnc ks (List.replicate 16 0)).map byteOf)
  let m := pad16 aad ++ pad16 ct ++ beBytes 8 (8 * aad.length) ++ beBytes 8 (8 * ct.length)
  gcmCtr ks iv 1 1 (beBytes 16 (ghash h (m.length / 16 + 1) 0 m))

/-- AES-256-GCM encryption; decryption is the same function on the ciphertext. -/
def gcmCrypt (key iv m : List Byte) : List Byte := gcmCtr (aesKeys key) iv (m.length / 16 + 1) 2 m

/-- RFC 3394 unwrap: from A and the n registers, steps t = 6n down to 1. -/
def unwrapSteps (ks : List (List Nat)) (n : Nat) : Nat → List Byte → List (List Byte) → List Byte × List (List Byte)
  | 0, a, r => (a, r)
  | t + 1, a, r =>
    let i := t % n
    let x := beBytes 8 (beNat a ^^^ (t + 1)) ++ r.getD i []
    let b := (aesDec ks (x.map BitVec.toNat)).map byteOf
    unwrapSteps ks n t (b.take 8) (r.set i (b.drop 8))

/-- RFC 3394 key unwrap, none where the integrity check fails. -/
def keyUnwrap (kek c : List Byte) : Option (List Byte) :=
  let n := c.length / 8 - 1
  let r := (List.range n).map fun i => (c.drop (8 * (i + 1))).take 8
  match unwrapSteps (aesKeys kek) n (6 * n) (c.take 8) r with
  | (a, r') => if a = List.replicate 8 0xA6#8 then some r'.flatten else none

/-- RFC 3394 key wrap. -/
def wrapSteps (ks : List (List Nat)) (n : Nat) : Nat → Nat → List Byte → List (List Byte) → List Byte × List (List Byte)
  | 0, _, a, r => (a, r)
  | f + 1, t, a, r =>
    let i := (t - 1) % n
    let b := (aesEnc ks ((a ++ r.getD i []).map BitVec.toNat)).map byteOf
    wrapSteps ks n f (t + 1) (beBytes 8 (beNat (b.take 8) ^^^ t)) (r.set i (b.drop 8))

def keyWrap (kek p : List Byte) : List Byte :=
  let n := p.length / 8
  match wrapSteps (aesKeys kek) n (6 * n) 1 (List.replicate 8 0xA6#8) ((List.range n).map fun i => (p.drop (8 * i)).take 8) with
  | (a, r) => a ++ r.flatten

/-! ## P-384 -/

def p384 : Nat := 2 ^ 384 - 2 ^ 128 - 2 ^ 96 + 2 ^ 32 - 1
def n384 : Nat := 0xffffffffffffffffffffffffffffffffffffffffffffffffc7634d81f4372ddf581a0db248b0a77aecec196accc52973
def b384 : Nat := 0xb3312fa7e23ee7e4988e056be3f82d19181d9c6efe8141120314088f5013875ac656398d8a2ed19d2a85c8edd3ec2aef
def gx384 : Nat := 0xaa87ca22be8b05378eb1c71ef320ad746e1d3b628ba79b9859f741e082542a385502f25dbf55296c3a545e3872760ab7
def gy384 : Nat := 0x3617de4a96262c6f5d9e98bf9292dc29f8f41dbd289a147ce9da3113b5f0b8c00a60b1ce1d7e819d7a431d7c90ea0e5f

/-- Powers modulo m (fuel bounds the bits of the exponent). -/
def powMod (m : Nat) : Nat → Nat → Nat → Nat → Nat
  | 0, _, _, acc => acc
  | f + 1, b, e, acc => powMod m f (b * b % m) (e / 2) (if e % 2 = 1 then acc * b % m else acc)

def invMod (m a : Nat) : Nat := powMod m 384 (a % m) (m - 2) 1

/-- Addition on the curve; none is the point at infinity. -/
def ecAdd (a b : Option (Nat × Nat)) : Option (Nat × Nat) :=
  match a, b with
  | none, q => q
  | q, none => q
  | some (x1, y1), some (x2, y2) =>
    let p := p384
    if x1 = x2 && (y1 + y2) % p = 0 then none
    else
      let l := if x1 = x2 then (3 * x1 * x1 + p - 3) * invMod p (2 * y1) % p
               else (y2 + p - y1) * invMod p (x2 + p - x1) % p
      let x3 := (l * l + 2 * p - x1 - x2) % p
      some (x3, (l * (x1 + p - x3) + p - y1) % p)

/-- Multiplication of a point by a number (fuel bounds its bits). -/
def ecMul : Nat → Nat → Option (Nat × Nat) → Option (Nat × Nat) → Option (Nat × Nat)
  | 0, _, _, acc => acc
  | f + 1, k, q, acc => ecMul f (k / 2) (ecAdd q q) (if k % 2 = 1 then ecAdd acc q else acc)

/-- A point on the curve. -/
def onCurve (x y : Nat) : Bool :=
  x < p384 && y < p384 && y * y % p384 == (x * x * x + (p384 - 3) * x + b384) % p384

/-- The 96 bytes x ‖ y of a private key's public point. -/
def ecPublic (d : Nat) : List Byte :=
  match ecMul 384 d (some (gx384, gy384)) none with
  | some (x, y) => beBytes 48 x ++ beBytes 48 y
  | none => List.replicate 96 0

/-- ECDH: the 48 bytes of the shared point's x, none for a point not on the curve or at infinity. -/
def ecdh (d : Nat) (pub : List Byte) : Option (List Byte) :=
  let x := beNat (pub.take 48)
  let y := beNat (pub.drop 48)
  if pub.length = 96 && onCurve x y then
    (ecMul 384 d (some (x, y)) none).map fun q => beBytes 48 q.1
  else none

/-- A compressed point: 0x02 or 0x03 by the parity of y, then x (R416). -/
def ecCompress (xy : List Byte) : List Byte := byteOf (2 + beNat (xy.drop 48) % 2) :: xy.take 48

/-- The point x ‖ y of a compressed point of the curve: y is a square root, as p384 is 3 modulo 4 (R310, R311). -/
def ecDecompress (c : List Byte) : Option (List Byte) :=
  match c with
  | [] => none
  | t :: r =>
    let x := beNat r
    let y0 := powMod p384 384 ((x * x * x + (p384 - 3) * x + b384) % p384) ((p384 + 1) / 4) 1
    let y := if y0 % 2 = t.toNat % 2 then y0 else (p384 - y0) % p384
    if (t = 2 ∨ t = 3) ∧ r.length = 48 ∧ x < p384 ∧ onCurve x y then some (beBytes 48 x ++ beBytes 48 y) else none

/-- ECDSA over a SHA-384 digest with a given nonce: r ‖ s in 96 bytes. -/
def ecdsaSign (d nonce : Nat) (digest : List Byte) : List Byte :=
  match ecMul 384 nonce (some (gx384, gy384)) none with
  | some (x, _) =>
    let r := x % n384
    beBytes 48 r ++ beBytes 48 ((beNat digest + r * d) * invMod n384 nonce % n384)
  | none => List.replicate 96 0

/-- ECDSA verification of r ‖ s over a SHA-384 digest. -/
def ecdsaVerify (pub digest sig : List Byte) : Bool :=
  let r := beNat (sig.take 48)
  let s := beNat (sig.drop 48)
  let w := invMod n384 s
  let q := some (beNat (pub.take 48), beNat (pub.drop 48))
  if r = 0 || s = 0 || r ≥ n384 || s ≥ n384 then false
  else match ecAdd (ecMul 384 (beNat digest * w % n384) (some (gx384, gy384)) none) (ecMul 384 (r * w % n384) q none) with
    | some (x, _) => x % n384 == r
    | none => false

/-! ## CRC-32 -/

/-- Eight steps of the reflected polynomial. -/
def crcStep : Nat → Nat → Nat
  | 0, c => c
  | n + 1, c => crcStep n (if c % 2 = 1 then (c / 2) ^^^ 0xEDB88320 else c / 2)

/-- The CRC-32 of IEEE 802.3 over a byte string. -/
def crc32 (m : List Byte) : Nat :=
  (m.foldl (fun c b => crcStep 8 (c ^^^ b.toNat)) 0xFFFFFFFF) ^^^ 0xFFFFFFFF

end Sys2Proof.Machine
end

