-- ==== Sys2Proof/Machine/Formats.lean ====
section
/-! DEFINITION. The number formats of 04_formats.md (R52 to R72, R521) and the rounding rules of 05_arithmetic.md
(R85 to R93, R101, R111 to R115, R522) on codes held as numbers. -/

namespace Sys2Proof.Machine

/-- The valid format codes of R52. -/
inductive Fmt where
  | fp32 | bf16 | fp16 | mk8 | ir4 | int32 | int16 | int8
  deriving DecidableEq, Repr

/-- The format a code names, none for a reserved code (R52). -/
def Fmt.ofCode (c : Nat) : Option Fmt :=
  match c with
  | 0 => some .fp32 | 1 => some .bf16 | 2 => some .fp16 | 3 => some .mk8 | 4 => some .ir4
  | 8 => some .int32 | 9 => some .int16 | 10 => some .int8
  | _ => none

/-- The code of a format (R52). -/
def Fmt.code : Fmt → Nat
  | .fp32 => 0 | .bf16 => 1 | .fp16 => 2 | .mk8 => 3 | .ir4 => 4 | .int32 => 8 | .int16 => 9 | .int8 => 10

/-- The storage width in bits, without the Iris scale (R52). -/
def Fmt.width : Fmt → Nat
  | .fp32 | .int32 => 32 | .bf16 | .fp16 | .int16 => 16 | .mk8 | .int8 => 8 | .ir4 => 4

/-- The storage width in bytes of a format that is not Iris4 (R70). -/
def Fmt.bytes (f : Fmt) : Nat := f.width / 8

/-- Integer formats (R56). -/
def Fmt.isInt : Fmt → Bool
  | .int32 | .int16 | .int8 => true | _ => false

/-- The formats the engines compute in (R74). -/
def Fmt.computed : Fmt → Bool
  | .mk8 | .ir4 => false | _ => true

/-- The floating-point computed formats. -/
def Fmt.isFp : Fmt → Bool
  | .fp32 | .bf16 | .fp16 => true | _ => false

/-- 32-bit lanes hold 32-bit formats (R70). -/
def Fmt.wide : Fmt → Bool
  | .fp32 | .int32 => true | _ => false

/-- Fraction bits p (R54, R57, R101). -/
def Fmt.p : Fmt → Nat
  | .fp32 => 23 | .bf16 => 7 | .fp16 => 10 | .mk8 => 3 | _ => 0

/-- Exponent bias (R54, R57). -/
def Fmt.bias : Fmt → Nat
  | .fp32 | .bf16 => 127 | .fp16 => 15 | _ => 7

/-- Smallest normal exponent (R101). -/
def Fmt.emin (f : Fmt) : Int := 1 - (f.bias : Int)

/-- Exponent of the leading bit of the largest finite magnitude (R88). -/
def Fmt.emax : Fmt → Int
  | .fp32 | .bf16 => 127 | .fp16 => 15 | _ => 8

/-- The code of the largest finite positive value (R54, R58). -/
def Fmt.maxCode : Fmt → Nat
  | .fp32 => 0x7F7FFFFF | .bf16 => 0x7F7F | .fp16 => 0x7BFF | _ => 0x7F

/-- The code of positive infinity (R54); Musk8 has none. -/
def Fmt.infCode : Fmt → Nat
  | .fp32 => 0x7F800000 | .bf16 => 0x7F80 | .fp16 => 0x7C00 | _ => 0x80

/-- The canonical NaN of a format (R54, R57, R94). -/
def Fmt.nanCode : Fmt → Nat
  | .fp32 => 0x7FC00000 | .bf16 => 0x7FC0 | .fp16 => 0x7E00 | .mk8 => 0x80 | _ => 0x8

/-- The sign bit of a floating-point code. -/
def Fmt.signBit : Fmt → Nat
  | .fp32 => 0x80000000 | .bf16 | .fp16 => 0x8000 | _ => 0x80

/-- A decoded floating-point value: the magnitude of a finite value is m × 2^e with e the unit of the form of R522;
the fraction of a NaN is aligned to the 23 bits of FP32 (R95). `made` is a NaN created from operands that are none; no code
decodes to it. -/
inductive FV where
  | nan (neg : Bool) (frac : Nat)
  | made
  | inf (neg : Bool)
  | fin (neg : Bool) (m : Nat) (e : Int)
  deriving DecidableEq, Repr

/-- A NaN. -/
def FV.isNan : FV → Bool | .nan _ _ | .made => true | _ => false

/-- The value of a floating-point code (R54, R57). -/
def decodeF (f : Fmt) (c : Nat) : FV :=
  match f with
  | .mk8 =>
    let c := c % 256
    if c = 0x80 then .nan false 0
    else
      let ex := bits c 6 3
      if ex = 0 then .fin (bit c 7) (bits c 2 0) (-9) else .fin (bit c 7) (8 + bits c 2 0) ((ex : Int) - 10)
  | _ =>
    let p := f.p
    let w := f.width - 1 - p
    let neg := bit c (f.width - 1)
    let ex := bits c (f.width - 2) p
    let fr := c % 2 ^ p
    if ex = 2 ^ w - 1 then (if fr = 0 then .inf neg else .nan neg (fr <<< (23 - p)))
    else if ex = 0 then .fin neg fr (f.emin - p)
    else .fin neg (2 ^ p + fr) ((ex : Int) - f.bias - p)

/-- The settings of the numeric context that act inside the engines (R80), with the class of the image. -/
inductive Round where
  | rne | rtz | rsto
  deriving DecidableEq, Repr

/-- The context one operation runs under (R81): class, FLUSH, SAT, NANMM = PROPAGATE, ROUND. -/
structure ACtx where
  strict  : Bool
  flush   : Bool
  sat     : Bool
  nanProp : Bool
  round   : Round
  deriving DecidableEq, Repr

/-- R82: in a STRICT image FLUSH has no effect and RSTO acts as RNE. -/
def ACtx.eff (x : ACtx) : ACtx :=
  if x.strict then { x with flush := false, round := if x.round = .rsto then .rne else x.round } else x

/-- What one element counts in its tally set (R123). -/
structure Cnt where
  sat   : Bool := false
  flush : Bool := false
  nan   : Bool := false
  deriving DecidableEq, Repr

/-- Counts of one element join: each rises at most once (R123). -/
def Cnt.or (a b : Cnt) : Cnt := ⟨a.sat || b.sat, a.flush || b.flush, a.nan || b.nan⟩

/-- The result code of an operation on one element with what it counts. -/
structure Res where
  code : Nat
  cnt  : Cnt := {}
  deriving DecidableEq, Repr

/-- A result that also joins earlier counts. -/
def Res.also (r : Res) (c : Cnt) : Res := { r with cnt := r.cnt.or c }

/-- R85: m × 2^e rounded to a multiple of 2^q under a mode; `r` is the draw of RSTO. -/
def roundMag (mode : Round) (m : Nat) (e q : Int) (r : Nat) : Nat :=
  if q ≤ e then m <<< (e - q).toNat
  else
    let d := (q - e).toNat
    let keep := m >>> d
    let rem := m % 2 ^ d
    match mode with
    | .rtz => keep
    | .rne =>
      let half := 2 ^ (d - 1)
      if rem > half ∨ (rem = half ∧ keep % 2 = 1) then keep + 1 else keep
    | .rsto =>
      let k := min d 16
      if (rem >>> (d - k)) + r % 2 ^ k ≥ 2 ^ k then keep + 1 else keep

/-- The exponent of the leading bit of m × 2^e, for m nonzero. -/
def topExp (m : Nat) (e : Int) : Int := (Nat.log2 m : Int) + e

/-- A zero of a sign; Musk8 has no negative zero (R60). -/
def zeroCode (f : Fmt) (neg : Bool) : Nat := if neg && f.isFp then f.signBit else 0

/-- The code of a representable magnitude k × 2^q. -/
def encodeMag (f : Fmt) (neg : Bool) (k : Nat) (q : Int) : Nat :=
  if k = 0 then zeroCode f neg
  else
    let s := if neg then f.signBit else 0
    let l := Nat.log2 k
    let ex := (l : Int) + q
    if ex < f.emin then s + (k <<< (q - (f.emin - f.p)).toNat)
    else
      let fr := if l ≤ f.p then (k <<< (f.p - l)) - 2 ^ f.p else (k >>> (l - f.p)) - 2 ^ f.p
      s + ((ex + f.bias).toNat <<< f.p) + fr

/-- R89: the code and count of an overflowing result. -/
def overflowRes (x : ACtx) (f : Fmt) (neg : Bool) : Res :=
  let s := if neg then f.signBit else 0
  if x.sat then ⟨s + f.maxCode, { sat := true }⟩
  else if f = .mk8 then ⟨0x80, { nan := true }⟩
  else ⟨s + f.infCode, {}⟩

/-- A rounded magnitude k × 2^q becomes a code: overflow (R88, R89), flushing (R93), encoding. -/
def finishKeep (x : ACtx) (f : Fmt) (neg : Bool) (k : Nat) (q : Int) (trunc : Bool) : Res :=
  if k = 0 then ⟨zeroCode f neg, {}⟩
  else if topExp k q > f.emax then
    (if trunc then ⟨(if neg then f.signBit else 0) + f.maxCode, {}⟩ else overflowRes x f neg)
  else if x.flush && decide (topExp k q < f.emin) then ⟨zeroCode f neg, { flush := true }⟩
  else ⟨encodeMag f neg k q, {}⟩

/-- R83: one rounding of an exact magnitude m × 2^e to a floating-point format. -/
def finishRound (x : ACtx) (f : Fmt) (neg : Bool) (m : Nat) (e : Int) (r : Nat) : Res :=
  if m = 0 then ⟨zeroCode f neg, {}⟩
  else
    let q := max (topExp m e) f.emin - f.p
    finishKeep x f neg (roundMag x.round m e q r) q (x.round == .rtz)

/-- R94, R95: the NaN a result carries, from the NaN operand it comes from. The sign of a carried STRICT NaN is left
open by R95 and is free (assumption 3, DESIGN CHOICE). Widening BF16 to FP32 in a STRICT image does not come here: `convert`
appends 16 zero bits as R55 says, quiet bit and sign as they are (assumption 11, DEDUCED). -/
def nanRes (x : ACtx) (f : Fmt) (neg : Bool) (frac : Nat) : Nat :=
  if x.strict then
    let s := if Config.strictNanSign neg frac then f.signBit else 0
    match f with
    | .fp32 => s + 0x7F800000 + (frac ||| 0x400000)
    | .bf16 => s + 0x7F80 + ((frac >>> 16) ||| 0x40)
    | .fp16 => s + 0x7C00 + ((frac >>> 13) ||| 0x200)
    | _ => f.nanCode
  else f.nanCode

/-- R93: an arithmetic operand that is a subnormal of its own format reads as zero under FLUSH. -/
def flushIn (x : ACtx) (f : Fmt) (v : FV) : FV × Cnt :=
  match v with
  | .fin neg m e =>
    if x.flush && m ≠ 0 && decide (topExp m e < f.emin) then (.fin neg 0 e, { flush := true }) else (v, {})
  | _ => (v, {})

/-- R72: the exact conversions, which never round, flush, draw or count. -/
def exactConv (s d : Fmt) : Bool :=
  match s, d with
  | .mk8, .bf16 | .mk8, .fp16 | .mk8, .fp32 | .bf16, .fp32 | .fp16, .fp32 => true
  | .ir4, .bf16 | .ir4, .fp32 => true
  | .int8, .int16 | .int8, .int32 | .int16, .int32 => true
  | .int8, .fp32 | .int16, .fp32 | .int8, .bf16 | .int8, .fp16 => true
  | _, _ => false

/-- R87: a conversion consumes a draw under RSTO unless it is an identity, listed in R72, or between integers. -/
def convDraws (s d : Fmt) : Bool := !(s == d) && !exactConv s d && !(s.isInt && d.isInt)

/-- The range of an integer format (R56). -/
def Fmt.imin (f : Fmt) : Int := -(2 : Int) ^ (f.width - 1)
def Fmt.imax (f : Fmt) : Int := (2 : Int) ^ (f.width - 1) - 1

/-- An integer value clamped to a format and counted as saturated when clamped. -/
def clampInt (f : Fmt) (v : Int) : Res :=
  if v > f.imax then ⟨toCode f.width f.imax, { sat := true }⟩
  else if v < f.imin then ⟨toCode f.width f.imin, { sat := true }⟩
  else ⟨toCode f.width v, {}⟩

/-- R115: an exact integer written to an integer format. -/
def narrowInt (x : ACtx) (f : Fmt) (v : Int) : Res :=
  if x.sat then clampInt f v else ⟨toCode f.width v, {}⟩

/-- R111, R90, R95: a decoded floating-point value written to a floating-point format. -/
def convFV (x : ACtx) (d : Fmt) (v : FV) (r : Nat) : Res :=
  match v with
  | .nan neg fr => ⟨nanRes x d neg fr, {}⟩
  | .made => ⟨d.nanCode, {}⟩
  | .inf neg =>
    if d = .mk8 then
      (if x.sat then ⟨(if neg then 0x80 else 0) + 0x7F, { sat := true }⟩ else ⟨0x80, { nan := true }⟩)
    else ⟨(if neg then d.signBit else 0) + d.infCode, {}⟩
  | .fin neg m e => finishRound x d neg m e r

/-- R114: a decoded floating-point value written to an integer format. -/
def convFI (x : ACtx) (d : Fmt) (v : FV) (r : Nat) : Res :=
  match v with
  | .nan _ _ | .made => ⟨0, { nan := true }⟩
  | .inf neg => ⟨toCode d.width (if neg then d.imin else d.imax), { sat := true }⟩
  | .fin neg m e =>
    let k : Nat := roundMag x.round m e 0 r
    clampInt d (if neg then -(k : Int) else (k : Int))

/-- Conversion of one code between two formats other than Iris4 (R72, R84, R111 to R115, R521). In a STRICT image BF16 widens
to FP32 by 16 zero bits, a signalling NaN included (R55; that this comes before the quiet bit of R95: assumption 11,
DEDUCED). -/
def convert (x0 : ACtx) (s d : Fmt) (c : Nat) (r : Nat) : Res :=
  let x := x0.eff
  if s = d then ⟨c, {}⟩
  else if s.isInt then
    let v := signed s.width c
    if d.isInt then (if exactConv s d then ⟨toCode d.width v, {}⟩ else narrowInt x d v)
    else finishRound x d (decide (v < 0)) v.natAbs 0 r
  else if x.strict && s == .bf16 && d == .fp32 then ⟨c * 2 ^ 16, {}⟩
  else if exactConv s d then convFV { x with flush := false, round := .rne } d (decodeF s c) 0
  else
    let (v, k) := flushIn x s (decodeF s c)
    (if d.isInt then convFI x d v r else convFV x d v r).also k

/-- The magnitude of an Iris4 code in halves (R61). -/
def ir4Half (c : Nat) : Nat :=
  match c % 8 with
  | 0 => 0 | 1 => 1 | 2 => 2 | 3 => 3 | 4 => 4 | 5 => 6 | 6 => 8 | _ => 12

/-- The decoded value of an Iris4 element with its scale byte (R61, R63, R66). Its unit, from which a conversion to FP16 under
RSTO counts d (R522), is that of (4 + f) × the magnitude in halves: the spec gives an element no unit in the last place
(assumption 11, DEDUCED). -/
def decodeIr4 (scale c : Nat) : FV :=
  if scale = 0 then .fin false 0 0
  else if scale = 255 then .nan false 0
  else if c % 16 = 8 then .nan false 0
  else .fin (bit c 3) ((4 + scale % 4) * ir4Half c) ((scale / 4 : Nat) - 43)

/-- R66, R72: an Iris4 element converted to a computed format. -/
def convertIr4 (x0 : ACtx) (d : Fmt) (scale c : Nat) (r : Nat) : Res :=
  let x := x0.eff
  let v := decodeIr4 scale c
  if exactConv .ir4 d then convFV { x with flush := false, round := .rne } d v 0
  else if d.isInt then convFI x d v r else convFV x d v r

/-- The value of a scale code times 2^42: (4 + f) × 2^e (R63). -/
def scaleNum (s : Nat) : Nat := (4 + s % 4) <<< (s / 4)

/-- Exact comparison 6 × value(s) ≥ m × 2^e (R109). -/
def scaleCovers (s m : Nat) (e : Int) : Bool :=
  let a := 6 * scaleNum s
  let e' := e + 42
  if e' ≥ 0 then decide (a ≥ m <<< e'.toNat) else decide (a <<< (-e').toNat ≥ m)

/-- The smallest scale code from 0x01 to 0xFE that covers a magnitude (R109). -/
def pickScale (m : Nat) (e : Int) : Nat :=
  ((List.range 254).find? fun i => scaleCovers (i + 1) m e).map (· + 1) |>.getD 254

/-- R85, R522: the Iris4 code of x ÷ value(s): the quotient rounded under ROUND. With a fraction field of 1 or 3 d is greater
than 16 and disc holds the 16 bits of the quotient after the last kept one, also where m is divisible by 5 or 7 and the
quotient is finite; with a fraction field of 2 (value 3 × 2^n) the quotient is finite where m is divisible by 3, and where
it is not d is greater than 16 as well (assumption 11, DEDUCED). -/
def ir4Code (x : ACtx) (s : Nat) (neg : Bool) (m : Nat) (e : Int) (r : Nat) : Nat :=
  -- quotient in units of 2^-200, with a sticky bit for a non-terminating or longer tail
  let num := m
  let sh : Int := e + 42 + 200
  let n1 := if sh ≥ 0 then num <<< sh.toNat else num
  let dn := if sh ≥ 0 then scaleNum s else scaleNum s <<< (-sh).toNat
  let q0 := n1 / dn
  let rem := n1 % dn
  let finite := s % 4 = 0 ∨ s % 4 = 2 ∧ (m % 3 = 0)
  let low : Int := if s % 4 = 0 ∨ (s % 4 = 2 ∧ m % 3 = 0) then e + 40 - (s / 4 : Nat) else -200
  -- the steps of the Iris4 magnitudes: half a unit below 2, one from 2 to 4, two from 4 (R61)
  let top := topExp q0 (-200)
  let lsb : Int := max top 0 - 1
  let kept : Nat :=
    if q0 = 0 ∧ rem = 0 then 0
    else match x.round with
      | .rsto =>
        if finite then
          let qq := if s % 4 = 0 then m else m / 3
          let qe : Int := if s % 4 = 0 then low else low + 1
          roundMag .rsto qq qe lsb r
        else roundMag .rsto (q0 >>> (200 + lsb - 16).toNat) (lsb - 16) lsb r
      | md => roundMag md (2 * q0 + (if rem = 0 then 0 else 1)) (-201) lsb r
  -- kept × 2^lsb as a magnitude in halves
  let half := kept <<< (lsb + 1).toNat
  let code := match half with
    | 0 => 0 | 1 => 1 | 2 => 2 | 3 => 3 | 4 => 4 | 6 => 5 | 8 => 6 | _ => 7
  if code = 0 then 0 else if neg then code + 8 else code

/-- R109, R110: one Iris4 block from its non-padding elements, each decoded and already flushed; `rs` holds one draw
an element. The result is the scale byte with each element's code and counts. -/
def packBlock (x0 : ACtx) (els : List (FV × Cnt)) (rs : List Nat) : Nat × List Res :=
  let x := x0.eff
  let isNan := els.any fun v => v.1.isNan
  let isInf := els.any fun v => match v.1 with | .inf _ => true | _ => false
  let big (m : Nat) (e : Int) : Bool := m ≠ 0 && !scaleCovers 254 m e
  let anyBig := els.any fun v => match v.1 with | .fin _ m e => big m e | _ => false
  if isNan || ((isInf || anyBig) && !x.sat) then
    (255, els.map fun v => ⟨8, v.2.or { nan := !v.1.isNan }⟩)
  else
    let cl := els.map fun v => match v.1 with
      | .inf n => (n, 9, (23 : Int), v.2.or { sat := true })
      | .fin n m e => if big m e then (n, 9, 23, v.2.or { sat := true }) else (n, m, e, v.2)
      | .nan n _ => (n, 0, 0, v.2)
      | .made => (false, 0, 0, v.2)
    if cl.all fun t => t.2.1 = 0 then (0, cl.map fun t => ⟨0, t.2.2.2⟩)
    else
      let s := (cl.map fun t => if t.2.1 = 0 then 0 else pickScale t.2.1 t.2.2.1).foldl max 1
      (s, (cl.zip (rs ++ List.replicate cl.length 0)).map fun t =>
        ⟨ir4Code x s t.1.1 t.1.2.1 t.1.2.2.1 t.2, t.1.2.2.2⟩)

end Sys2Proof.Machine
end

