-- ==== Sys2Proof/Machine/Arith.lean ====
section
/-! DEFINITION. The arithmetic of 05_arithmetic.md on codes held as numbers: sums and products (R101 to R103), orders
(R97 to R100), integer operations (R116, R117), the canonical trees of reductions (R102 to R108) and the draws of
stochastic rounding (R86). -/

namespace Sys2Proof.Machine

/-! ## Operands, signed magnitudes and orders -/

/-- An arithmetic operand after FLUSH (R93): its code, its value and what it counts. -/
def opnd (x : ACtx) (f : Fmt) (c : Nat) : Nat × FV × Cnt :=
  match flushIn x f (decodeF f c) with
  | (v, k) => (if k.flush then zeroCode f (bit c (f.width - 1)) else c, v, k)

/-- The total order of R100 as a number: NaNs above everything and equal, −0 below +0, else numeric; integers signed. -/
def ordKey (f : Fmt) (c : Nat) : Int :=
  if f.isInt then signed f.width c
  else if (decodeF f c).isNan then (2 : Int) ^ 40
  else
    let mag : Nat := c % 2 ^ (f.width - 1)
    if bit c (f.width - 1) then -(mag : Int) - 1 else (mag : Int)

/-- The numeric order of R97 on codes that are not NaN: −0 equals +0. -/
def numKey (f : Fmt) (c : Nat) : Int :=
  if f.isInt then signed f.width c
  else
    let mag : Nat := c % 2 ^ (f.width - 1)
    if bit c (f.width - 1) then -(mag : Int) else (mag : Int)

/-- R98: MAX or MIN of two codes of one format, already flushed. Integers take the signed order. -/
def maxmin (x : ACtx) (f : Fmt) (isMax : Bool) (a b : Nat) : Nat :=
  let pick := if isMax then (if ordKey f a ≥ ordKey f b then a else b)
              else (if ordKey f a ≤ ordKey f b then a else b)
  if f.isInt then pick
  else match decodeF f a, decodeF f b with
    | .nan n fr, .nan _ _ => nanRes x f n fr
    | .nan n fr, _ => if x.nanProp then nanRes x f n fr else b
    | _, .nan n fr => if x.nanProp then nanRes x f n fr else a
    | _, _ => pick

/-- R97: the four comparisons; k is 0 for EQ, 1 for NE, 2 for LT, 3 for LE. -/
def compareCodes (f : Fmt) (k : Nat) (a b : Nat) : Bool :=
  if !f.isInt && ((decodeF f a).isNan || (decodeF f b).isNan) then k == 1
  else
    let x := numKey f a
    let y := numKey f b
    match k with
    | 0 => decide (x = y) | 1 => decide (x ≠ y) | 2 => decide (x < y) | _ => decide (x ≤ y)

/-- R97: the integer format a comparison writes. -/
def cmpFmt (f : Fmt) : Fmt :=
  match f with
  | .int8 => .int8 | .fp32 | .int32 => .int32 | _ => .int16

/-! ## Products and sums -/

/-- One exact finite term: (−1)^neg × m × 2^e. -/
structure Term where
  neg : Bool
  m   : Nat
  e   : Int
  deriving DecidableEq, Repr

/-- The exact integer of a term truncated in magnitude to a multiple of 2^w (R101 step 3). -/
def Term.units (t : Term) (w : Int) : Int :=
  let k : Nat := if w ≤ t.e then t.m <<< (t.e - w).toNat else t.m >>> (w - t.e).toNat
  if t.neg then -(k : Int) else (k : Int)

/-- The largest exponent of a leading bit among the nonzero terms (R101 step 2). -/
def maxTop (ts : List Term) : Option Int :=
  ts.foldl (fun a t => if t.m = 0 then a else match a with
    | none => some (topExp t.m t.e)
    | some b => some (max b (topExp t.m t.e))) none

/-- The smallest unit among the nonzero terms. -/
def minUnit (ts : List Term) : Int :=
  (ts.foldl (fun a t => if t.m = 0 then a else match a with
    | none => some t.e
    | some b => some (min b t.e)) none).getD 0

/-- The exact sum of the terms in units of 2^w, truncating each to that grid. -/
def sumUnits (ts : List Term) (w : Int) : Int := (ts.map fun t => t.units w).foldl (· + ·) 0

/-- A sum as sign, magnitude and grid: R101 steps 2 to 4 with its zero signs. `plus` is the rule of R102 that every
zero sum is +0. -/
def fastSum (p : Nat) (emin : Int) (plus : Bool) (ts : List Term) : Bool × Nat × Int :=
  match maxTop ts with
  | none => (!plus && ts.all (·.neg), 0, 0)
  | some top =>
    let w := max top emin - p - 3
    let s := sumUnits ts w
    if s ≠ 0 then (decide (s < 0), s.natAbs, w)
    else if plus || ts.any (fun t => t.units w ≠ 0) then (false, 0, w)
    else (decide (sumUnits ts (minUnit ts) < 0), 0, w)

/-- R103: the exact sum with the zero signs of IEEE 754. -/
def exactSum (ts : List Term) : Bool × Nat × Int :=
  if ts.all fun t => t.m = 0 then (ts.all (·.neg), 0, 0)
  else
    let w := minUnit ts
    let s := sumUnits ts w
    (decide (s < 0), s.natAbs, w)

/-- The exact product of two values; the flag says that a NaN was made from operands that are none (∞ × 0). -/
def mulFV (a b : FV) : FV × Bool :=
  match a, b with
  | .nan n f, _ => (.nan n f, false)
  | .made, _ => (.made, false)
  | _, .nan n f => (.nan n f, false)
  | _, .made => (.made, false)
  | .inf n, .inf n' => (.inf (n != n'), false)
  | .inf n, .fin n' m _ => if m = 0 then (.made, true) else (.inf (n != n'), false)
  | .fin n m _, .inf n' => if m = 0 then (.made, true) else (.inf (n != n'), false)
  | .fin n m e, .fin n' m' e' => (.fin (n != n') (m * m') (e + e'), false)

/-- The value with its sign changed. -/
def FV.negate : FV → FV
  | .nan n f => .nan n f
  | .made => .made
  | .inf n => .inf (!n)
  | .fin n m e => .fin (!n) m e

/-- What the special values among the terms of a sum make of it: the first NaN in operand order (R95), one created before it or
that of ∞ − ∞, an infinity; or the finite terms. -/
inductive SumClass where
  | nan (neg : Bool) (frac : Nat)
  | made
  | inf (neg : Bool)
  | finite (ts : List Term)
  deriving DecidableEq, Repr

/-- The class of a list of terms, taken in operand order. -/
def sumClass : List FV → SumClass
  | [] => .finite []
  | .nan n f :: _ => .nan n f
  | .made :: _ => .made
  | .inf n :: r =>
    match sumClass r with
    | .nan n' f => .nan n' f
    | .made => .made
    | .inf n' => if n = n' then .inf n else .made
    | .finite _ => .inf n
  | .fin n m e :: r =>
    match sumClass r with
    | .finite ts => .finite (⟨n, m, e⟩ :: ts)
    | c => c

/-- R101, R103: a sum of terms rounded once to a floating-point format. -/
def addTerms (x : ACtx) (f : Fmt) (vs : List FV) (r : Nat) : Res :=
  match sumClass vs with
  | .nan n fr => ⟨nanRes x f n fr, {}⟩
  | .made => ⟨f.nanCode, { nan := true }⟩
  | .inf n => ⟨(if n then f.signBit else 0) + f.infCode, {}⟩
  | .finite ts =>
    match (if x.strict then exactSum ts else fastSum f.p f.emin false ts) with
    | (n, m, e) => if m = 0 then ⟨zeroCode f n, {}⟩ else finishRound x f n m e r

/-- R101, R103: floating-point ADD, SUB, MUL and FMA. -/
def fpAdd (x : ACtx) (f : Fmt) (a b r : Nat) : Res :=
  match opnd x f a, opnd x f b with
  | (_, u, k), (_, v, k') => (addTerms x f [u, v] r).also (k.or k')

def fpSub (x : ACtx) (f : Fmt) (a b r : Nat) : Res :=
  match opnd x f a, opnd x f b with
  | (_, u, k), (_, v, k') => (addTerms x f [u, v.negate] r).also (k.or k')

def fpMul (x : ACtx) (f : Fmt) (a b r : Nat) : Res :=
  match opnd x f a, opnd x f b with
  | (_, u, k), (_, v, k') =>
    match mulFV u v with
    | (_, true) => ⟨f.nanCode, (k.or k').or { nan := true }⟩
    | (t, false) => (addTerms x f [t] r).also (k.or k')

def fpFma (x : ACtx) (f : Fmt) (a b c r : Nat) : Res :=
  match opnd x f a, opnd x f b, opnd x f c with
  | (_, u, k), (_, v, k'), (_, w, k'') =>
    let ks := (k.or k').or k''
    match mulFV u v, w with
    | (_, true), .nan n fr => ⟨nanRes x f n fr, ks⟩
    | (_, true), _ => ⟨f.nanCode, ks.or { nan := true }⟩
    | (t, false), _ => (addTerms x f [t, w] r).also ks

/-- R113: ROUNDI. -/
def fpRoundi (x : ACtx) (f : Fmt) (a r : Nat) : Res :=
  match opnd x f a with
  | (_, .nan n fr, k) => ⟨nanRes x f n fr, k⟩
  | (_, .made, k) => ⟨f.nanCode, k⟩
  | (c, .inf _, k) => ⟨c, k⟩
  | (_, .fin n m e, k) => (finishKeep x f n (roundMag x.round m e 0 r) 0 true).also k

/-- R96: NEG and ABS of floating-point codes. -/
def fpSign (x : ACtx) (f : Fmt) (isNeg : Bool) (a : Nat) : Res :=
  if x.strict then
    ⟨if isNeg then a ^^^ f.signBit else a % f.signBit, {}⟩
  else match opnd x f a with
    | (_, .nan _ _, k) => ⟨f.nanCode, k⟩
    | (c, _, k) => ⟨if isNeg then c ^^^ f.signBit else c % f.signBit, k⟩

/-- R98 on operands that FLUSH has acted on. -/
def fpMaxMin (x : ACtx) (f : Fmt) (isMax : Bool) (a b : Nat) : Res :=
  match opnd x f a, opnd x f b with
  | (c, _, k), (d, _, k') => ⟨maxmin x f isMax c d, k.or k'⟩

/-! ## Integer operations (R116, R117) -/

/-- An exact result wrapped or clamped to the lane's format under SAT. -/
def fitInt (x : ACtx) (f : Fmt) (v : Int) : Res :=
  if x.sat then clampInt f v else ⟨toCode f.width v, {}⟩

/-- R116: the integer micro-operations by their codes (R198). -/
def intOp (x : ACtx) (u : Nat) (f : Fmt) (a b c : Nat) : Res :=
  let w := f.width
  let sa := signed w a
  let sb := signed w b
  let ua := a % 2 ^ w
  let ub := b % 2 ^ w
  match u with
  | 0x01 => fitInt x f (sa + sb)
  | 0x02 => fitInt x f (sa - sb)
  | 0x03 => fitInt x f (sa * sb)
  | 0x05 => ⟨maxmin x f true ua ub, {}⟩
  | 0x06 => ⟨maxmin x f false ua ub, {}⟩
  | 0x07 => fitInt x f (if sa < 0 then -sa else sa)
  | 0x08 => fitInt x f (-sa)
  | 0x09 => ⟨maxmin x f false (maxmin x f true ua ub) (c % 2 ^ w), {}⟩
  | 0x18 => ⟨ua &&& ub, {}⟩
  | 0x19 => ⟨ua ||| ub, {}⟩
  | 0x1A => ⟨ua ^^^ ub, {}⟩
  | 0x1B => ⟨2 ^ w - 1 - ua, {}⟩
  | 0x1C => ⟨if ub ≥ w then 0 else (ua <<< ub) % 2 ^ w, {}⟩
  | 0x1D =>
    if sa = 0 then ⟨0, {}⟩
    else if ub ≥ w then ⟨toCode w (if sa > 0 then f.imax else f.imin), { sat := true }⟩
    else clampInt f (sa * 2 ^ ub)
  | 0x1E => ⟨if ub ≥ w then 0 else ua >>> ub, {}⟩
  | 0x1F => ⟨toCode w (if ub ≥ w then (if sa < 0 then -1 else 0) else sa >>> ub), {}⟩
  | 0x34 =>
    if sb = 0 then ⟨toCode w (if sa ≥ 0 then f.imax else f.imin), { sat := true }⟩
    else fitInt x f (Int.tdiv sa sb)
  | 0x35 => if sb = 0 then ⟨ua, { sat := true }⟩ else ⟨toCode w (Int.tmod sa sb), {}⟩
  | 0x36 => ⟨toCode w ((sa * sb) >>> w), {}⟩
  | _ => ⟨0, {}⟩

/-! ## The canonical trees (R102 to R108) -/

/-- The context of a tree node: nothing of the numeric context acts on it but, in a STRICT image, the rounding mode. -/
def nodeCtx (x : ACtx) : ACtx :=
  { strict := x.strict, flush := false, sat := false, nanProp := true,
    round := if x.strict then x.eff.round else .rne }

/-- R102, R107: an addition of terms rounded to an FP32 node. A NaN that a node makes is the canonical one there and then: it
stays so in the nodes above, and wins over the payload of a NaN element to its right (R95; assumption 11, DEDUCED). -/
def addNode (x : ACtx) (vs : List FV) : FV :=
  let y := nodeCtx x
  match sumClass vs with
  | .nan n fr => decodeF .fp32 (nanRes y .fp32 n fr)
  | .made => .made
  | .inf n => .inf n
  | .finite ts =>
    match (if x.strict then exactSum ts else fastSum 23 (-126) true ts) with
    | (n, m, e) => if m = 0 then .fin n 0 0 else decodeF .fp32 (finishRound y .fp32 n m e 0).code

/-- A leaf of a tree: a NaN is the NaN of R94 or R95 even where no other leaf joins it. -/
def quietLeaf (x : ACtx) (v : FV) : FV :=
  match v with
  | .nan n fr => decodeF .fp32 (nanRes (nodeCtx x) .fp32 n fr)
  | w => w

/-- R107: a STRICT leaf is its input, or its product, correctly rounded to FP32. -/
def strictLeaf (x : ACtx) (v : FV) : FV :=
  match v with
  | .fin n m e => decodeF .fp32 (finishRound (nodeCtx x) .fp32 n m e 0).code
  | w => quietLeaf x w

/-- Adjacent pairs combined; a last value without a partner is passed on by `odd`. -/
def pairUp {α : Type} (comb : α → α → α) (odd : α → α) : List α → List α
  | a :: b :: r => comb a b :: pairUp comb odd r
  | [a] => [odd a]
  | [] => []

/-- The levels of a pairwise tree, leaves first (fuel bounds their number). -/
def treeLevels {α : Type} (comb : α → α → α) (odd : α → α) : Nat → List α → List (List α)
  | 0, l => [l]
  | f + 1, l => if l.length ≤ 1 then [l] else l :: treeLevels comb odd f (pairUp comb odd l)

/-- The root of a pairwise tree over a nonempty list of leaves. -/
def treeRoot {α : Type} (d : α) (comb : α → α → α) (odd : α → α) (l : List α) : α :=
  (((treeLevels comb odd 40 l).getLastD []).head?).getD d

/-- The combination of two nodes of a sum (R102, R107). -/
def addComb (x : ACtx) (a b : FV) : FV := addNode x [a, b]

/-- A node beside padding: +0 in a FAST image, absent in a STRICT one (R106, R107). -/
def addOdd (x : ACtx) (a : FV) : FV := if x.strict then a else addNode x [a, .fin false 0 0]

/-- A list cut into groups of 16 (fuel bounds the groups). -/
def groups16 {α : Type} : Nat → List α → List (List α)
  | 0, _ => []
  | f + 1, l => if l.isEmpty then [] else l.take 16 :: groups16 f (l.drop 16)

/-- The leaves of the pairwise tree: add16 nodes in a FAST image (R104), FP32 inputs in a STRICT one (R107). -/
def sumLeaves (x : ACtx) (vs : List FV) : List FV :=
  if x.strict then vs.map (strictLeaf x) else (groups16 (vs.length / 16 + 1) vs).map (addNode x)

/-- R104, R107: the FP32 value of a sum along an axis. -/
def canonSum (x : ACtx) (vs : List FV) : FV :=
  treeRoot (.fin false 0 0) (addComb x) (addOdd x) (sumLeaves x vs)

/-- R106, R218: the tree of R106 over values that are leaves themselves. -/
def shardSum (x : ACtx) (vs : List FV) : FV :=
  treeRoot (.fin false 0 0) (addComb x) (addOdd x) (vs.map (quietLeaf x))

/-- The nodes that cover the first `c` leaves of a tree, largest first from the left (R108 step 1). -/
def coverNodes (levels : List (List FV)) (c : Nat) : List FV :=
  let n := levels.length
  ((List.range n).reverse.filterMap fun l =>
    if bit c l then (levels.getD l []).getD ((c >>> (l + 1)) * 2) (.fin false 0 0) |> some else none)

/-- R108: the sum of x[0] to x[i]. -/
def scanAt (x : ACtx) (vs : List FV) (levels : List (List FV)) (i : Nat) : FV :=
  if i + 1 = vs.length then ((levels.getLastD []).head?).getD (.fin false 0 0)
  else
    let g := if x.strict then 1 else 16
    let c := (i + 1) / g
    let part := (i + 1) % g
    let parts := coverNodes levels c ++
      (if part = 0 then [] else [addNode x ((vs.drop (c * g)).take part)])
    match parts with
    | [] => .fin false 0 0
    | a :: r => r.foldl (addComb x) a

/-- R108: every prefix sum of an axis. -/
def scanAll (x : ACtx) (vs : List FV) : List FV :=
  let levels := treeLevels (addComb x) (addOdd x) 40 (sumLeaves x vs)
  (List.range vs.length).map (scanAt x vs levels)

/-- The FP32 code of a node. -/
def nodeCode (v : FV) : Nat :=
  match v with
  | .made => Fmt.fp32.nanCode
  | .nan n fr => (if n then 0x80000000 else 0) + 0x7F800000 + fr
  | .inf n => (if n then 0x80000000 else 0) + 0x7F800000
  | .fin n m e => encodeMag .fp32 n m e

/-- R83, R95: a root, or an element of a scan, in the result format: a NaN created on the way is the canonical one there. -/
def nodeRes (x : ACtx) (df : Fmt) (v : FV) (r : Nat) : Res :=
  if v = .made ∧ !df.isInt then ⟨df.nanCode, {}⟩ else convert x .fp32 df (nodeCode v) r

/-- A code as a result: a NaN is the NaN of R94 or R95. -/
def quietCode (x : ACtx) (f : Fmt) (c : Nat) : Nat :=
  if f.isInt then c else match decodeF f c with | .nan n fr => nanRes x f n fr | _ => c

/-- R99: MAX or MIN over codes of one format, in order; a NaN follows R94 or R95 over an axis of extent 1 too. -/
def maxminAll (x : ACtx) (f : Fmt) (isMax : Bool) : List Nat → Nat
  | [] => 0
  | a :: r => r.foldl (maxmin x f isMax) (quietCode x f a)

/-- R99: the lowest index holding the value of RMAX or RMIN, or a NaN where the value is a NaN. -/
def argIndex (f : Fmt) (v : Nat) (cs : List Nat) : Nat :=
  (cs.findIdx? fun c => if !f.isInt && (decodeF f v).isNan then (decodeF f c).isNan else decide (ordKey f c = ordKey f v)).getD 0

/-- Insertion into a list sorted by key, after equal keys. -/
def insByKey (k : Int) (a : Nat × Nat) : List (Int × Nat × Nat) → List (Int × Nat × Nat)
  | [] => [(k, a)]
  | (k', b) :: r => if k < k' then (k, a) :: (k', b) :: r else (k', b) :: insByKey k a r

/-- R100: (code, index) pairs in ascending or descending order, equal keys lower index first. -/
def sortCodes (f : Fmt) (desc : Bool) (cs : List Nat) : List (Nat × Nat) :=
  let key (c : Nat) : Int := if desc then - ordKey f c else ordKey f c
  ((cs.zipIdx).foldl (fun acc ci => insByKey (key ci.1) (ci.1, ci.2) acc) []).map (·.2)

/-! ## Draws (R86) -/

/-- The mixing function of R86 on 64-bit numbers. -/
def fold64 (x0 : Nat) : Nat :=
  let m := 2 ^ 64
  let x1 := x0 ^^^ (x0 >>> 32)
  let x2 := (x1 * 0xD6E8FEB86659FD93) % m
  let x3 := x2 ^^^ (x2 >>> 29)
  let x4 := (x3 * 0xA3B195A4C2F07B15) % m
  x4 ^^^ (x4 >>> 32)

/-- The generator state of a lane at launch start (R86). -/
def seedState (seed cluster stream lane : Nat) : Nat :=
  fold64 (fold64 (seed % 2 ^ 64) ^^^ ((cluster <<< 12) ||| (stream <<< 9) ||| lane))

/-- The draw a lane gives after `n` earlier draws of the launch (R86): 16 bits. -/
def drawAt (seed cluster stream lane n : Nat) : Nat :=
  fold64 ((seedState seed cluster stream lane + (n + 1) * 0x9E3779B97F4A7C15) % 2 ^ 64) >>> 48

end Sys2Proof.Machine
end

