-- ==== Sys2Proof/Machine/FuncUnit.lean ====
section
/-! DEFINITION. The function unit (R118 to R120) and the micro-operations of a CHAIN as one function (R198, R210). A
FAST result is any code within the bound of R118, chosen by `Config.funcUnit`; the bound is checked against a
fixed-point evaluation of 320 fraction bits. -/

namespace Sys2Proof.Machine

/-- The fraction bits of the fixed-point evaluation. -/
def fx : Nat := 320

/-- ln 2 and 2 ÷ √π in fixed point. -/
def fxLn2 : Nat := 0xb17217f7d1cf79abc9e3b39803f2f6af40f343267298b62d8a0d175b8baafa2be7b876206debac98
def fxErf : Nat := 0x120dd750429b6d11ae3a914fed7fd8688281341d7587cea2e7342b06199cc416180eb39f0b24e1e22

/-- Product of two fixed-point numbers. -/
def fxMul (a b : Nat) : Nat := (a * b) >>> fx

/-- Partial sums of a series whose next term is the last one times `y` over a divisor that depends on its index. -/
def fxSeries (y : Nat) (den : Nat → Nat) : Nat → Nat → Nat → Nat → Nat
  | 0, _, _, acc => acc
  | f + 1, n, t, acc =>
    let t' := fxMul t y / den n
    if t' = 0 then acc else fxSeries y den f (n + 1) t' (acc + t')

/-- e^y for a fixed-point y below 1. -/
def fxExp (y : Nat) : Nat := fxSeries y (fun n => n + 1) 120 0 (2 ^ fx) (2 ^ fx)

/-- e^(−y) for a fixed-point y. -/
def fxExpNeg (y : Nat) : Nat :=
  let n := y / fxLn2
  fxExp (fxLn2 - y % fxLn2) >>> (n + 1)

/-- Sum of t·z^(2k) ÷ (2k + 1): the series of the inverse hyperbolic tangent. -/
def fxAtanhAux (z2 : Nat) : Nat → Nat → Nat → Nat → Nat
  | 0, _, _, acc => acc
  | f + 1, k, t, acc => if t = 0 then acc else fxAtanhAux z2 f (k + 2) (fxMul t z2) (acc + t / k)

/-- Integer square root by bits from the top (fuel = number of result bits). -/
def isqrtAux (n : Nat) : Nat → Nat → Nat
  | 0, r => r
  | f + 1, r => let c := r + 2 ^ f; isqrtAux n f (if c * c ≤ n then c else r)

def isqrt (n : Nat) : Nat := isqrtAux n (Nat.log2 n / 2 + 1) 0

/-- An exact result known to lie in [lo, lo + 1) × 2^le, and to be lo × 2^le when it is not inexact. -/
structure Exact where
  neg     : Bool
  lo      : Nat
  le      : Int
  inexact : Bool
  deriving DecidableEq, Repr

/-- The fixed-point magnitude of m × 2^e. -/
def fxOf (m : Nat) (e : Int) : Nat :=
  let s := e + (fx : Int)
  if s ≥ 0 then m <<< s.toNat else m >>> (-s).toNat

/-- The exact result of a function on a finite nonzero operand in its domain. -/
def funcExact (u : Nat) (neg : Bool) (m : Nat) (e : Int) : Exact :=
  let top := topExp m e
  match u with
  | 0x28 =>
    if top ≥ 12 then (if neg then ⟨false, 0, -1000, true⟩ else ⟨false, 1, 4096, true⟩)
    else
      let v : Nat := fxOf m e
      let i : Nat := v / 2 ^ fx
      let fr := v % 2 ^ fx
      if fr = 0 then ⟨false, 1, if neg then -(i : Int) else (i : Int), false⟩
      else
        let (i', fr') := if neg then (-(i : Int) - 1, 2 ^ fx - fr) else ((i : Int), fr)
        ⟨false, fxExp (fxMul fr' fxLn2), i' - (fx : Int), true⟩
  | 0x29 =>
    let l := Nat.log2 m
    let k : Int := (l : Int) + e
    if m = 2 ^ l then ⟨decide (k < 0), k.natAbs, 0, false⟩
    else
      let z := ((m - 2 ^ l) <<< fx) / (m + 2 ^ l)
      let ln := 2 * fxAtanhAux (fxMul z z) 220 1 z 0
      let f := (ln <<< fx) / fxLn2
      let t : Int := k * (2 : Int) ^ fx + (f : Int)
      if t < 0 then ⟨true, t.natAbs - 1, -(fx : Int), true⟩ else ⟨false, t.toNat, -(fx : Int), true⟩
  | 0x2A =>
    let l := Nat.log2 m
    if m = 2 ^ l then ⟨neg, 1, -((l : Int) + e), false⟩
    else ⟨neg, 2 ^ (l + 200) / m, -((l : Int) + 200) - e, true⟩
  | 0x2B =>
    let (m', e') := if e % 2 = 0 then (m, e) else (2 * m, e - 1)
    let lo := isqrt (2 ^ 400 / m')
    ⟨false, lo, -200 - e' / 2, lo * lo * m' ≠ 2 ^ 400⟩
  | 0x2C =>
    let (m', e') := if e % 2 = 0 then (m, e) else (2 * m, e - 1)
    let lo := isqrt (m' <<< 200)
    ⟨false, lo, e' / 2 - 100, lo * lo ≠ m' <<< 200⟩
  | 0x2D =>
    if top < -60 then ⟨neg, m * 2 ^ 100 - 1, e - 100, true⟩
    else if top ≥ 8 then ⟨neg, 2 ^ fx - 1, -(fx : Int), true⟩
    else
      let t := fxExpNeg (2 * fxOf m e)
      ⟨neg, ((2 ^ fx - t) <<< fx) / (2 ^ fx + t), -(fx : Int), true⟩
  | 0x2E =>
    if top < -60 then ⟨neg, m * (fxErf >>> 200), e - 120, true⟩
    else if top ≥ 3 || fxOf m e ≥ 6 * 2 ^ fx then ⟨neg, 2 ^ fx - 1, -(fx : Int), true⟩
    else
      let v := fxOf m e
      let v2 := fxMul v v
      let s := fxSeries (2 * v2) (fun n => 2 * n + 3) 600 0 v v
      ⟨neg, fxMul (fxMul fxErf (fxExpNeg v2)) s, -(fx : Int), true⟩
  | _ =>
    if top ≥ 8 then (if neg then ⟨false, 0, -(fx : Int), true⟩ else ⟨false, 2 ^ fx - 1, -(fx : Int), true⟩)
    else
      let t := fxExpNeg (fxOf m e)
      ⟨false, ((if neg then t else 2 ^ fx) <<< fx) / (2 ^ fx + t), -(fx : Int), true⟩

/-- The exact quotient of two finite nonzero operands. -/
def divExact (n : Bool) (m : Nat) (e : Int) (m' : Nat) (e' : Int) : Exact :=
  let num := m <<< 200
  ⟨n, num / m', e - e' - 200, num % m' ≠ 0⟩

/-- The unit in the last place of the exact result in a format, as an exponent (R118). -/
def Exact.ulp (x : Exact) (f : Fmt) : Int :=
  (if x.lo = 0 then f.emin else max (topExp x.lo x.le) f.emin) - f.p

/-- a × 2^e in units of 2^g, for g not above e. -/
def inUnits (a : Nat) (e g : Int) : Nat := a <<< (e - g).toNat

/-- R118: a finite magnitude m × 2^e lies within `b` units in the last place of the exact result. -/
def Exact.near (x : Exact) (f : Fmt) (b m : Nat) (e : Int) : Bool :=
  let q := x.ulp f
  let g := min (min e x.le) q
  let c := inUnits m e g
  let lo := inUnits x.lo x.le g
  let d := inUnits b q g
  decide (c ≤ lo + d) && decide (lo + (if x.inexact then inUnits 1 x.le g else 0) ≤ c + d)

/-- R118: a function-unit result of a FAST image: exact where the table says so, else the unit's own choice within the
bound. R118 bounds the distance alone: that the choice must have the exact result's sign, and that the exact value truncated to
the format is the result where the choice has not or lies outside the bound, is the model's (assumption 4, DESIGN CHOICE). Under
every ROUND, which does not apply here, the result overflows from an exact magnitude of 2^(emax + 1) on, or where the unit's
choice within the bound is an infinity (assumption 4, DESIGN CHOICE). -/
def funcFast (x : ACtx) (f : Fmt) (b cand : Nat) (r : Exact) : Res :=
  if r.lo ≠ 0 && decide (topExp r.lo r.le > f.emax) then overflowRes x f r.neg
  else
    let q := r.ulp f
    let k := roundMag .rtz r.lo r.le q 0
    let floor := finishKeep x f r.neg k q false
    if !r.inexact && decide (roundMag .rtz r.lo r.le q 0 * 2 ^ (q - min q r.le).toNat = inUnits r.lo r.le (min q r.le)) then floor
    else match decodeF f (cand % 2 ^ f.width) with
      | .fin n m e => if n = r.neg && r.near f b m e then finishKeep x f n m e false else floor
      | .inf n => if n = r.neg && r.near f b 1 (f.emax + 1) then overflowRes x f n else floor
      | .nan _ _ | .made => floor

/-- R120: a STRICT SQRT or DIV, correctly rounded. -/
def funcStrict (x : ACtx) (f : Fmt) (r : Exact) : Res :=
  finishRound x f r.neg (2 * r.lo + b2n r.inexact) (r.le - 1) 0

/-- The bound of R118 in units in the last place. -/
def funcBound (u : Nat) (f : Fmt) : Nat := if u = 0x30 then 1 else if f = .fp32 then 2 else 1

/-- The code of 1.0 in a format. -/
def oneCode (f : Fmt) : Nat := f.bias <<< f.p

/-- R118 to R120: the function unit. -/
def fpFunc (x : ACtx) (u : Nat) (f : Fmt) (a b : Nat) : Res :=
  let sg (n : Bool) : Nat := if n then f.signBit else 0
  let fin (r : Exact) : Res :=
    if x.strict then funcStrict x f r else funcFast x f (funcBound u f) (Config.funcUnit u f.code a (if u = 0x30 then b else 0)) r
  let made : Res := ⟨f.nanCode, { nan := true }⟩
  match opnd x f a with
  | (_, va, ka) =>
    if u = 0x30 then
      match opnd x f b with
      | (_, vb, kb) =>
        let k := ka.or kb
        (match va, vb with
          | .nan n fr, _ => (⟨nanRes x f n fr, {}⟩ : Res)
          | _, .nan n fr => ⟨nanRes x f n fr, {}⟩
          | .made, _ | _, .made => ⟨f.nanCode, {}⟩
          | .inf _, .inf _ => made
          | .inf n, .fin n' _ _ => ⟨sg (n != n') + f.infCode, {}⟩
          | .fin n _ _, .inf n' => ⟨zeroCode f (n != n'), {}⟩
          | .fin n m e, .fin n' m' e' =>
            if m' = 0 then (if m = 0 then made else ⟨sg (n != n') + f.infCode, {}⟩)
            else if m = 0 then ⟨zeroCode f (n != n'), {}⟩
            else fin (divExact (n != n') m e m' e')).also k
    else
      (match va with
        | .nan n fr => (⟨nanRes x f n fr, {}⟩ : Res)
        | .made => ⟨f.nanCode, {}⟩
        | .inf n =>
          match u with
          | 0x28 => ⟨if n then 0 else f.infCode, {}⟩
          | 0x2A => ⟨zeroCode f n, {}⟩
          | 0x2B => if n then made else ⟨0, {}⟩
          | 0x2D | 0x2E => ⟨sg n + oneCode f, {}⟩
          | 0x2F => ⟨if n then 0 else oneCode f, {}⟩
          | _ => if n then made else ⟨f.infCode, {}⟩
        | .fin n m e =>
          if m = 0 then
            match u with
            | 0x28 => ⟨oneCode f, {}⟩
            | 0x29 => ⟨f.signBit + f.infCode, {}⟩
            | 0x2A | 0x2B => ⟨sg n + f.infCode, {}⟩
            | 0x2F => ⟨(f.bias - 1) <<< f.p, {}⟩
            | _ => ⟨zeroCode f n, {}⟩
          else if n && (u == 0x29 || u == 0x2B || u == 0x2C) then made
          else fin (funcExact u n m e)).also ka

/-! ## Micro-operations (R198, R210) -/

/-- The micro-operation codes of R198, NCO included. -/
def uopKnown (u : Nat) : Bool :=
  (1 ≤ u && u ≤ 0x0A) || (0x10 ≤ u && u ≤ 0x13) || (0x18 ≤ u && u ≤ 0x21) || (0x28 ≤ u && u ≤ 0x30)
    || (0x34 ≤ u && u ≤ 0x36) || u == 0x3F

/-- R87: the micro-operations that consume a draw under RSTO; `s` is the source format of a CVT. -/
def uopDraws (u : Nat) (f s : Fmt) : Bool :=
  match u with
  | 0x01 | 0x02 | 0x03 | 0x04 | 0x21 => f.isFp
  | 0x20 => convDraws s f
  | _ => false

/-- R210: one micro-operation on one lane: codes of `f`, but for CVT's source in `s` and SEL's mask, which is the whole
lane. -/
def microOp (x0 : ACtx) (u : Nat) (f s : Fmt) (a b c r : Nat) : Res :=
  let x := x0.eff
  match u with
  | 0x0A => ⟨if a ≠ 0 then b else c, {}⟩
  | 0x20 => convert x0 s f a r
  | 0x10 | 0x11 | 0x12 | 0x13 =>
    let (a', ka) : Nat × Cnt := if f.isInt then (a, {}) else ((opnd x f a).1, (opnd x f a).2.2)
    let (b', kb) : Nat × Cnt := if f.isInt then (b, {}) else ((opnd x f b).1, (opnd x f b).2.2)
    ⟨if compareCodes f (u - 0x10) a' b' then 2 ^ (cmpFmt f).width - 1 else 0, ka.or kb⟩
  | _ =>
    if f.isInt then intOp x u f a b c
    else match u with
      | 0x01 => fpAdd x f a b r
      | 0x02 => fpSub x f a b r
      | 0x03 => fpMul x f a b r
      | 0x04 => fpFma x f a b c r
      | 0x05 => fpMaxMin x f true a b
      | 0x06 => fpMaxMin x f false a b
      | 0x07 => fpSign x f false a
      | 0x08 => fpSign x f true a
      | 0x09 => match fpMaxMin x f true a b with
        | ⟨m, k⟩ => (fpMaxMin x f false m c).also k
      | 0x21 => fpRoundi x f a r
      | _ => fpFunc x u f a b

/-- The format in which a micro-operation leaves its result (R97, R198). -/
def uopOut (u : Nat) (f : Fmt) : Fmt := if 0x10 ≤ u && u ≤ 0x13 then cmpFmt f else f

end Sys2Proof.Machine
end

