-- ==== Sys2Proof/Machine/Layout.lean ====
section
/-! DEFINITION. Tensor descriptors and layouts (06_layouts.md): the fields of a descriptor, its checks, the addresses of
its elements and the shard maps. -/

namespace Sys2Proof.Machine

/-- SHARD of a descriptor that names no shard map (R126). -/
def noShard : Nat := 0xFFFF

/-- A descriptor, field by field (R126). `zeros` says that every bit the format always defines as zero is zero. -/
structure Desc where
  rclus  : Nat
  space  : Nat
  base   : Nat
  shard  : Nat
  u1     : Nat
  u0     : Nat
  t1     : Nat
  t0     : Nat
  rank   : Nat
  layout : Nat
  fmt    : Nat
  d      : List Nat
  s      : List Nat
  sbase  : Nat
  zeros  : Bool
  deriving DecidableEq, Repr

/-- The descriptor held in 64 bytes (R126). `s` starts with the stride of dimension 0, which is none. -/
def Desc.parse (l : List Byte) : Desc :=
  let n := leNat (l.take 64)
  let w32 (b : Nat) : Nat := bits n (8 * b + 31) (8 * b)
  { rclus := bits n 59 52, space := bits n 51 48, base := bits n 47 0,
    shard := bits n 127 112, u1 := bits n 111 104, u0 := bits n 103 96, t1 := bits n 95 88, t0 := bits n 87 80,
    rank := bits n 74 72, layout := bits n 71 68, fmt := bits n 67 64,
    d := [w32 16, w32 20, w32 24, w32 28, w32 32], s := [0, w32 36, w32 40, w32 44, w32 48],
    sbase := bits n 463 416,
    zeros := bits n 63 60 == 0 && bits n 79 75 == 0 && bits n 479 464 == 0 && bits n 511 480 == 0 }

/-- The format of a descriptor. -/
def Desc.format (x : Desc) : Option Fmt := Fmt.ofCode x.fmt

/-- Iris4 elements. -/
def Desc.isIr4 (x : Desc) : Bool := x.fmt == 4

/-- Storage width in bytes of an element that is not Iris4. -/
def Desc.bw (x : Desc) : Nat := (x.format.map Fmt.bytes).getD 0

/-- Extent of a dimension, 1 beyond the rank. -/
def Desc.ext (x : Desc) (k : Nat) : Nat := if k < x.rank then tget 1 x.d k else 1

/-- Stride of a dimension in 64-byte units, 0 beyond the rank. -/
def Desc.str (x : Desc) (k : Nat) : Nat := if k < x.rank then tget 0 x.s k else 0

/-- The five extents, 1 beyond the rank: the spec says of BCST alone that ranks must be equal, so elsewhere two descriptors
of different RANK have equal shapes where the higher one's extents beyond the lower rank are 1 (R523; assumption 14, DESIGN
CHOICE). -/
def Desc.exts (x : Desc) : List Nat := (List.range 5).map x.ext

/-- The number of elements. -/
def Desc.count (x : Desc) : Nat := x.exts.foldl (· * ·) 1

/-- Rows of a tensor: the product of the extents above d0. -/
def Desc.rows (x : Desc) : Nat := (x.exts.drop 1).foldl (· * ·) 1

/-- Bytes of a row E0 (R129 to R132). -/
def Desc.e0 (x : Desc) : Nat :=
  let d0 := x.ext 0
  match x.layout with
  | 0 => roundUp64 (d0 * x.bw)
  | 1 => ceilDiv d0 (x.u0 * x.t0) * (x.u0 * x.u1 * x.t0 * x.t1 * x.bw)
  | 2 => roundUp64 (ceilDiv d0 32 * 16)
  | _ => ceilDiv d0 480 * 256

/-- Count along a dimension: rows of outer tiles along d1 of a BLOCKED tensor, else the extent (R134). -/
def Desc.nk (x : Desc) (k : Nat) : Nat :=
  if x.layout = 1 ∧ k = 1 then ceilDiv (x.ext 1) (x.u1 * x.t1) else x.ext k

/-- Bytes of a scale row of a SCALED_SEP tensor (R131). -/
def Desc.scaleRow (x : Desc) : Nat := roundUp64 (ceilDiv (x.ext 0) 32)

/-- The footprint as inclusive byte ranges (R134). -/
def Desc.footprint (x : Desc) (ebase : Nat) : List (Nat × Nat) :=
  let off := ((List.range 4).map fun j => x.str (j + 1) * (x.nk (j + 1) - 1)).foldl (· + ·) 0
  (ebase, ebase + 64 * off + x.e0 - 1) ::
    (if x.layout = 2 then [(x.sbase, x.sbase + x.rows * x.scaleRow - 1)] else [])

/-- Whole lines a tensor moves, repeated rows counted again (R205, R218). -/
def Desc.lines (x : Desc) : Nat :=
  (x.nk 1 * x.ext 2 * x.ext 3 * x.ext 4 * x.e0 + (if x.layout = 2 then x.rows * x.scaleRow else 0)) / 64

/-- R136: strides of a destination that do not overlap. -/
def Desc.stridesOk (x : Desc) : Bool :=
  let rec go (k fuel : Nat) (e : Nat) : Bool :=
    match fuel with
    | 0 => true
    | f + 1 =>
      if k ≥ x.rank then true
      else
        let n := x.nk k
        let b := 64 * x.str k
        if n > 1 then decide (b ≥ e) && go (k + 1) f (b * n) else go (k + 1) f e
  go 1 5 x.e0

/-- The limit of a space in bytes; `put` is the form of check 0x2A for the destination of a PUT (R135, R137). -/
def spaceLimit (n : Nat) (put : Bool) (space : Nat) : Nat :=
  if space = 0 then (if put then 24 else 3 * n) * 2 ^ 30 else 2 ^ 22

/-- Check 0x20: the fields defined as zero for this layout, rank and space. -/
def Desc.zeroOk (x : Desc) : Bool :=
  x.zeros && (x.space == 2 || x.rclus == 0) &&
  (x.layout == 1 || (x.u0 == 0 && x.u1 == 0 && x.t0 == 0 && x.t1 == 0)) &&
  (x.layout == 2 || x.sbase == 0) &&
  (x.rank == 0 || x.rank > 5 ||
    (List.range 5).all fun k => decide (k < x.rank) || (tget 0 x.d k == 0 && tget 0 x.s k == 0))

/-- A tile extent of R126. -/
def tileExt (t : Nat) : Bool := t == 8 || t == 16 || t == 32 || t == 64

/-- R137: the codes of the descriptor's own failing checks, 0x20 to 0x2A and 0x2C, with the effective base of the use. -/
def Desc.ownChecks (x : Desc) (n : Nat) (put : Bool) (ebase : Nat) : List Nat :=
  let fmtOk := x.format.isSome
  let c25 := fmtOk && x.layout ≤ 3 && (if x.isIr4 then x.layout ≥ 2 else x.layout ≤ 1) && (x.layout != 1 || x.rank ≥ 2)
  let rankOk := decide (1 ≤ x.rank) && decide (x.rank ≤ 5)
  let t (c : Nat) (ok : Bool) : List Nat := if ok then [] else [c]
  t 0x20 x.zeroOk ++ t 0x21 (decide (x.space ≤ 2)) ++ t 0x22 fmtOk ++ t 0x23 (decide (x.layout ≤ 3)) ++ t 0x24 rankOk ++
  t 0x25 c25 ++
  t 0x26 (x.layout != 1 || (tileExt x.t0 && tileExt x.t1 && decide (1 ≤ x.u0 ∧ x.u0 ≤ 16 ∧ 1 ≤ x.u1 ∧ x.u1 ≤ 16))) ++
  t 0x27 (!rankOk || (List.range 5).all fun k => decide (k ≥ x.rank) || decide (tget 0 x.d k ≥ 1)) ++
  t 0x28 (x.base % 64 == 0 && x.sbase % 64 == 0) ++
  t 0x2A ((x.footprint ebase).all fun r => decide (r.2 < spaceLimit n put x.space)) ++
  t 0x2C (decide (x.shard ≤ 255) || x.shard == noShard)

/-- Check 0x29 for a SPACE 2 descriptor used by partition-relative cluster `c` (R45). -/
def Desc.remoteOk (x : Desc) (n c : Nat) : Bool :=
  x.space != 2 || (decide (x.rclus < 12 * n) && x.rclus / 12 == c / 12)

/-- Every touched line lies in the regions `first` to `last` (R135, R160). -/
def Desc.within (x : Desc) (ebase first last : Nat) : Bool :=
  (x.footprint ebase).all fun r => decide (first * 4096 ≤ r.1) && decide (r.2 < (last + 1) * 4096)

/-- The index (i0, …, i4) of linear position e in a shape, d0 fastest. -/
def unlinear : List Nat → Nat → List Nat
  | [], _ => []
  | d :: r, e => e % d :: unlinear r (e / d)

/-- The linear position of an index in a shape. -/
def linear : List Nat → List Nat → Nat
  | d :: r, i :: j => i + d * linear r j
  | _, _ => 0

/-- Byte address of an element's value and, for Iris4, of its scale (R129 to R132). -/
def Desc.addr (x : Desc) (ebase : Nat) (ix : List Nat) : Nat × Nat :=
  let i (k : Nat) : Nat := tget 0 ix k
  let high := x.str 2 * i 2 + x.str 3 * i 3 + x.str 4 * i 4
  match x.layout with
  | 0 => (ebase + i 0 * x.bw + 64 * (x.str 1 * i 1 + high), 0)
  | 1 =>
    let tb := x.t0 * x.t1 * x.bw
    let ob := x.u0 * x.u1 * tb
    let o0 := i 0 / (x.u0 * x.t0)
    let r0 := i 0 % (x.u0 * x.t0)
    let o1 := i 1 / (x.u1 * x.t1)
    let r1 := i 1 % (x.u1 * x.t1)
    (ebase + 64 * (x.str 1 * o1 + high) + o0 * ob + (r1 / x.t1 * x.u0 + r0 / x.t0) * tb
      + (r1 % x.t1 * x.t0 + r0 % x.t0) * x.bw, 0)
  | 2 =>
    let r := i 1 + x.ext 1 * (i 2 + x.ext 2 * (i 3 + x.ext 3 * i 4))
    (ebase + 64 * (x.str 1 * i 1 + high) + i 0 / 32 * 16 + i 0 % 32 / 2, x.sbase + r * x.scaleRow + i 0 / 32)
  | _ =>
    let row := ebase + 64 * (x.str 1 * i 1 + high)
    let ch := i 0 / 480
    let j := i 0 % 480
    (row + ch * 256 + 16 + j / 32 * 16 + j % 32 / 2, row + ch * 256 + j / 32)

/-- One stored element: its code and, for Iris4, its scale byte. -/
structure El where
  code  : Nat
  scale : Nat := 0
  deriving DecidableEq, Repr

/-- The element at an index, read through a byte reader. -/
def Desc.readEl (x : Desc) (rd : Nat → Byte) (ebase : Nat) (ix : List Nat) : El :=
  let (a, sa) := x.addr ebase ix
  if x.isIr4 then
    let b := (rd a).toNat
    ⟨if tget 0 ix 0 % 2 = 1 then b / 16 else b % 16, (rd sa).toNat⟩
  else ⟨leNat ((List.range x.bw).map fun k => rd (a + k)), 0⟩

/-- Every element in linear order. -/
def Desc.readAll (x : Desc) (rd : Nat → Byte) (ebase : Nat) : List El :=
  (List.range x.count).map fun e => x.readEl rd ebase (unlinear x.exts e)

/-- The byte writes of one element that is not Iris4. -/
def Desc.elWrites (x : Desc) (ebase : Nat) (ix : List Nat) (code : Nat) : List Host.Cell :=
  let a := (x.addr ebase ix).1
  (leBytes x.bw code).zipIdx.map fun p => (a + p.2, p.1)

/-- The byte writes of one Iris4 row from its blocks (scale and codes of the elements present): padding codes 0x0
(R64, R67), and in SCALED_IL whole chunks with zero padding blocks and byte 15 (R139). -/
def Desc.ir4RowWrites (x : Desc) (ebase : Nat) (ix : List Nat) (blocks : List (Nat × List Nat)) : List Host.Cell :=
  let nb := if x.layout = 3 then ceilDiv (x.ext 0) 480 * 15 else ceilDiv (x.ext 0) 32
  let blk := (List.range nb).flatMap fun b =>
    let p := blocks.getD b (0, [])
    let (va, sa) := x.addr ebase ((b * 32) :: ix.drop 1)
    (sa, byteOf p.1) :: (List.range 16).map fun k =>
      (va + k, byteOf (tget 0 p.2 (2 * k) % 16 + 16 * (tget 0 p.2 (2 * k + 1) % 16)))
  let heads := if x.layout = 3 then
      (List.range (ceilDiv (x.ext 0) 480)).map fun c => ((x.addr ebase ((c * 480) :: ix.drop 1)).2 + 15, byteOf 0)
    else []
  blk ++ heads

/-! ## Shard maps (R141 to R145) -/

/-- A shard map entry (R141). -/
structure ShardEntry where
  rank  : Nat
  g     : List Nat
  p     : List Nat
  c     : List Nat
  dev   : List Nat
  deriving DecidableEq, Repr

/-- The number of shards S. -/
def ShardEntry.total (e : ShardEntry) : Nat := e.p.foldl (· * ·) 1

/-- The shard index of this device's coordinates (R142). -/
def ShardEntry.index (e : ShardEntry) : Nat := linear e.p e.c

/-- The part length L along a dimension (R142). -/
def ShardEntry.len (e : ShardEntry) (k : Nat) : Nat := ceilDiv (tget 1 e.g k) (tget 1 e.p k)

/-- This device's extent along a dimension (R142). -/
def ShardEntry.extent (e : ShardEntry) (k : Nat) : Nat :=
  min (e.len k) (tget 1 e.g k - tget 0 e.c k * e.len k)

/-- R143: an entry that a commit accepts, for the rack number the device holds. -/
def ShardEntry.ok (e : ShardEntry) (rack : Option Nat) : Bool :=
  (e.c.zip e.p).all (fun q => decide (q.1 < q.2)) &&
  (List.range e.rank).all (fun k => decide ((tget 1 e.p k - 1) * e.len k < tget 1 e.g k)) &&
  decide (1 ≤ e.total) && decide (e.total ≤ 64) && decide (e.dev.length = e.total) &&
  decide e.dev.Nodup && e.dev.all (fun v => decide (v ≤ 63)) &&
  (match rack with | some r => e.dev[e.index]? == some r | none => false)

/-- R144: the entry agrees with a descriptor; `axis` is the dimension holding group-form values, where there is one. -/
def ShardEntry.fits (e : ShardEntry) (x : Desc) (axis : Option Nat) : Bool :=
  e.rank == x.rank && (List.range x.rank).all fun k =>
    x.ext k == (if axis = some k then ceilDiv (e.extent k) 16 else e.extent k)

end Sys2Proof.Machine
end

