-- ==== Sys2Proof/Machine/LongWord.lean ====
section
/-! DEFINITION. Long words (08_encoding.md): the header and slots, the opcode map, the operand tables and the checks made
on one long word alone (R177 to R200, R213 to R227, R523). -/

namespace Sys2Proof.Machine

/-- The operations of R187. -/
inductive Op where
  | nop | sync | loop | br | aop | eop | top | qcmp | brk | fin
  | ldt | lds | ldx | gath
  | chain | const | vmov
  | rsum | rmax | rmin | rssq | rdot | argmx | argmn | topk | scan | xred | rly
  | trn | perm | cpy | bcst | scat | gatp | pack | unpk | sort
  | stt | stx | put | done | fence
  deriving DecidableEq, Repr

/-- R187: the operation of a code in a stream (0 LD, 1 VE, 2 RE, 3 PE, 4 ST). -/
def Op.decode (stream code : Nat) : Option Op :=
  match code with
  | 0x00 => some .nop | 0x01 => some .sync | 0x02 => some .loop | 0x03 => some .br | 0x04 => some .aop
  | 0x05 => some .eop | 0x06 => some .top | 0x07 => some .qcmp | 0x3E => some .brk | 0x3F => some .fin
  | c =>
    let l : List Op := match stream with
      | 0 => [.ldt, .lds, .ldx, .gath]
      | 1 => [.chain, .const, .vmov]
      | 2 => [.rsum, .rmax, .rmin, .rssq, .rdot, .argmx, .argmn, .topk, .scan, .xred, .rly]
      | 3 => [.trn, .perm, .cpy, .bcst, .scat, .gatp, .pack, .unpk, .sort]
      | _ => [.stt, .stx, .put, .done, .fence]
    if c < 0x10 then none else l[c - 0x10]?

/-- The common control operations (R187). -/
def Op.control : Op → Bool
  | .nop | .sync | .loop | .br | .aop | .eop | .top | .qcmp | .brk | .fin => true
  | _ => false

/-- A long word as fetched: its opcode and header fields, its slots (absent ones read as zero, R181) and its length. -/
structure LW where
  code    : Nat
  mask    : Nat
  tally   : Nat
  hdrRes  : Nat
  noscore : Bool
  slots   : List Nat
  len     : Nat
  deriving DecidableEq, Repr

/-- The number of slots present. -/
def slotCount (mask : Nat) : Nat := ((List.range 14).map fun k => b2n (bit mask k)).foldl (· + ·) 0

/-- R177 to R179: the long word at a position, through a reader of 32-bit words at byte offsets. -/
def LW.parse (rd : Nat → Nat) (off : Nat) : LW :=
  let h := rd off
  let mask := bits h 25 12
  { code := bits h 31 26, mask := mask, tally := bits h 11 8, hdrRes := bits h 7 1, noscore := bit h 0,
    slots := (List.range 14).map fun k =>
      if bit mask k then rd (off + 4 + 4 * slotCount (mask % 2 ^ k)) else 0,
    len := 4 + 4 * slotCount mask }

/-- A slot is present (R178). -/
def LW.has (w : LW) (k : Nat) : Bool := bit w.mask k

/-- Bits of a slot. -/
def LW.f (w : LW) (k hi lo : Nat) : Nat := bits (tget 0 w.slots k) hi lo

/-- One bit of a slot. -/
def LW.b (w : LW) (k n : Nat) : Bool := bit (tget 0 w.slots k) n

/-! ## Descriptor references and declarations -/

/-- A descriptor reference (R184). -/
structure Dref where
  ind  : Bool
  ofv  : Bool
  oreg : Nat
  didx : Nat
  res  : Bool
  deriving DecidableEq, Repr

def Dref.parse (v : Nat) : Dref :=
  { ind := bit v 15, ofv := bit v 14, oreg := bits v 13 10, didx := bits v 7 0,
    res := bits v 9 8 != 0 || (!bit v 14 && bits v 13 10 != 0) || (bit v 15 && bits v 7 4 != 0) }

/-- A region declaration (R182): the mode is 0 READ, 1 CONSUME, 2 PEEK for slots 10 and 11, 0 FILL, 1 UPDATE for 12. -/
structure Decl where
  first : Nat
  last  : Nat
  mode  : Nat
  deriving DecidableEq, Repr

def LW.decl (w : LW) (k : Nat) : Option Decl :=
  if w.has k then some ⟨w.f k 31 22, w.f k 21 12, w.f k 11 10⟩ else none

/-- One operand named by descriptor: its DREF, the SPACE it takes, whether it is written, whether it must come from the
table, and the slot of its declaration (R188, R191 to R194). -/
structure Opnd where
  slot  : Nat
  hi    : Nat
  space : Nat
  dest  : Bool
  table : Bool
  decl  : Nat
  deriving DecidableEq, Repr

/-- The operands of an operation, in the order source, second source or index, destination, index destination. -/
def Op.opnds : Op → List Opnd
  | .ldt => [⟨0, 31, 0, false, false, 0⟩, ⟨0, 15, 1, true, false, 12⟩]
  | .lds => [⟨0, 31, 1, false, false, 10⟩, ⟨0, 15, 1, true, false, 12⟩]
  | .ldx => [⟨0, 31, 2, false, false, 10⟩, ⟨0, 15, 1, true, false, 12⟩]
  | .gath => [⟨0, 31, 0, false, false, 0⟩, ⟨2, 31, 1, false, false, 11⟩, ⟨0, 15, 1, true, false, 12⟩]
  | .rsum | .rmax | .rmin | .rssq | .scan | .xred | .rly | .trn | .perm | .cpy | .bcst | .pack | .unpk =>
    [⟨0, 31, 1, false, false, 10⟩, ⟨0, 15, 1, true, false, 12⟩]
  | .rdot => [⟨0, 31, 1, false, false, 10⟩, ⟨2, 31, 1, false, false, 11⟩, ⟨0, 15, 1, true, false, 12⟩]
  | .argmx | .argmn | .topk | .sort =>
    [⟨0, 31, 1, false, false, 10⟩, ⟨0, 15, 1, true, false, 12⟩, ⟨2, 15, 1, true, false, 12⟩]
  | .scat | .gatp => [⟨0, 31, 1, false, false, 10⟩, ⟨2, 31, 1, false, false, 11⟩, ⟨0, 15, 1, true, false, 12⟩]
  | .stt => [⟨0, 31, 1, false, false, 10⟩, ⟨0, 15, 0, true, false, 0⟩]
  | .stx => [⟨0, 31, 1, false, false, 10⟩, ⟨0, 15, 2, true, false, 12⟩]
  | .put => [⟨0, 31, 1, false, false, 10⟩, ⟨0, 15, 0, true, true, 0⟩]
  | _ => []

/-- The DREF of an operand. -/
def LW.dref (w : LW) (o : Opnd) : Dref := Dref.parse (w.f o.slot o.hi (o.hi - 15))

/-- The accepted slots of R188 as a mask. -/
def Op.accepts : Op → Nat
  | .nop | .fence => 0x2000
  | .sync => 0x3C00
  | .loop | .eop | .qcmp => 3
  | .br | .top => 1
  | .aop => 7
  | .brk | .fin => 0
  | .ldt | .lds | .ldx => 0x3403
  | .gath => 0x3C07
  | .chain => 0x3FFF
  | .const => 0x2003
  | .vmov => 0x3401
  | .rsum | .rmax | .rmin | .rssq | .scan => 0x3403
  | .rdot => 0x3C07
  | .argmx | .argmn | .topk => 0x3407
  | .xred => 0x340B
  | .rly => 0x3413
  | .trn | .perm | .cpy | .bcst | .pack | .unpk => 0x3403
  | .scat | .gatp => 0x3C07
  | .sort => 0x3407
  | .stt => 0x2403
  | .put => 0x2407
  | .stx => 0x3403
  | .done => 0x2003

/-- The bits of slots 0 to 9 that are fields of the operation (R190 to R199). -/
def Op.fields (o : Op) (k : Nat) : Nat :=
  match o, k with
  | .loop, 0 => 0xFE0FFFFF | .loop, 1 => 0x3FFFF
  | .br, 0 => 0xF8FFFFFF
  | .aop, 0 => 0xFFFF0000 | .aop, 1 => 0xFFFFFFFF | .aop, 2 => 0xFFFF
  | .eop, 0 => 0xFFFF8000 | .eop, 1 => 0xFFFFFFFF
  | .top, 0 => 0xFC000000
  | .qcmp, 0 => 0xFFF00000 | .qcmp, 1 => 0xFFFFFFFF
  | .const, 0 => 0xFFFC0000 | .const, 1 => 0xFFFFFFFF
  | .vmov, 0 => 0xFFFFFFFF
  | .chain, _ => 0xFFFFFFFF
  | .done, 0 => 0xF0000000 | .done, 1 => 0xFFFFFFFF
  | .ldt, 1 | .lds, 1 | .ldx, 1 => 0x80FF0000
  | .gath, 1 => 0x00FF0000
  | .rsum, 1 | .rmax, 1 | .rmin, 1 | .rssq, 1 | .rdot, 1 | .argmx, 1 | .argmn, 1 | .scan, 1 | .xred, 1 | .rly, 1 =>
    0xE0FF0000
  | .topk, 1 => 0xF0FFFE00
  | .trn, 1 | .pack, 1 | .unpk, 1 => 0x00FF0000
  | .perm, 1 => 0x00FF7FFF
  | .sort, 1 => 0xF0000000
  | .stt, 1 | .stx, 1 | .put, 1 => 0x00FF0000
  | .gath, 2 | .rdot, 2 | .scat, 2 | .gatp, 2 => 0xFFFF0000
  | .argmx, 2 | .argmn, 2 | .topk, 2 | .sort, 2 => 0xFFFF
  | .put, 2 => 0xFC000000
  | .xred, 3 => 0xFFFFC0FF
  | .rly, 4 => 0xFFFFF800
  | o, 0 => if o.opnds.isEmpty then 0 else 0xFFFFFFFF
  | _, _ => 0

/-- The operations whose slot 1 carries an NCO in bits [23:16] (R186). -/
def Op.hasNco (o : Op) : Bool := o != .chain && o != .qcmp && o != .eop && o != .aop && o != .loop && o != .const &&
  o != .done && (o.fields 1 &&& 0xFF0000) == 0xFF0000

/-- The NCO of a long word, 0 where it has none. -/
def LW.nco (w : LW) (o : Op) : Nat := if o.hasNco then w.f 1 23 16 else 0

/-- R186: an NCO with a reserved subfield. -/
def ncoReserved (v : Nat) : Bool := bits v 5 4 == 3 || bits v 3 2 == 3 || bits v 1 0 == 3

/-- R81, R186: a context under an NCO. -/
def applyNco (x : ACtx) (v : Nat) : ACtx :=
  { x with
    round := match bits v 7 6 with | 1 => .rne | 2 => .rtz | 3 => .rsto | _ => x.round
    sat := match bits v 5 4 with | 1 => false | 2 => true | _ => x.sat
    flush := match bits v 3 2 with | 1 => false | 2 => true | _ => x.flush
    nanProp := match bits v 1 0 with | 1 => false | 2 => true | _ => x.nanProp }

/-- R189: operations whose TALLY holds zero. -/
def Op.noTally (o : Op) : Bool :=
  o.control || o == .cpy || o == .bcst || o == .scat || o == .gatp || o == .const || o == .vmov || o == .done || o == .fence

/-- A signed 24-bit offset of a BR in bytes (R190). -/
def LW.brOff (w : LW) : Int := 4 * signed 24 (w.f 0 23 0)

/-! ## Micro-operations as encoded (R195 to R198) -/

/-- The operands a micro-operation uses: A, B as a selector, C. -/
def uopUses (u : Nat) : Bool × Bool × Bool :=
  if u == 0x04 || u == 0x09 || u == 0x0A then (true, true, true)
  else if u == 0x07 || u == 0x08 || u == 0x1B || u == 0x20 || u == 0x21 || (0x28 ≤ u && u ≤ 0x2F) then (true, false, false)
  else if u == 0x3F then (false, false, false)
  else (true, true, false)

/-- R198: the formats a micro-operation may have. -/
def uopFmtOk (strict : Bool) (u : Nat) (f : Fmt) : Bool :=
  f.computed &&
  (if u == 0x04 || (0x21 ≤ u && u ≤ 0x2F) then f.isFp
   else if 0x18 ≤ u && u ≤ 0x1F then f.isInt
   else if u == 0x30 then f == .fp32 || (strict && f == .fp16)
   else if u == 0x34 || u == 0x35 then f == .int32
   else if u == 0x36 then f.isInt
   else true)

/-- One micro-operation slot. -/
structure Uop where
  u   : Nat
  fmt : Nat
  dst : Nat
  a   : Nat
  b   : Nat
  c   : Nat
  raw : Nat
  deriving DecidableEq, Repr

/-- The present micro-operation slots in order. -/
def LW.uops (w : LW) : List Uop :=
  (List.range 8).filterMap fun k =>
    if w.has (k + 2) then
      let v := tget 0 w.slots (k + 2)
      some ⟨bits v 31 26, bits v 25 22, bits v 21 17, bits v 16 11, bits v 10 5, bits v 4 0, v⟩
    else none

/-- The source format of a CVT (R198). -/
def Uop.src (q : Uop) : Option Fmt := Fmt.ofCode (q.b % 16)

/-- A micro-operation of a CHAIN reads a stream (sel 0x20 a, 0x21 b). -/
def LW.readsStream (w : LW) (sel : Nat) : Bool :=
  w.uops.any fun q => let (a, b, _) := uopUses q.u
    q.u != 0x3F && uopKnown q.u && ((a && q.a == sel) || (b && q.b == sel))

/-- The codes of failing checks among those that follow a list of pairs (code, passes). -/
def failing (l : List (Nat × Bool)) : List Nat := l.filterMap fun p => if p.2 then none else some p.1

/-- A format that carries no arithmetic in an image of a class (R68, R74). -/
def noArith (strict : Bool) (f : Nat) : Bool := f == 3 || f == 4 || (strict && f == 1)

/-- Checks on a format named in an operand field: reserved 0x13, not allowed 0x17. -/
def fmtField (strict : Bool) (f : Nat) : List Nat :=
  if (Fmt.ofCode f).isNone then [0x13] else if noArith strict f then [0x17] else []

/-- Checks of an NCO: 0x13 and, in a STRICT image, 0x18. -/
def ncoChecks (strict : Bool) (v : Nat) : List Nat :=
  failing [(0x13, !ncoReserved v), (0x18, !(strict && bits v 7 6 == 3))]

/-- R197: the checks of one operand read in a format; `wr` lists registers written earlier with their formats. `mask` is
SEL's mask, which may be any integer format of the lane width. -/
def readCheck (w : LW) (wr : List (Nat × Fmt)) (sel : Nat) (f : Fmt) (mask : Bool) : List Nat :=
  let have_ : Option Fmt :=
    if sel == 0x20 then Fmt.ofCode (w.f 0 31 28) else if sel == 0x21 then Fmt.ofCode (w.f 0 27 24)
    else (wr.find? fun p => p.1 == sel).map (·.2)
  match have_ with
  | none => []
  | some g => if (if mask then g.isInt && g.wide == f.wide else g == f) then [] else [0x17]

/-- R196 to R198: the checks of the micro-operations, left to right. -/
def uopChecks (strict : Bool) (w : LW) : List (Nat × Fmt) → List Uop → List Nat
  | _, [] => []
  | wr, q :: r =>
    if !uopKnown q.u then 0x13 :: uopChecks strict w wr r
    else if q.u == 0x3F then
      failing [(0x13, (q.raw &&& 0x0300FFFF) == 0)] ++ ncoChecks strict (bits q.raw 23 16) ++ uopChecks strict w wr r
    else match Fmt.ofCode q.fmt with
      | none => 0x13 :: uopChecks strict w wr r
      | some f =>
        let (ua, ub, uc) := uopUses q.u
        let isCvt := q.u == 0x20
        failing [(0x17, uopFmtOk strict q.u f), (0x17, !(strict && f == .bf16)),
          (0x18, !(strict && 0x28 ≤ q.u && q.u ≤ 0x2F && q.u != 0x2C)),
          (0x13, (ua || q.a == 0) && (ub || isCvt || q.b == 0) && (uc || q.c == 0)),
          (0x13, !(ua && q.a ≥ 0x22)), (0x13, !(ub && q.b ≥ 0x22))] ++
        (if isCvt then
          match q.src with
          | none => [0x13]
          | some s => failing [(0x13, q.b / 16 == 0), (0x17, !noArith strict s.code)] ++ readCheck w wr q.a s false
         else if ua then readCheck w wr q.a f (q.u == 0x0A) else []) ++
        (if ub then readCheck w wr q.b f false else []) ++
        (if uc then readCheck w wr q.c f false else []) ++
        uopChecks strict w ((q.dst, uopOut q.u f) :: wr) r

/-- Bytes of a declaration. -/
def Decl.bytes (d : Decl) : Nat := (d.last + 1 - d.first) * 4096

/-- R195: a stream or destination of a CHAIN lies in its declaration. -/
def chainFits (w : LW) (k hi lo fmt : Nat) : Bool :=
  match w.decl k, Fmt.ofCode fmt with
  | some d, some f => decide (w.f 1 hi lo * 64 + w.f 0 19 0 * f.bytes ≤ d.bytes)
  | _, _ => true

/-- R195 to R197: the checks of a CHAIN. -/
def chainChecks (strict : Bool) (w : LW) : List Nat :=
  let m := w.uops.length
  let contiguous := (List.range m).all fun k => w.has (k + 2)
  let ra := w.readsStream 0x20
  let rb := w.readsStream 0x21
  let fa := w.f 0 31 28
  let fb := w.f 0 27 24
  let fd := w.f 0 23 20
  failing [(0x16, decide (m ≥ 1) && contiguous && decide (w.f 0 19 0 ≥ 1))] ++
  uopChecks strict w [] w.uops ++
  (if ra then fmtField strict fa else failing [(0x13, fa == 0)]) ++
  (if rb then fmtField strict fb else failing [(0x13, fb == 0)]) ++
  (if w.has 12 then fmtField strict fd else failing [(0x13, fd == 0 && w.f 1 4 0 == 0)]) ++
  failing [(0x1A, ra == w.has 10 && rb == w.has 11),
    (0x1A, !ra || chainFits w 10 31 23 fa), (0x1A, !rb || chainFits w 11 22 14 fb), (0x1A, chainFits w 12 13 5 fd)]

/-- R199: the checks of CONST and VMOV. -/
def constChecks (strict : Bool) (w : LW) : List Nat :=
  let f := w.f 0 26 23
  let src := w.b 0 22
  fmtField strict f ++
  failing [(0x13, if src then tget 0 w.slots 1 == 0 else w.f 0 21 18 == 0),
    (0x13, match Fmt.ofCode f with | some g => src || decide (tget 0 w.slots 1 < 2 ^ g.width) | none => true)]

def vmovChecks (strict : Bool) (w : LW) : List Nat :=
  let mode := w.f 0 31 30
  let f := w.f 0 24 21
  let k := if mode == 1 then 12 else 10
  fmtField strict f ++
  failing [(0x13, mode != 3 && (mode == 2 || w.f 0 10 0 == 0)),
    (0x1A, mode == 3 || (w.has 10 == (k == 10) && w.has 12 == (k == 12))),
    (0x1A, match w.decl k, Fmt.ofCode f with
      | some d, some g =>
        if mode == 2 then decide (w.f 0 20 11 * 64 + (w.f 0 10 0 + 1) * g.bytes ≤ d.bytes)
        else decide ((w.f 0 20 11 + 16) * 64 ≤ d.bytes)
      | _, _ => true)]

/-- R190: the checks of the common control operations on their own fields. -/
def controlChecks (o : Op) (w : LW) : List Nat :=
  match o with
  | .loop =>
    if w.b 0 29 then failing [(0x13, w.f 0 19 0 == 0)]
    else failing [(0x13, w.f 0 28 25 == 0), (0x1B, w.f 0 19 0 != 0)]
  | .br => failing [(0x13, !w.b 0 31 || w.f 0 30 27 == 0)]
  | .aop =>
    let fn := w.f 0 31 28
    let imm := tget 0 w.slots 1
    failing [(0x13, decide (fn ≤ 4)), (0x13, fn != 0 || w.f 0 23 20 == 0), (0x13, fn == 2 || w.f 0 19 16 == 0),
      (0x13, fn == 0 || tget 0 w.slots 2 == 0), (0x13, fn != 2 || imm == 0),
      (0x1B, fn != 3 || decide (imm < 48)), (0x1B, fn != 4 || (decide (1 ≤ imm) && decide (imm ≤ 65535)))]
  | .eop =>
    let fn := w.f 0 31 28
    let md := w.f 0 24 21
    let arg := w.f 0 20 15
    let imm := tget 0 w.slots 1
    failing [(0x13, decide (fn ≤ 2)), (0x13, fn != 0 || decide (md ≤ 5)), (0x13, fn == 0 || (md == 0 && arg == 0)),
      (0x13, fn != 0 || md == 1 || md == 2 || md == 4 || arg == 0), (0x13, fn == 2 || imm == 0),
      (0x1B, !(fn == 0 && (md == 1 || md == 4)) || decide (arg ≤ 4))]
  | .top => failing [(0x13, decide (w.f 0 31 28 ≤ 2))]
  | .qcmp =>
    let cl := w.f 0 26 24
    let reg := w.f 0 23 20
    failing [(0x13, decide (cl ≤ 4)), (0x13, cl != 4 || (reg == 0 && tget 0 w.slots 1 == 0)),
      (0x1B, match cl with | 1 => decide (reg ≤ 3) | 2 => decide (reg ≤ 7) | 3 => decide (reg ≤ 3) | _ => true)]
  | _ => []

/-! ## Formats, shapes and axes (R203 to R227, R523). An operand that is not known is none and its checks are skipped. -/

/-- The source dimension of destination dimension j of a PERM (R193). -/
def LW.pmap (w : LW) (j : Nat) : Nat := w.f 1 (14 - 3 * j) (12 - 3 * j)

/-- The axis field of a reduce operation or a SORT. -/
def LW.axis (w : LW) (o : Op) : Nat := if o == .sort then w.f 1 30 28 else w.f 1 31 29

/-- Extents with d0 and d1 exchanged. -/
def swap01 : List Nat → List Nat
  | a :: b :: r => b :: a :: r
  | l => l

/-- Extents equal everywhere but in one dimension. -/
def sameBut (k : Nat) (a b : List Nat) : Bool := (List.range 5).all fun j => j == k || tget 1 a j == tget 1 b j

/-- R213: a reduction that may take group form. -/
def Op.groups : Op → Bool
  | .rsum | .rssq | .rdot => true | _ => false

/-- R213: the reductions of reduced or group form. -/
def Op.forms : Op → Bool
  | .rsum | .rmax | .rmin | .rssq | .rdot | .argmx | .argmn => true | _ => false

/-- R213: a destination takes group form: its extent along AXIS is ⌈n ÷ 16⌉ and the operation may have that form. An extent
of 1, which n ≤ 16 gives in both forms, is the reduced form (assumption 14, DEDUCED). -/
def groupForm (strict : Bool) (o : Op) (ax : Nat) (src dst : Desc) : Bool :=
  o.groups && !strict && dst.ext ax != 1 && dst.ext ax == ceilDiv (src.ext ax) 16

/-- The combining function of an XRED or an RLY: 0 sum, 1 maximum, 2 minimum (R192). -/
def LW.redFn (w : LW) (o : Op) : Nat := if o == .xred then w.f 3 15 14 else w.f 4 13 12

/-- The checks on the fields of the descriptors of a long word, by codes 0x17, 0x1B and 0x44. `d` holds its operands in
the order of `Op.opnds`, none for one that is not known: a check of one operand is made whatever the others are, one of two
where both are known. `c` and `n` are the issuing cluster and the courts. R193 asks a computed source of PACK and R224 lists
FP32, BF16 and FP16: an integer source is rejected with 0x17 (assumption 14, DEDUCED). -/
def shapeChecks (strict : Bool) (o : Op) (w : LW) (n c : Nat) (d : List (Option Desc)) : List Nat :=
  let src := (d.head?).join
  let dst : Option Desc := ((o.opnds.zip d).findSome? fun p => if p.1.dest then some p.2 else none).join
  let idx : Option Desc := if o == .gath || o == .scat || o == .gatp then (tget none d 1) else none
  let src2 : Option Desc := if o == .rdot then tget none d 1 else none
  let idst : Option Desc := if o == .argmx || o == .argmn || o == .topk || o == .sort then tget none d 2 else none
  let on (x : Option Desc) (p : Desc → Bool) : Bool := match x with | some q => p q | none => true
  let on2 (x y : Option Desc) (p : Desc → Desc → Bool) : Bool := match x, y with | some a, some b => p a b | _, _ => true
  let fl (q : Desc) : Bool := q.fmt ≤ 2
  let arith (q : Desc) : Bool := !noArith strict q.fmt
  let int32 (q : Desc) : Bool := q.fmt == 8
  let rank2 (q : Desc) : Bool := decide (q.rank ≥ 2)
  let idxChecks := failing [(0x17, on idx int32), (0x17, on idst int32)]
  let ax := w.axis o
  idxChecks ++
  (match o with
  | .ldt | .lds | .ldx =>
    failing [(0x17, on dst arith),
      (0x1B, on2 src dst fun a b => b.exts == (if w.b 1 31 then swap01 a.exts else a.exts))]
  | .gath =>
    failing [(0x17, on dst arith), (0x1B, on src rank2), (0x1B, on2 src dst fun a b => sameBut 1 a.exts b.exts),
      (0x1B, on idx fun i => i.rank == 1), (0x1B, on2 idx dst fun i b => i.ext 0 == b.ext 1)]
  | .trn => failing [(0x17, on2 src dst fun a b => a.fmt == b.fmt), (0x1B, on2 src dst fun a b => b.exts == swap01 a.exts)]
  | .cpy => failing [(0x17, on2 src dst fun a b => a.fmt == b.fmt), (0x1B, on2 src dst fun a b => a.exts == b.exts)]
  | .bcst =>
    failing [(0x17, on2 src dst fun a b => a.fmt == b.fmt),
      (0x1B, on2 src dst fun a b => a.rank == b.rank && (a.exts.zip b.exts).all fun p => p.1 == p.2 || p.1 == 1)]
  | .perm =>
    failing [(0x17, on2 src dst fun a b => a.fmt == b.fmt),
      (0x1B, on src fun a => (List.range 5).all fun j =>
        if j < a.rank then decide (w.pmap j < a.rank) && (List.range j).all (fun i => w.pmap i != w.pmap j)
        else w.pmap j == 0),
      (0x1B, on2 src dst fun a b => (List.range 5).all fun j => b.ext j == (if j < a.rank then a.ext (w.pmap j) else 1))]
  | .scat =>
    failing [(0x17, on2 src dst fun a b => a.fmt == b.fmt), (0x1B, on src rank2 && on dst rank2),
      (0x1B, on2 src dst fun a b => sameBut 1 a.exts b.exts),
      (0x1B, on idx fun i => i.rank == 1), (0x1B, on2 idx src fun i a => i.ext 0 == a.ext 1)]
  | .gatp =>
    failing [(0x17, on2 src dst fun a b => a.fmt == b.fmt), (0x1B, on src rank2),
      (0x1B, on2 src dst fun a b => sameBut 1 a.exts b.exts),
      (0x1B, on idx fun i => i.rank == 1), (0x1B, on2 idx dst fun i b => i.ext 0 == b.ext 1)]
  | .pack =>
    failing [(0x17, on src fun a => fl a && arith a), (0x17, on dst Desc.isIr4), (0x1B, on2 src dst fun a b => a.exts == b.exts)]
  | .unpk =>
    failing [(0x17, on src Desc.isIr4), (0x17, on dst fun b => b.fmt == 0 || (b.fmt == 1 && !strict)),
      (0x1B, on2 src dst fun a b => a.exts == b.exts)]
  | .sort =>
    failing [(0x17, on src arith), (0x17, on dst arith), (0x17, on2 src dst fun a b => a.fmt == b.fmt),
      (0x1B, on src fun a => decide (ax < a.rank)), (0x1B, [src, dst, idst].all fun q => on q fun a => decide (a.ext ax ≤ 1024)),
      (0x1B, [(src, dst), (src, idst), (dst, idst)].all fun q => on2 q.1 q.2 fun a b => a.exts == b.exts)]
  | .stt | .stx | .put => failing [(0x17, on src arith), (0x1B, on2 src dst fun a b => a.exts == b.exts)]
  | .topk =>
    let k := w.f 1 15 9
    failing [(0x17, on src arith), (0x17, on dst arith), (0x1B, on2 src dst fun a b => a.fmt == b.fmt),
      (0x1B, decide (1 ≤ k) && decide (k ≤ 64)), (0x1B, on src fun a => decide (ax < a.rank)),
      (0x1B, on src fun a => decide (k ≤ a.ext ax)),
      (0x1B, on dst (fun b => b.ext ax == k) && on idst fun b => b.ext ax == k),
      (0x1B, [(src, dst), (src, idst), (dst, idst)].all fun q => on2 q.1 q.2 fun a b => sameBut ax a.exts b.exts)]
  | .scan =>
    failing [(0x17, on src arith), (0x17, on dst arith), (0x17, on2 src dst fun a b => fl a == fl b),
      (0x1B, on src fun a => decide (ax < a.rank)), (0x1B, on2 src dst fun a b => a.exts == b.exts)]
  | .xred =>
    let fn := w.redFn o
    failing [(0x17, on src arith), (0x17, on dst arith),
      (0x17, on src fun a => fn != 0 || !fl a || a.fmt == 0),
      (0x17, on2 src dst fun a b => if fn == 0 then fl a == fl b else a.fmt == b.fmt),
      (0x1B, decide (w.f 3 31 24 ≤ c) && decide (c ≤ w.f 3 23 16) && decide (w.f 3 23 16 < 12 * n)),
      (0x1B, on src fun a => decide (ax < a.rank)), (0x1B, on src fun a => decide (a.lines ≤ 1024))]
  | .rly =>
    let fn := w.redFn o
    failing [(0x17, on src arith), (0x17, on dst arith),
      (0x17, on src fun a => fn != 0 || !fl a || a.fmt == 0),
      (0x17, on2 src dst fun a b => if fn == 0 then fl a == fl b else a.fmt == b.fmt),
      (0x1B, !(w.f 4 15 14 == 1 && w.b 4 11)), (0x1B, on src fun a => decide (ax < a.rank)),
      (0x1B, on src fun a => a.shard != noShard),
      (0x1B, on src fun a => decide (a.rows * ceilDiv (a.ext 0 * a.bw) 64 ≤ 128))]
  | _ =>
    if o.forms then
      failing [(0x17, on src arith), (0x17, on src2 arith), (0x17, on dst arith),
        (0x17, if o == .rsum then on2 src dst fun a b => fl a == fl b
          else if o == .rssq || o == .rdot then on src fl && on src2 fl && on dst fl
          else on2 src dst fun a b => a.fmt == b.fmt),
        (0x1B, on src fun a => decide (ax < a.rank)),
        (0x1B, [(src, dst), (src, idst), (src2, dst)].all fun q => on2 q.1 q.2 fun a b => sameBut ax a.exts b.exts),
        (0x1B, on2 src dst fun a b => b.ext ax == 1 || groupForm strict o ax a b),
        (0x1B, (o.groups && !strict) || (on dst (fun b => b.ext ax == 1) && on idst fun b => b.ext ax == 1)),
        (0x17, on2 src dst fun a b => !groupForm strict o ax a b || b.fmt == 0),
        (0x44, on2 src dst fun a b => !groupForm strict o ax a b || a.ext ax % 16 == 0),
        (0x1B, on2 src src2 fun a b => a.exts == b.exts), (0x1B, on2 dst idst fun a b => a.exts == b.exts)]
    else [])

/-- The checks of R200 on the fields of a long word that decodes, its descriptors apart. `n` is the courts of the
image. The remote declaration of an LDX or STX whose remote operand has IND = 1 takes no part in the rules of R172, so 0x30,
0x31 and 0x32 pass over it (R160). -/
def fieldChecks (strict debug : Bool) (o : Op) (w : LW) (n : Nat) : List Nat :=
  let declModes := (List.range 3).flatMap fun j =>
    let k := j + 10
    match w.decl k with
    | none => []
    | some d => failing [(0x13, w.f k 9 0 == 0)] ++
        (if o.opnds.any fun q => q.decl == k && q.space == 2 && (w.dref q).ind then []
         else failing [(0x30, decide (d.first ≤ d.last)),
           (0x31, if k = 12 then decide (d.mode ≤ 1) else d.mode != 3), (0x32, debug || k == 12 || d.mode != 2)])
  let wv := w.b 13 31
  let sv := w.b 13 24
  let tgt := w.f 13 17 10
  let declOf (k : Nat) : Bool := o == .sync || o == .chain || o == .vmov || o.opnds.any fun q => q.decl == k
  failing [(0x10, debug || o != .brk), (0x11, w.hdrRes == 0), (0x12, (w.mask ||| o.accepts) == o.accepts),
    (0x14, !o.noTally || w.tally == 0), (0x32, debug || !w.noscore)] ++ declModes ++
  (if w.has 13 then
    failing [(0x13, w.f 13 9 0 == 0 && (wv || w.f 13 30 25 == 0) && (sv || w.f 13 23 10 == 0)),
      (0x37, !sv || tgt == 255 || decide (tgt < 12 * n))]
   else []) ++
  ((List.range 10).flatMap fun k => failing [(0x13, (tget 0 w.slots k ||| o.fields k) == o.fields k)]) ++
  (if o.hasNco then ncoChecks strict (w.nco o) else []) ++
  (o.opnds.flatMap fun q => failing [(0x13, !(w.dref q).res), (0x19, !(q.table && (w.dref q).ind)),
    (0x1A, q.decl == 0 || w.has q.decl)]) ++
  ((List.range 3).flatMap fun j => failing [(0x1A, !w.has (j + 10) || declOf (j + 10))]) ++
  (match o with
   | .chain => chainChecks strict w
   | .const => constChecks strict w
   | .vmov => vmovChecks strict w
   | .xred => failing [(0x13, w.redFn o != 3)]
   | .rly => failing [(0x13, w.redFn o != 3 && decide (w.f 4 15 14 < 2))]
   | _ => controlChecks o w)

end Sys2Proof.Machine
end

