-- ==== Sys2Proof/Machine/State.lean ====
section
/-! DEFINITION. The state of the block: every register, store, queue, counter, mode and pin that the spec gives the device
and its board, as plain data, and the queue of waiting commands. Lists of fixed length hold the items of a numbered kind
(clusters, partitions, ports), sparse lists hold memories in one canonical form: keys strictly rising, no entry at the
default. -/

namespace Sys2Proof.Machine

/-- No command of this block stops the machine with a fault: errors of the hardware are effects on the state (R446,
R452). The type is empty, so nobody raises it (safe). -/
inductive Fault where
  deriving DecidableEq, Repr

/-- Why a command has no meaning. -/
inductive Refusal where
  /-- Raised by an arm of `exec` that has no meaning yet, with its mnemonic; safe. -/
  | notModelled (mnemonic : String)
  deriving DecidableEq, Repr

/-- A memory of bytes: sorted (address, byte) pairs; an unlisted address reads as zero. -/
abbrev Mem := List Host.Cell

/-! ## Clusters (07_cluster.md) -/

/-- The states of a region of the scoreboard (R155). -/
inductive RState where
  | empty | filling | full | draining
  deriving DecidableEq, Repr

/-- A scoreboard entry: state and reader count n. -/
structure Region where
  st : RState := .empty
  n  : Nat := 0
  deriving DecidableEq, Repr

/-- What an issued long word still waits for before it can complete: nothing, its XRED result (R218), the roots of an RLY
(R401), the READRSP of a PUT (R392), or the earlier long words of its stream (FENCE; DONE with the PA of its line: R229,
R230). -/
inductive Waits where
  | nothing
  | xred (xtag k : Nat)
  | rly (rid epoch : Nat)
  | put (dev tid : Nat)
  | earlier
  | line (pa : Nat)
  deriving DecidableEq, Repr

/-- A long word in flight (R151), with the remote cluster whose grant it holds (R159). -/
structure Flight where
  op     : Op
  off    : Nat
  lw     : LW
  remote : Option (Nat × Decl)
  waits  : Waits
  deriving DecidableEq, Repr

/-- A loop that runs: its loop counter, the offset of its body and the offset after it (R233). -/
structure LoopFrame where
  lc    : Nat
  start : Nat
  stop  : Nat
  deriving DecidableEq, Repr

/-- The fetch unit of a stream (R23, R26, R153): its decoded queue as the offsets of the long words in it, oldest first, the
offset it fetches next, the loops it unrolls with the iterations left, and whether it has stopped. -/
structure FetchSt where
  q     : List Nat := []
  pc    : Nat := 0
  loops : List (LoopFrame × Nat) := []
  off   : Bool := true
  deriving DecidableEq, Repr

/-- How a poison mark came about (R449, R450); `held` is a mark of a court cache line not written back yet (R438). -/
inductive Cause where
  | demand | patrol | host | cache | held
  deriving DecidableEq, Repr

/-- One byte that a long word in flight has written, as it stood before: in device memory (by device address) or in the
scratchpad of a cluster, with the poison mark that its line had. -/
structure OldByte where
  clu : Option Nat
  adr : Nat
  old : Byte
  mark : Option Cause
  deriving DecidableEq, Repr

/-- What a long word in flight has written, which a fault may find not yet written (R446): its cluster, its stream, its number
among those issued, the bytes that nothing has written since. -/
structure Undo where
  g     : Nat
  str   : Nat
  n     : Nat
  bytes : List OldByte
  deriving DecidableEq, Repr

/-- One stream of a cluster (R150, R167): its next long word, its registers, its loops, the long words in flight (oldest
first), the number issued in this launch, the request it has sent to a remote scoreboard and whether it is granted, its fetch
unit. -/
structure StreamSt where
  pc     : Nat := 0
  ended  : Bool := true
  a      : List (BitVec 48) := List.replicate 16 0
  l      : List (BitVec 32) := List.replicate 4 0
  loops  : List LoopFrame := []
  flight : List Flight := []
  issued : Nat := 0
  asked  : Bool := false
  grant  : Option (Nat × Decl) := none
  draws  : List (Nat × Nat) := []
  fetch  : FetchSt := {}
  deriving DecidableEq, Repr

/-- Modes of an event counter (R169). -/
inductive EMode where
  | off
  | issue (s : Nat)
  | edge (t : Nat)
  | cycles
  | stall (s : Nat)
  | bank
  deriving DecidableEq, Repr

/-- An event counter. -/
structure ECount where
  v    : BitVec 32 := 0
  mode : EMode := .off
  deriving DecidableEq, Repr

/-- A timer (R170). -/
structure Timer where
  v   : BitVec 32 := 0
  run : Bool := false
  deriving DecidableEq, Repr

/-- A comparator: relation 0 EQ 1 NE 2 LT 3 GE, source class and register in a stream, threshold (R171). -/
structure Comparator where
  rel : Nat
  cls : Nat
  reg : Nat
  str : Nat
  thr : BitVec 32
  deriving DecidableEq, Repr

/-- A tally set (R124). -/
structure TallySet where
  sat   : Nat := 0
  flush : Nat := 0
  nan   : Nat := 0
  deriving DecidableEq, Repr

/-- A request in a remote request queue, or a release on its way back (R159): the engine, and the declaration. -/
structure RemoteReq where
  frm  : Nat
  str  : Nat
  decl : Decl
  deriving DecidableEq, Repr

/-- One XRED issued by a participant (R218): its matched fields, its elements as read, after FLUSH. -/
structure XPart where
  xtag  : Nat
  k     : Nat
  first : Nat
  last  : Nat
  fn    : Nat
  axis  : Nat
  fmt   : Nat
  dst   : Desc
  ebase : Nat
  nrtz  : Bool
  nco   : Nat
  tally : Nat
  exts  : List Nat
  els   : List Nat
  flu   : List Bool
  rs    : List Nat
  counted : Bool
  deriving DecidableEq, Repr

/-- A cluster: streams, scoreboard, tokens, count unit, tally sets, scratchpad, vector registers, instruction-cache tags
(slot, line), remote requests, releases on their way back, XREDs that wait for their result and those of the launch that have
had it, and its counters of R463 (DRILLCNT: R461). `drillK` is the number of kernels of the latest drill pass that have ended
(R457). -/
structure Cluster where
  streams : List StreamSt := List.replicate 5 {}
  regions : List (Nat × Region) := []
  tokens  : List (BitVec 8) := List.replicate 64 0
  e       : List ECount := List.replicate 8 {}
  w       : List Timer := List.replicate 4 {}
  q       : List (Option Comparator) := List.replicate 8 none
  tally   : List TallySet := List.replicate 16 {}
  sp      : Mem := []
  vr      : Mem := []
  icache  : List (Bool × Nat) := []
  reqs    : List RemoteReq := []
  rels    : List RemoteReq := []
  xredK   : List (Nat × Nat) := []
  xreds   : List XPart := []
  xdone   : List XPart := []
  suspect : Nat := 0
  dRuns   : BitVec 32 := 0
  dFails  : Nat := 0
  dLast   : Nat := 0
  dValid  : Bool := false
  drillK  : Nat := 12
  spce    : Nat := 0
  refetch : Nat := 0
  deriving DecidableEq, Repr

/-! ## Partitions -/

/-- The numeric context of R80. -/
structure NumCtx where
  flush : Bool := false
  sat   : Bool := true
  prop  : Bool := true
  round : Rounding := .rne
  seed  : Nat := 0
  deriving DecidableEq, Repr

/-- A job group (R309): its id, members and reduction timeout in µs. -/
structure Group where
  id      : Nat
  members : List Nat
  rto     : Nat
  deriving DecidableEq, Repr

/-- The partition settings of R292: context, deadline in µs, shard table. -/
structure PSettings where
  ctx    : NumCtx := {}
  dl     : Nat := 10000
  shards : List (Nat × Option ShardEntry) := []
  deriving DecidableEq, Repr

/-- The rally settings of R292: routes by rack device number, and the group. -/
structure RSettings where
  routes : List (Nat × Option Nat) := []
  group  : Option Group := none
  deriving DecidableEq, Repr

/-- States of an image slot (R243). -/
inductive SlotSt where
  | empty | loading | verified
  deriving DecidableEq, Repr

/-- An image slot: its state, the header facts of the image it holds, its SHA-384 over LEN bytes, its header's DIGEST. -/
structure Slot where
  st     : SlotSt := .empty
  len    : Nat := 0
  strict : Bool := false
  debug  : Bool := false
  sha    : List Byte := []
  digest : List Byte := []
  deriving DecidableEq, Repr

/-- A `load` in progress (R243). -/
structure LoadJob where
  ctx : LineCtx
  b   : Bool
  src : Nat
  len : Nat
  deriving DecidableEq, Repr

/-- A queued launch (R254). -/
structure Launch where
  b     : Bool
  args  : Nat
  dl    : Nat
  nc    : NcItems
  done  : Option Nat
  ctx   : LineCtx
  gated : Bool
  seq   : Nat
  deriving DecidableEq, Repr

/-- Whether a launch runs, is stopping at breaks (the streams that triggered, and whether the others may still issue), or is
stopped, with the step it may still take (cluster, stream, long words left) (R263, R264). -/
inductive StopSt where
  | running
  | stopping (hit : List (Nat × Nat)) (others : Bool)
  | stopped (step : Option (Nat × Nat × Nat))
  deriving DecidableEq, Repr

/-- The launch that runs: its context, the class and DEBUG of its image, its suspect count, its stop state. -/
structure Running where
  la      : Launch
  ctx     : NumCtx
  strict  : Bool
  debug   : Bool
  suspect : Nat := 0
  stop    : StopSt := .running
  deriving DecidableEq, Repr

/-- An armed break (R262). -/
inductive Brk where
  | count (cl s k : Nat)
  | tag (t : Nat)
  deriving DecidableEq, Repr

/-- The tally copy of R331 and R512. -/
structure TallyCopy where
  tag  : Option Nat
  seq  : Nat
  sum  : Nat
  sets : List TallySet
  name : List (List Byte)
  deriving DecidableEq, Repr

/-- A key slot (R430): its key, its seal counter, how many keys it has held, and those of them that wait for erasure. -/
structure KeySlot where
  key   : Option (List Byte) := none
  ctr   : Nat := 0
  gen   : Nat := 0
  erase : List Nat := []
  deriving DecidableEq, Repr

/-- The keys of a session (R420). -/
structure Session where
  prk   : List Byte
  kIn   : List Byte
  kOut  : List Byte
  kLock : List Byte
  kWrap : List Byte
  deriving DecidableEq, Repr

/-- A court-mover job (R361): 0 in, 1 out, 2 fill. `latch` holds the key slot, its generation and the key taken at the
start; `chunks` the sealed chunks done, `lines` the lines done or the host offsets received, `got` the host bytes received,
`moved` the bytes of R367, `status` the lowest status of a piece that has stopped, `after` the courts that move no further
line since then, `fails` the sealed chunks of which a host read failed (R362, R367). -/
structure Job where
  id     : Nat
  ctx    : LineCtx
  kind   : Nat
  key    : Option Nat
  pa     : Nat
  host   : Nat
  len    : Nat
  val    : Nat
  latch  : Option (Nat × Nat × List Byte)
  ctr    : Nat
  chunks : List Nat
  lines  : List Nat
  got    : List Host.Cell
  moved  : Nat
  status : Option Nat
  after  : List Nat
  fails  : List Nat := []
  deriving DecidableEq, Repr

/-- A report waiting to be written (R257, R372): the fields of R369, the done word, the window line and its transport, and
the vectors it sends after the line. `recorded` says that the done word is written. -/
structure Report where
  tag      : Nat
  status   : Nat
  code     : Nat
  flags    : Nat
  suspect  : Nat
  tally    : Nat
  seq      : Nat
  runtime  : Nat
  done     : Option Nat
  line     : List Byte
  ctx      : LineCtx
  faultVec : Bool
  recorded : Bool
  deriving DecidableEq, Repr

/-- A registered RLY (R396): who issued it, what it combines, the lines it still needs, its own lines that wait for a slot
(R400), the roots received. -/
structure RlyReg where
  rid    : Nat
  epoch  : Nat
  g      : Nat
  kind   : Nat
  axc    : Bool
  fn     : Nat
  axis   : Nat
  fmt    : Nat
  nrtz   : Bool
  nco    : Nat
  tally  : Nat
  dst    : Desc
  ebase  : Nat
  exts   : List Nat
  shard  : ShardEntry
  flu    : List Bool
  rs     : List Nat
  need   : List Nat
  own    : List (Nat × List Byte)
  rows   : List (Nat × List (List Byte))
  counted : Bool
  deriving DecidableEq, Repr

/-- One entry of the rewrite log (R450). -/
structure Rewrite where
  pa    : Nat
  da    : Nat
  ch    : Nat
  cause : Cause
  deriving DecidableEq, Repr

/-- The stored part of a partition's state; DEFINED, LOADED and RUNNING follow from its slots and launches (R408). -/
inductive PStat where
  | free | up | faulted | resetting
  deriving DecidableEq, Repr

/-- How far a partition reset has come: waiting for its end (R448), or for the verification of its slots (R410). -/
inductive RstPhase where
  | none | report | scrubbed | verify
  deriving DecidableEq, Repr

/-- A drill on the courts of a window's line that has not replied (R316, R338): passed and failed runs by court, the courts
whose pass for this line has not begun, and those on which it is under way. -/
structure DrillJob where
  ctx    : LineCtx
  courts : List Nat
  res    : List (Nat × Nat × Nat)
  wait   : List Nat
  on     : List Nat
  deriving DecidableEq, Repr

/-- A partition p0 to p7. -/
structure Partition where
  stat     : PStat := .free
  courts   : List Nat := []
  il       : Bool := false
  mhz      : Nat := 0
  relock   : Option LineCtx := none
  set      : PSettings := {}
  rally    : RSettings := {}
  stageP   : PSettings := {}
  stageR   : RSettings := {}
  touched  : Bool := false
  pendP    : Option PSettings := none
  pendR    : Option RSettings := none
  regroup  : Bool := false
  slots    : List Slot := [{}, {}]
  active   : Bool := false
  load     : Option LoadJob := none
  gate     : Bool := false
  tickets  : Nat := 0
  queue    : List Launch := []
  seq      : Nat := 0
  run      : Option Running := none
  breaks   : List Brk := []
  signals  : List (Nat × Nat) := []
  copy     : Option TallyCopy := none
  keys     : List KeySlot := List.replicate 8 {}
  pending  : Option Session := none
  session  : Option Session := none
  rxSeq    : Nat := 0
  txSeq    : Nat := 0
  dbgUsed  : Bool := false
  jobs     : List Job := []
  jobId    : Nat := 0
  drill    : Option DrillJob := none
  reports  : List Report := []
  ringBase : BitVec 64 := 0
  ringLog2 : Nat := 0
  ringEn   : Bool := false
  ringCie  : Bool := false
  prod     : BitVec 32 := 0
  cons     : BitVec 32 := 0
  lockdrop : Nat := 0
  faults   : Nat := 0
  late     : Nat := 0
  ffrec    : List Word := List.replicate 6 0
  phase    : RstPhase := .none
  haltReply : Option (LineCtx × Nat) := none
  revfy    : List Bool := []
  log      : List Rewrite := []
  logOver  : Bool := false
  epochs   : List (Nat × Nat) := []
  rlys     : List RlyReg := []
  putSent  : List (Nat × Nat) := []
  rxCount  : List (Nat × Nat) := []
  rxRefuse : List (Nat × Nat) := []
  aborts   : List (Nat × Nat) := []
  deriving DecidableEq, Repr

/-! ## Windows and the UART (11_worper.md) -/

/-- An element of an input FIFO: a byte, or the place where a discarded write lost bytes (R267). -/
inductive FifoItem where
  | byte (b : Byte)
  | overrun
  deriving DecidableEq, Repr

/-- A line as its bytes arrived, without LF; `over` when bytes of it were lost, `prefixed` when it came over the UART. -/
structure RawLine where
  bytes : List Byte
  ovf   : Bool := false
  uart  : Bool := false
  num   : Nat := 0
  deriving DecidableEq, Repr

/-- The line a stopped parser keeps (R288): as read, or already parsed. -/
inductive HeldLine where
  | raw (l : RawLine)
  | cmd (i : Instr)
  deriving DecidableEq, Repr

/-- Work of a Verelle verb that holds its window's parser until its reply (R287). -/
inductive Verelle where
  | freeing (l : LineCtx) (p : Nat)
  | relocking (p : Nat)
  | halting (p : Nat)
  | flashing
  deriving DecidableEq, Repr

/-- A window w0 to w8. -/
structure Window where
  fifo    : List FifoItem := []
  asm     : List Byte := []
  asmOver : Bool := false
  uline   : Option RawLine := none
  held    : Option HeldLine := none
  busy    : Option Verelle := none
  reply   : List Byte := []
  rie     : Bool := false
  ign     : Nat := 0
  ignWhy  : Nat := 0
  lost    : Nat := 0
  deriving DecidableEq, Repr

/-- The UART (R271 to R274, R285): rate and the rate that waits, receive FIFO with the loss marks, the assembled line and
its window, transmit buffer, echo with its line count, the two flow-control pins (true means asserted). -/
structure Uart where
  baud    : Nat := 115200
  newBaud : Option Nat := none
  rx      : List FifoItem := []
  asm     : List Byte := []
  asmOver : Bool := false
  tx      : List Byte := []
  echo    : Bool := false
  lines   : Nat := 0
  rts     : Bool := true
  cts     : Bool := true
  lost    : Nat := 0
  deriving DecidableEq, Repr

/-! ## Courts, channels, ports -/

/-- A court: the snoop filter of its cache, oldest entry first (R349), its cache error counters, its drill pass. -/
structure CourtSt where
  snoop : List Nat := []
  ccce  : Nat := 0
  ccue  : Nat := 0
  drill : Bool := false
  deriving DecidableEq, Repr

/-- A DRAM channel: counters and poison table with its overflow flag (R449, R463). -/
structure Channel where
  ce    : Nat := 0
  due   : Nat := 0
  pue   : Nat := 0
  table : List Nat := []
  ovf   : Bool := false
  deriving DecidableEq, Repr

/-- States of a rally link (R306). -/
inductive LinkSt where
  | down | training | up
  deriving DecidableEq, Repr

/-- A reduction slot (R398): the line it holds and its children by shard index. -/
structure RSlot where
  rid      : Nat
  epoch    : Nat
  line     : Nat
  fmt      : Nat
  fn       : Nat
  kind     : Nat
  axc      : Bool
  nrtz     : Bool
  susp     : Bool
  children : List (Nat × Nat × List Byte)
  deriving DecidableEq, Repr

/-- A READREQ in the flush table (R394). -/
structure FlushEnt where
  src  : Nat
  tid  : Nat
  wcnt : Nat
  deriving DecidableEq, Repr

/-- A rally port. Credits, totals of freed buffers and last reported totals are kept for class k at level h at 3k + h. A frame
in transit waits in `egress` with the port it arrived on, whose buffer it holds; a REDUCE frame waits in `waitRx` with its
combiner's mismatch. `tries` holds, for each frame of the replay buffer, how often it has been sent (R376); `sent` counts the
frames sent, which say whose credits are reported next (R380). -/
structure Port where
  st      : LinkSt := .down
  hold    : Bool := false
  retry   : Bool := false
  helloRx : Bool := false
  rxSeq   : Nat := 0
  txSeq   : Nat := 0
  nak     : Bool := false
  replay  : List Frame := []
  tries   : List Nat := []
  egress  : List (Frame × Option Nat) := []
  sent    : Nat := 0
  since   : Nat := 0
  credits : List Nat := [448, 192, 96, 32, 16, 16, 32, 16, 16, 448, 192, 96, 8, 8, 8]
  freed   : List Nat := List.replicate 15 0
  lastCr  : List Nat := List.replicate 15 0
  waitRx  : List (Frame × Bool) := []
  flush   : List FlushEnt := []
  slots   : List RSlot := []
  crc     : Nat := 0
  replays : Nat := 0
  drops   : Nat := 0
  deriving DecidableEq, Repr

/-! ## The device, the host link and the board -/

/-- One bank of the boot flash (R472, R473, R478). -/
structure Bank where
  valid    : Bool
  next     : Bool
  attempts : Nat
  bundle   : List Byte
  deriving DecidableEq, Repr

/-- The fuses (R414, R418, R472, R475); `fwKey` is the SHA-384 of the firmware signing public key. -/
structure Fuses where
  fwKey   : List Byte
  grade   : Nat
  debug   : Bool
  jtag    : Bool
  rev     : Nat
  cohort  : Nat
  minSec  : Nat
  raises  : Nat
  deriving DecidableEq, Repr

/-- A bundle on its way into a bank of the flash, for an `fw write` line (R312, R478). -/
structure FwJob where
  ctx    : LineCtx
  bank   : Bool
  bundle : List Byte
  deriving DecidableEq, Repr

/-- An `attest` line waiting for its report (R310). -/
structure AttestJob where
  ctx   : LineCtx
  nonce : List Byte
  deriving DecidableEq, Repr

/-- The device as a whole (R300, R302, R416, R419, R463, R467 to R477). `resets` holds the asserted reset sources, `stage`
is 0 while none has begun; `dead` says that a device fault has left the management core unable to run its handler (R454);
`resetIn` holds the transport of each `reset` line whose reset is still to come, with the bytes of it up to the end of the reply
that have not left yet (R317); `ephem` is the unused ephemeral key with
the hash of its report; the kept items of R468 come last. -/
structure Device where
  resets  : List RstSource := []
  stage   : Nat := 1
  ready   : Bool := false
  bootErr : Nat := 0
  beChan  : Nat := 0
  dfault  : Option Nat := none
  dead    : Bool := false
  rack    : Option Nat := none
  temps   : List (Option Int) := List.replicate 9 none
  ephem   : Option (Nat × List Byte) := none
  attests : List AttestJob := []
  resetIn : List (Bool × Nat) := []
  fw      : Option FwJob := none
  bank    : Bool := false
  memInfo : Bool := false
  memAct  : Bool := false
  drills  : List DrillJob := []
  reports : Nat := 0
  dfCount : Nat := 0
  trips   : Nat := 0
  lastDf  : Nat := 0
  jtagSeen : Bool := false
  abortN  : Nat := 0
  patrol  : Nat := 0
  deriving DecidableEq, Repr

/-- The host link (R346 to R348, R355, R373): link state, training, decoders with what the host last programmed (base, size,
interleave ways), Bus Master Enable, MSI-X with the address and data of each table entry (R518), the memory device mailbox
with its last command, return code and payload; of AER whether the host has enabled its messages, the uncorrectable error
status and the first error pointer. -/
structure HostLink where
  training : Bool := false
  dlUp    : Bool := false
  width   : Nat := 0
  rate    : Nat := 0
  cxl     : Bool := false
  bme     : Bool := false
  msixEn  : Bool := false
  masks   : List Bool := List.replicate 32 true
  table   : List (BitVec 64 × Word) := List.replicate 32 (0, 0)
  pend    : List Bool := List.replicate 32 false
  hdm     : Option Nat := none
  hdmErr  : Bool := false
  hdmSet  : Nat × Nat × Nat := (0, 0, 1)
  biEn    : Bool := false
  biSent  : List Nat := []
  viralEn : Bool := false
  mbox    : Option (Nat × Nat × List Byte) := none
  aerEn   : Bool := false
  aerUnc  : Word := 0
  aerPtr  : Nat := 0
  deriving DecidableEq, Repr

/-- An IDE stream slot (R353, R424, R425): secure, the generation of a locked slot, the keys of its two key sets by
direction and sub-stream, the key set in use, failures. -/
structure IdeSlot where
  secure : Bool := false
  gen    : Nat := 0
  keys   : List (Nat × List Byte) := []
  cur    : Bool := false
  fails  : Nat := 0
  deriving DecidableEq, Repr

/-- The SPDM responder (R426): how far negotiation has come, the sessions (0 free, 1 handshake, 2 established) with their
secrets and key-update count. -/
structure Spdm where
  version : Bool := false
  caps    : Bool := false
  algs    : Bool := false
  sess    : List Nat := [0, 0]
  secrets : List (List Byte) := [[], []]
  updates : List Nat := [0, 0]
  deriving DecidableEq, Repr

/-- A cage: whether a module is in it, whether that is a passive copper cable, whether its supply has tripped (R495, R498).
-/
structure Cage where
  present : Bool := false
  copper  : Bool := true
  tripped : Bool := false
  deriving DecidableEq, Repr

/-- The states of the TAP controller of IEEE 1149.1 (R500). -/
inductive TapState where
  | testLogicReset | runTestIdle
  | selectDr | captureDr | shiftDr | exit1Dr | pauseDr | exit2Dr | updateDr
  | selectIr | captureIr | shiftIr | exit1Ir | pauseIr | exit2Ir | updateIr
  deriving DecidableEq, Repr

/-- The TAP (R500): its state, its current instruction, none in Test-Logic-Reset, the bypass register, the shift stage of the
boundary register and the cells that it has loaded, the shift stage of the instruction register; a shift stage is written with
the bit next to TDO first. -/
structure Tap where
  st   : TapState := .testLogicReset
  ir   : Option TapIr := none
  byp  : Bool := false
  bsr  : List Bool := []
  load : List Bool := []
  irSh : List Bool := []
  deriving DecidableEq, Repr

/-- The tray board (R464, R489 to R500): the input voltage in mV, whether the input is in range, how many rails of R464 are
good (those before the first that is not), an overvoltage off, a rail fault, the trip since the input was applied, the wiring,
whether each connector's PERST_N is low or not driven, whether the host's REFCLK is there and whether the link runs in SRIS
mode, whether the host link has reached DL_Up since power-on (R467), the cages, the TAP. -/
structure Board where
  mv       : Nat := 54000
  inRange  : Bool := true
  rails    : Nat := 8
  overVolt : Bool := false
  railFlt  : Option Nat := none
  tripSeen : Bool := false
  wiring   : Wiring := {}
  perstA   : Bool := false
  perstB   : Bool := false
  refclk   : Bool := true
  sris     : Bool := false
  linkSeen : Bool := false
  cages    : List Cage := List.replicate 8 {}
  tap      : Tap := {}
  deriving DecidableEq, Repr

/-! ## What leaves the device -/

/-- An SPDM response by its content (R426 to R428). -/
inductive SpdmRsp where
  | version
  | capabilities
  | algorithms
  | digests (d : List Byte)
  | certificate (b : List Byte)
  | challengeAuth (sig : List Byte)
  | measurements (blocks : List (Nat × List Byte)) (sig : List Byte)
  | keyExchange (sess : Nat) (pub sig : List Byte)
  | finish
  | heartbeatAck
  | keyUpdateAck
  | endSessionAck
  | ideKm (ok : Bool)
  | unsupported (code : Nat)
  | invalid
  deriving DecidableEq, Repr

/-- One thing the device sends: to host memory, as an interrupt, as the answer to a host access (one with poison has no
bytes that mean anything, and lists none), on the UART, on a rally port, as a back-invalidation, as an SPDM or mailbox
response, as the viral indication, as an error message of AER with the bit of its status register, as a bit on the TAP's TDO. -/
inductive Output where
  | hostWrite (addr : Nat) (data : List Byte)
  | hostRead (part job addr len : Nat)
  | msix (v : Nat) (entry : BitVec 64 × Word)
  | data (b : List Byte) (poison : Bool)
  | noMemory
  | uart (b : List Byte)
  | frame (x : Nat) (f : Frame)
  | biSnp (da : Nat)
  | spdm (r : SpdmRsp)
  | mailbox (code : Nat) (b : List Byte)
  | viral
  | errMsg (bit : Nat)
  | tdo (bit : Bool)
  deriving DecidableEq, Repr

/-- The whole state. `free` is the model's own counter behind every free value (assumption 2, DESIGN CHOICE); `undo` is the
model's own too, what the long words in flight have written, oldest first (assumption 8, DESIGN CHOICE); `out` is what the
device has sent, oldest first; `pending` is the queue of commands. -/
structure State where
  pending : List Instr := []
  free    : Nat := 0
  undo    : List Undo := []
  out     : List Output := []
  fuses   : Fuses
  flash   : List Bank
  running : Bank
  dev     : Device := {}
  windows : List Window := List.replicate 9 {}
  uart    : Uart := {}
  parts   : List Partition := List.replicate 8 {}
  courts  : List CourtSt := List.replicate 8 {}
  cl      : List Cluster := List.replicate 96 {}
  chans   : List Channel := List.replicate 16 {}
  ports   : List Port := List.replicate 8 {}
  dram    : Mem := []
  poison  : List (Nat × Option Cause) := []
  ide     : List IdeSlot := List.replicate 9 {}
  host    : HostLink := {}
  spdm    : Spdm := {}
  board   : Board := {}
  deriving DecidableEq, Repr

/-- The fuses of a part as delivered: grade -175, debug fuse closed, JTAG fused off (R499), the other values the model's
(assumption 6, DESIGN CHOICE). -/
def Fuses.shipped : Fuses :=
  { fwKey := List.replicate 48 0, grade := 0, debug := false, jtag := false, rev := 0, cohort := 0, minSec := 0, raises := 0 }

/-- A bank as delivered (assumption 6, DESIGN CHOICE). -/
def Bank.shipped (next : Bool) : Bank := { valid := true, next := next, attempts := 0, bundle := [] }

/-- No firmware runs yet. -/
def Bank.none : Bank := { valid := false, next := false, attempts := 0, bundle := [] }

/-- The machine right after reset (R7, R465, R467): power-on reset has just been released, boot stands at stage 1. -/
def State.reset : State :=
  { fuses := Fuses.shipped, flash := [Bank.shipped true, Bank.shipped false], running := Bank.none }

end Sys2Proof.Machine
end

