-- ==== Sys2Proof/Machine/Verifier.lean ====
section
/-! DEFINITION. The verifier of `load` (R237 to R241, R248, R249, R172, R200): the image header, the digest, the descriptor
table and the streams of an image held as bytes. -/

namespace Sys2Proof.Machine

/-- Image slot memory: 64 MiB at the top of the partition's PA space (R242). -/
def slotBytes : Nat := 32 * 2 ^ 20
def slotBase (n : Nat) : Nat := 3 * n * 2 ^ 30 - 2 * slotBytes

/-- The header fields of R238. -/
structure ImgHdr where
  strict : Bool
  debug  : Bool
  reqcl  : Nat
  len    : Nat
  stoff  : Nat
  dtoff  : Nat
  dcount : Nat
  deriving DecidableEq, Repr

/-- A byte reader for an image. -/
abbrev ImgRd := Nat → Nat

def rd16 (rd : ImgRd) (o : Nat) : Nat := rd o + 256 * rd (o + 1)
def rd32 (rd : ImgRd) (o : Nat) : Nat := rd16 rd o + 65536 * rd16 rd (o + 2)

def ImgHdr.parse (rd : ImgRd) : ImgHdr :=
  { strict := rd 6 == 1, debug := bit (rd 7) 0, reqcl := rd16 rd 8, len := rd32 rd 12, stoff := rd32 rd 16,
    dtoff := rd32 rd 20, dcount := rd16 rd 24 }

/-- Entry i of the stream table: offset and length (R239). -/
def ImgHdr.stream (h : ImgHdr) (rd : ImgRd) (i : Nat) : Nat × Nat :=
  (rd32 rd (h.stoff + 8 * i), rd32 rd (h.stoff + 8 * i + 4))

/-- Descriptor N of the table (R240). -/
def ImgHdr.desc (h : ImgHdr) (rd : ImgRd) (k : Nat) : Desc :=
  Desc.parse ((List.range 64).map fun j => byteOf (rd (h.dtoff + 64 * k + j)))

/-- Where a verification failure is reported (R248). -/
inductive VAt where
  | header (b : Nat)
  | desc (k : Nat)
  | stream (i o : Nat)
  deriving DecidableEq, Repr

/-- Two half-open ranges meet. -/
def meets (a b c d : Nat) : Bool := decide (a < d) && decide (c < b)

/-- The lowest number of a list. -/
def lowest : List Nat → Option Nat
  | [] => none
  | a :: r => match lowest r with | none => some a | some b => some (min a b)

/-- R249 checks 0x01 to 0x08, in code order: the failing code and the offset of the failing field. Under check 0x03 each byte
that R238 does not list is a field of its own (assumption 14, DEDUCED). -/
def hdrCheck (rd : ImgRd) (n lenArg : Nat) : Option (Nat × Nat) :=
  let h := ImgHdr.parse rd
  let unlisted := (List.range 256).filter fun b =>
    (b == 10 || b == 11 || (26 ≤ b && b < 64) || (192 ≤ b && b < 208)) && rd b != 0
  let stEnd := h.stoff + 40 * h.reqcl
  let dtEnd := h.dtoff + 64 * h.dcount
  let f06 := failing [(16, h.stoff % 64 == 0 && decide (h.stoff ≥ 256) && decide (stEnd ≤ h.len)),
    (16, h.dcount == 0 || !meets h.dtoff dtEnd h.stoff stEnd),
    (20, if h.dcount = 0 then h.dtoff == 0
      else h.dtoff % 64 == 0 && decide (h.dtoff ≥ 256) && decide (dtEnd ≤ h.len) && !meets h.dtoff dtEnd h.stoff stEnd),
    (24, decide (h.dcount ≤ 256))]
  let ents := (List.range (5 * h.reqcl)).map (h.stream rd)
  let entBad (e : Nat × Nat) : Bool :=
    e.1 % 4 != 0 || e.2 % 4 != 0 || decide (e.2 < 4) || decide (e.1 + e.2 > h.len) || decide (e.1 < 256) ||
    meets e.1 (e.1 + e.2) h.stoff stEnd || (h.dcount != 0 && meets e.1 (e.1 + e.2) h.dtoff dtEnd) ||
    ents.any fun g => g != e && g.2 != 0 && meets e.1 (e.1 + e.2) g.1 (g.1 + g.2)
  let nameOk (i : Nat) : Bool :=
    let bs := (List.range 8).map fun j => rd (64 + 8 * i + j)
    let k := (bs.findIdx? (· == 0)).getD 8
    (bs.take k).all (fun b => 0x21 ≤ b && b ≤ 0x7E) && (bs.drop k).all (· == 0)
  if rd 0 != 0x45 || rd 1 != 0x4D || rd 2 != 0x58 || rd 3 != 0x49 then some (0x01, 0)
  else if rd16 rd 4 != 0x0100 then some (0x02, 4)
  else match lowest (failing [(6, decide (rd 6 ≤ 1)), (7, decide (rd 7 ≤ 1))] ++ unlisted) with
  | some b => some (0x03, b)
  | none =>
  if h.reqcl != 12 * n then some (0x04, 8)
  else if h.len != lenArg || h.len % 64 != 0 || h.len > slotBytes then some (0x05, 12)
  else match lowest f06 with
  | some b => some (0x06, b)
  | none =>
  match ents.findIdx? entBad with
  | some i => some (0x07, h.stoff + 8 * i)
  | none => ((List.range 16).find? fun i => !nameOk i).map fun i => (0x08, 64 + 8 * i)

/-- One long word of a stream: its stream-table index, its offset in the stream, and whether it runs past the end. -/
structure SLw where
  i    : Nat
  off  : Nat
  w    : LW
  op   : Option Op
  past : Bool
  deriving DecidableEq, Repr

/-- The long words of one stream (fuel bounds their number). -/
def streamLws (rd : ImgRd) (i base len : Nat) : Nat → Nat → List SLw
  | 0, _ => []
  | f + 1, off =>
    if off ≥ len then []
    else
      let w := LW.parse (rd32 rd) (base + off)
      let past := decide (off + w.len > len)
      ⟨i, off, w, Op.decode (i % 5) w.code, past⟩ :: (if past then [] else streamLws rd i base len f (off + w.len))

/-- A loop body: its LOOP, its first byte and its end (R190). -/
structure Body where
  loop  : Nat
  lc    : Nat
  start : Nat
  stop  : Nat
  deriving DecidableEq, Repr

/-- The innermost body holding an offset. -/
def innermost (bs : List Body) (p : Nat) : Option Body :=
  (bs.filter fun b => decide (b.start ≤ p) && decide (p < b.stop)).foldl
    (fun a b => match a with | none => some b | some c => if c.start ≤ b.start then some b else some c) none

/-- R249 checks 0x40 to 0x43 of one stream: (offset, code) for every long word that takes part in a breach. The LOOPs whose
bodies hold a LOOP take part in its breaches with it (R248); of a breach of 0x43 by a last long word that lies in a loop body,
only that long word is taken to be part (assumption 14, DEDUCED). -/
def structChecks (ws : List SLw) (len : Nat) : List (Nat × Nat) :=
  let starts := ws.map (·.off)
  let bodyOf (q : SLw) : Body := ⟨q.off, q.w.f 0 31 30, q.off + q.w.len, q.off + q.w.len + 4 * q.w.f 1 17 0⟩
  let bodyOk (b : Body) : Bool :=
    decide (b.start < b.stop) && decide (b.stop ≤ len) && (b.stop == len || starts.contains b.stop)
  let loops := ws.filter fun q => q.op == some .loop && !q.past
  let bodies := loops.map bodyOf
  let holders (p : Nat) := bodies.filter fun b => decide (b.start ≤ p) && decide (p < b.stop)
  (loops.filterMap fun q => if bodyOk (bodyOf q) then none else some (q.off, 0x41)) ++
  (bodies.flatMap fun b =>
    let hs := holders b.loop
    (match hs.filter fun h => decide (b.stop > h.stop) with
     | [] => [] | bad => (b :: bad).map fun h => (h.loop, 0x41)) ++
    (if hs.length ≥ 4 then (b :: hs).map fun h => (h.loop, 0x42) else []) ++
    (match hs.filter fun h => h.lc == b.lc with
     | [] => [] | bad => (b :: bad).map fun h => (h.loop, 0x42))) ++
  (ws.flatMap fun q =>
    if q.op == some .br && !q.past then
      let t := (q.off : Int) + q.w.brOff
      if t < 0 ∨ !starts.contains t.toNat then [(q.off, 0x40)]
      else if innermost bodies q.off == innermost bodies t.toNat then []
      else [(q.off, 0x41), (t.toNat, 0x41)]
    else []) ++
  (match ws.getLast? with
   | some q =>
     if q.past then []
     else if (q.op == some .fin || (q.op == some .br && q.w.b 0 31)) && (innermost bodies q.off).isNone then []
     else [(q.off, 0x43)]
   | none => [])

/-- The table descriptor an operand names, where the table has it. -/
def tableDesc (ds : List Desc) (w : LW) (q : Opnd) : Option Desc :=
  let d := w.dref q
  if d.ind then none else ds[d.didx]?

/-- That descriptor where it has the SPACE the operand accepts. -/
def spaceDesc (ds : List Desc) (w : LW) (q : Opnd) : Option Desc := (tableDesc ds w q).filter fun x => x.space == q.space

/-- The cluster whose scoreboard a declaration names: the own one, or that of a remote operand of the table (R160). -/
def declOwner (ds : List Desc) (o : Op) (w : LW) (c k : Nat) : Option Nat :=
  match o.opnds.find? fun q => q.decl == k && q.space == 2 with
  | some q => (spaceDesc ds w q).map (·.rclus)
  | none => some c

/-- One declaration with its accessor (stream-table index) and the cluster whose regions it names. -/
structure DeclUse where
  acc   : Nat
  off   : Nat
  owner : Nat
  write : Bool
  d     : Decl
  deriving DecidableEq, Repr

/-- The declarations of a long word that take part in the rules of R172. -/
def declUses (ds : List Desc) (q : SLw) : List DeclUse :=
  match q.op with
  | none => []
  | some o =>
    if q.past then []
    else (List.range 3).filterMap fun j =>
      let k := j + 10
      match q.w.decl k, declOwner ds o q.w (q.i / 5) k with
      | some d, some g =>
        if bit o.accepts k && d.first ≤ d.last && (if k = 12 then d.mode ≤ 1 else d.mode != 3) then
          some ⟨q.i, q.off, g, k == 12, d⟩
        else none
      | _, _ => none

/-- Two declarations name a common region of one cluster. -/
def DeclUse.meets (a b : DeclUse) : Bool :=
  a.owner == b.owner && decide (a.d.first ≤ b.d.last) && decide (b.d.first ≤ a.d.last)

/-- R158: the declarations of one long word overlap only as READ with UPDATE. -/
def overlapOk : List DeclUse → Bool
  | [] => true
  | a :: r => overlapOk r && r.all fun b => !a.meets b ||
    (a.write && !b.write && a.d.mode == 1 && b.d.mode == 0) || (b.write && !a.write && b.d.mode == 1 && a.d.mode == 0)

/-- A READ, CONSUME or UPDATE; a CONSUME or UPDATE; a FILL. -/
def DeclUse.uses (a : DeclUse) : Bool := if a.write then a.d.mode == 1 else a.d.mode ≤ 1
def DeclUse.takes (a : DeclUse) : Bool := a.d.mode == 1
def DeclUse.fills (a : DeclUse) : Bool := a.write && a.d.mode == 0

/-- R172 rules 0x34 and 0x35 for one declaration against all of its cluster. -/
def regionRules (all : List DeclUse) (a : DeclUse) : List Nat :=
  let others := all.filter fun b => b.acc != a.acc && a.meets b
  failing [(0x34, !(a.fills && others.any DeclUse.fills)),
    (0x35, !(a.uses && others.any fun b => b.uses && all.any fun c => c.takes && c.uses && c.owner == a.owner &&
      decide (max (max a.d.first b.d.first) c.d.first ≤ min (min a.d.last b.d.last) c.d.last)))]

/-- R200, R172 and R137 for one long word alone. -/
def lwChecks (h : ImgHdr) (ds : List Desc) (n : Nat) (q : SLw) : List Nat :=
  let c := q.i / 5
  match q.op with
  | none => 0x10 :: failing [(0x11, q.w.hdrRes == 0), (0x15, !q.past)]
  | some o =>
    let all := fieldChecks h.strict h.debug o q.w n
    if q.past then 0x15 :: all.filter fun x => x == 0x10 || x == 0x11 || x == 0x12 || x == 0x14
    else
      let opds := o.opnds.map (tableDesc ds q.w)
      all ++
      (o.opnds.flatMap fun p => failing [(0x19, (q.w.dref p).ind || (spaceDesc ds q.w p).isSome)]) ++
      ((o.opnds.zip opds).flatMap fun p => match p.2 with
        | none => []
        | some x =>
          failing [(0x29, x.remoteOk n c), (0x2B, !p.1.dest || x.stridesOk),
            (0x2D, match q.w.decl p.1.decl with
              | some d => x.space != 1 || x.within x.base d.first d.last | none => true),
            (0x39, match q.w.decl p.1.decl with
              | some d => x.space != 2 || x.within x.base d.first d.last | none => true),
            (0x45, o != .stt || !p.1.dest || (x.footprint x.base).all fun r =>
              !meets r.1 (r.2 + 1) (slotBase n) (3 * n * 2 ^ 30))]) ++
      shapeChecks h.strict o q.w n c opds ++
      failing [(0x33, overlapOk (declUses ds q))]

/-- R172 rules 0x34 to 0x38 and R249 checks 0x40 to 0x43, which span long words. -/
def spanChecks (h : ImgHdr) (ds : List Desc) (all : List SLw) (lens : Nat → Nat) (q : SLw) : List Nat :=
  let c := q.i / 5
  let mine := all.filter fun p => p.i / 5 == c
  let us := declUses ds q
  let near := if us.isEmpty then [] else all.flatMap (declUses ds)
  let waits (p : SLw) : Option Nat :=
    match p.op with
    | some o => if !p.past && bit o.accepts 13 && p.w.has 13 && p.w.b 13 31 then some (p.w.f 13 30 25) else none
    | none => none
  let brQ (p : SLw) : Option Nat := if p.op == some .br && !p.past && !p.w.b 0 31 then some (p.w.f 0 29 27) else none
  let qcmpK (p : SLw) : Option Nat := if p.op == some .qcmp && !p.past then some (p.w.f 0 31 29) else none
  let badPair (b k : SLw) : Bool :=
    (brQ b).isSome && brQ b == qcmpK k && (k.i != b.i || !(k.w.f 0 26 24 ≤ 1 || k.w.f 0 26 24 == 4))
  (us.flatMap (regionRules near)) ++
  failing [(0x36, (waits q).isNone || !mine.any fun p => p.i != q.i && waits p == waits q),
    (0x38, h.debug || !mine.any fun p => badPair q p || badPair p q)] ++
  ((structChecks (all.filter fun p => p.i == q.i) (lens q.i)).filterMap fun p => if p.1 == q.off then some p.2 else none)

/-- The table indices that every long word naming them names as the destination of a PUT (R137). -/
def putOnly (all : List SLw) (k : Nat) : Bool :=
  all.all fun q => match q.op with
    | some o => q.past || o.opnds.all fun p =>
        let d := q.w.dref p
        d.ind || d.didx != k || p.table
    | none => true

/-- R248: the first failure of an image for a partition of n courts, none where it passes. -/
def verifyImage (bytes : List Byte) (n lenArg : Nat) : Option (VAt × Nat) :=
  let arr := bytes.toArray
  let rd : ImgRd := fun o => (arr.getD o 0).toNat
  match hdrCheck rd n lenArg with
  | some (code, b) => some (.header b, code)
  | none =>
    let h := ImgHdr.parse rd
    if sha384 ((bytes.take h.len).drop 256) ≠ (bytes.drop 208).take 48 then some (.header 208, 0x09)
    else
      let all := (List.range (5 * h.reqcl)).flatMap fun i =>
        let e := h.stream rd i
        streamLws rd i e.1 e.2 (e.2 / 4 + 1) 0
      let ds := (List.range h.dcount).map (h.desc rd)
      match ((List.range h.dcount).filterMap fun k =>
          let x := tget (Desc.parse []) ds k
          (lowest (x.ownChecks n (putOnly all k) x.base)).map fun c => (VAt.desc k, c)).head? with
      | some r => some r
      | none =>
        (all.findSome? fun q =>
          (lowest (lwChecks h ds n q ++ spanChecks h ds all (fun i => (h.stream rd i).2) q)).map fun c =>
            (VAt.stream q.i q.off, c))

end Sys2Proof.Machine
end

