-- ==== Sys2Proof/Machine/Ops.lean ====
section
/-! DEFINITION. The shared operations on the state: reading and changing one numbered item, sending, interrupts, window
lines, addresses, device memory with its poison marks, and back-invalidation. -/

namespace Sys2Proof.Machine

/-! ## Numbered items -/

def State.part (s : State) (p : Nat) : Partition := tget {} s.parts p
def State.win (s : State) (w : Nat) : Window := tget {} s.windows w
def State.court (s : State) (c : Nat) : CourtSt := tget {} s.courts c
def State.clu (s : State) (g : Nat) : Cluster := tget {} s.cl g
def State.chan (s : State) (m : Nat) : Channel := tget {} s.chans m
def State.port (s : State) (x : Nat) : Port := tget {} s.ports x
def State.ideSlot (s : State) (k : Nat) : IdeSlot := tget {} s.ide k
def Cluster.str (k : Cluster) (st : Nat) : StreamSt := tget {} k.streams st
def State.str (s : State) (g st : Nat) : StreamSt := (s.clu g).str st

def State.updPart (s : State) (p : Nat) (f : Partition → Partition) : State := { s with parts := s.parts.modify p f }
def State.updWin (s : State) (w : Nat) (f : Window → Window) : State := { s with windows := s.windows.modify w f }
def State.updCourt (s : State) (c : Nat) (f : CourtSt → CourtSt) : State := { s with courts := s.courts.modify c f }
def State.updClu (s : State) (g : Nat) (f : Cluster → Cluster) : State := { s with cl := s.cl.modify g f }
def State.updChan (s : State) (m : Nat) (f : Channel → Channel) : State := { s with chans := s.chans.modify m f }
def State.updPort (s : State) (x : Nat) (f : Port → Port) : State := { s with ports := s.ports.modify x f }
def State.updIde (s : State) (k : Nat) (f : IdeSlot → IdeSlot) : State := { s with ide := s.ide.modify k f }
def State.updDev (s : State) (f : Device → Device) : State := { s with dev := f s.dev }
def State.updHost (s : State) (f : HostLink → HostLink) : State := { s with host := f s.host }
def State.updUart (s : State) (f : Uart → Uart) : State := { s with uart := f s.uart }
def State.updBoard (s : State) (f : Board → Board) : State := { s with board := f s.board }
def Cluster.updStr (k : Cluster) (st : Nat) (f : StreamSt → StreamSt) : Cluster :=
  { k with streams := k.streams.modify st f }
def State.updStr (s : State) (g st : Nat) (f : StreamSt → StreamSt) : State := s.updClu g fun k => k.updStr st f

/-- One thing sent. -/
def State.send (s : State) (o : Output) : State := { s with out := s.out ++ [o] }

/-- The next free value is another one. -/
def State.fresh (s : State) : State := { s with free := s.free + 1 }

/-- Time passes for the timers and counters of a cluster that run: by how much is free (R169, R170, assumption 2, DESIGN
CHOICE). -/
def State.passTime (s : State) (g : Nat) : State :=
  let step (i : Nat) : Nat := Config.elapsed (s.free + i)
  { s.updClu g fun k => { k with
      w := k.w.zipIdx.map fun t => if t.1.run then
        { t.1 with v := BitVec.ofNat 32 (satAdd 0xFFFFFFFF t.1.v.toNat (step t.2)) } else t.1
      e := k.e.zipIdx.map fun c => match c.1.mode with
        | .cycles | .stall _ | .bank => { c.1 with v := c.1.v + BitVec.ofNat 32 (step (4 + c.2)) }
        | _ => c.1 } with free := s.free + 12 }

/-- EXTEST is selected: the pins follow the boundary register (R500). -/
def State.extest (s : State) : Bool := s.board.tap.ir == some .extest

/-- Every rail of R464 is good. -/
def Board.railsGood (b : Board) : Bool := b.rails == 8

/-! ## States of R300 and R408 -/

/-- A launch report still waits to be written (R257). -/
def Partition.reporting (q : Partition) : Bool := q.reports.any fun r => !bit r.flags 1

/-- The state code of R408. -/
def Partition.state (q : Partition) : Nat :=
  match q.stat with
  | .free => 0
  | .faulted => 4
  | .resetting => 5
  | .up =>
    if q.run.isSome || !q.queue.isEmpty || q.reporting then 3
    else if q.slots.any fun t => t.st != .empty then 2 else 1

/-- A launch is stopped at a break (R263). -/
def Partition.isStopped (q : Partition) : Bool :=
  match q.run with
  | some r => (match r.stop with | .stopped _ => true | _ => false)
  | none => false

/-- The window of a partition is locked (R294). -/
def Partition.locked (q : Partition) : Bool := q.session.isSome

/-- The slot named by a bank letter. -/
def Partition.slot (q : Partition) (b : Bool) : Slot := tget {} q.slots (b2n b)

/-- The grade maximum in MHz (R35). -/
def State.gradeMax (s : State) : Nat := if s.fuses.grade = 1 then 1500 else 1750

/-- The partition that holds a court (R29). -/
def State.owner (s : State) (c : Nat) : Option Nat := s.parts.findIdx? fun q => q.courts.contains c

/-- The clock of a court's clusters in MHz: that of its partition, the grade maximum while it is FREE (R35, R305, R477). -/
def State.courtMhz (s : State) (c : Nat) : Nat :=
  match s.owner c with | some p => (s.part p).mhz | none => s.gradeMax

/-- The partition of a cluster. -/
def State.ownerG (s : State) (g : Nat) : Option Nat := s.owner (g / 12)

/-- The partition-relative number of a cluster (R10). -/
def Partition.rel (q : Partition) (g : Nat) : Nat := 12 * ((q.courts.idxOf? (g / 12)).getD 0) + g % 12

/-- The global number of a partition-relative cluster (R10). -/
def Partition.glob (q : Partition) (c : Nat) : Nat := 12 * tget 0 q.courts (c / 12) + c % 12

/-- The clusters of a partition, in partition-relative order. -/
def Partition.clusters (q : Partition) : List Nat := (List.range (12 * q.courts.length)).map q.glob

/-! ## MSI-X (R373) -/

/-- A cause of a vector arises. -/
def State.msix (s : State) (v : Nat) : State :=
  if !s.host.msixEn then s
  else if tget true s.host.masks v || !s.host.bme then s.updHost fun h => { h with pend := h.pend.set v true }
  else s.send (.msix v (tget (0, 0) s.host.table v))

/-! ## Lines of windows (R279 to R283, R296) -/

def sp : List Byte := asc " "

/-- The tag token of a line, where it has a tag. -/
def tagTok (l : LineCtx) : List (List Byte) := match l.tag with | some t => [asc "@" ++ dec t] | none => []

def okLine (l : LineCtx) (keys : List (List Byte)) : List Byte := joinWith sp ([asc "ok"] ++ tagTok l ++ keys)
def noLine (l : LineCtx) (why : String) (keys : List (List Byte) := []) : List Byte :=
  joinWith sp ([asc "no"] ++ tagTok l ++ [asc "why=" ++ asc why] ++ keys)
def dataLine (l : LineCtx) (keys : List (List Byte)) : List Byte := joinWith sp ([asc "="] ++ tagTok l ++ keys)
def evLine (l : LineCtx) (keys : List (List Byte)) : List Byte := joinWith sp ([asc "ev"] ++ tagTok l ++ keys)

/-- `key=value`. -/
def kv (k : String) (v : List Byte) : List Byte := asc k ++ asc "=" ++ v
def kn (k : String) (v : Nat) : List Byte := kv k (dec v)
def kb (k : String) (v : Bool) : List Byte := kn k (b2n v)

/-- `pN`, `cN`, `xN`. -/
def nameN (t : String) (n : Nat) : List Byte := asc t ++ dec n

/-- Bytes on CMD_TXD; none leave while EXTEST drives the pin (R500). -/
def State.txd (s : State) (b : List Byte) : State := if s.extest then s else s.send (.uart b)

/-- Bytes to the UART: sent while CMD_RTS_N is asserted, else kept in the transmit buffer, or lost when it lacks room
(R274, R283). -/
def State.uartSend (s : State) (b : List Byte) : State :=
  if s.uart.rts && s.uart.tx.isEmpty then s.txd b
  else if s.uart.tx.length + b.length ≤ 4096 then s.updUart fun u => { u with tx := u.tx ++ b }
  else s.updUart fun u => { u with lost := u.lost + 1 }

/-- Echoed bytes on the UART: lost without a count where the buffer lacks room, as they are no line (R283, R285; assumption
13, DESIGN CHOICE). -/
def State.uartEcho (s : State) (b : List Byte) : State :=
  if s.uart.rts && s.uart.tx.isEmpty then s.txd b
  else if s.uart.tx.length + b.length ≤ 4096 then s.updUart fun u => { u with tx := u.tx ++ b }
  else s

/-- Bytes into a window's reply buffer with vector 17 + w on the passage from empty, or counted as lost (R269, R283,
R373, R507). -/
def State.replyPut (s : State) (w : Nat) (b : List Byte) : State :=
  let q := s.win w
  if q.reply.length + b.length ≤ 4096 then
    let s := s.updWin w fun q => { q with reply := q.reply ++ b }
    if q.rie && q.reply.isEmpty then s.msix (17 + w) else s
  else s.updWin w fun q => { q with lost := q.lost + 1 }

/-- The MAC suffix of a line from a locked window (R296, R422). -/
def macSuffix (key : List Byte) (seq : Nat) (line : List Byte) : List Byte :=
  asc " ~" ++ hexBytes ((hmac384 key (leBytes 8 seq ++ line)).take 8)

/-- The session of a locked window; w8 has none (R294). -/
def State.winKey (s : State) (w : Nat) : Option Session := if w < 8 then (s.part w).session else none

/-- A line as window w writes it: with its MAC where the window is locked (R296, R422). -/
def State.signedLine (s : State) (w : Nat) (line : List Byte) : List Byte :=
  match s.winKey w with
  | some k => line ++ macSuffix k.kOut (s.part w).txSeq line
  | none => line

/-- The reply sequence number of a locked window after one line (R296). -/
def State.countLine (s : State) (w : Nat) : State :=
  if (s.winKey w).isSome then s.updPart w fun q => { q with txSeq := q.txSeq + 1 } else s

/-- The prefix of a partition window's line on the UART (R281). -/
def uartPrefix (w : Nat) : List Byte := if w < 8 then nameN "p" w ++ asc ":" else []

/-- A line goes to its transport, with its LF (R281, R283). -/
def State.deliver (s : State) (w : Nat) (uart : Bool) (line : List Byte) : State :=
  if uart then s.uartSend (uartPrefix w ++ line ++ [0x0A#8]) else s.replyPut w (line ++ [0x0A#8])

/-- A line written by window w towards a transport (R281, R283, R296). -/
def State.emit (s : State) (w : Nat) (uart : Bool) (line : List Byte) : State :=
  (s.countLine w).deliver w uart (s.signedLine w line)

/-- The reply to a line. -/
def State.reply (s : State) (w : Nat) (l : LineCtx) (line : List Byte) : State := s.emit w l.uart line
def State.ok (s : State) (w : Nat) (l : LineCtx) (keys : List (List Byte) := []) : State := s.reply w l (okLine l keys)
def State.no (s : State) (w : Nat) (l : LineCtx) (why : String) (keys : List (List Byte) := []) : State :=
  s.reply w l (noLine l why keys)

/-- A multi-line reply (R279, R280). -/
def State.replies (s : State) (w : Nat) (l : LineCtx) (data : List (List (List Byte))) (last : List (List Byte)) : State :=
  (data.foldl (fun s d => s.reply w l (dataLine l d)) s).ok w l last

/-- An event of w8 that no line caused: to w8's reply buffer and the UART, with vector 0 (R281, R373). -/
def State.event (s : State) (line : List Byte) : State := ((s.emit 8 false line).emit 8 true line).msix 0

/-- An uncorrectable error of the host link with a bit of AER's status register is logged, the first of those that stand with
the pointer, and a message is sent where the host has enabled it (R346; bits PRESUMED from PCIe 6.0; assumption 29). -/
def State.aer (s : State) (b : Nat) : State :=
  let t := s.updHost fun h => { h with
    aerUnc := h.aerUnc ||| BitVec.ofNat 32 (2 ^ b), aerPtr := if h.aerUnc = 0 then b else h.aerPtr }
  if s.host.aerEn then t.send (.errMsg b) else t

/-- The bits of AER's uncorrectable error status for a poisoned TLP received, a completion timeout, an IDE check that failed. -/
def aerPoison : Nat := 12
def aerTimeout : Nat := 14
def aerIde : Nat := 28

/-- The reasons of R284. -/
inductive Why where
  | malformed | tooLong | badChar | unknownVerb | wrongWindow | unknownKey | dupKey | badValue | missing
  | state | debug | conflict | badMac | strayMac | pfx | overrun
  deriving DecidableEq, Repr

/-- The code of a reason (R284). -/
def Why.code : Why → Nat
  | .malformed => 1 | .tooLong => 2 | .badChar => 3 | .unknownVerb => 4 | .wrongWindow => 5 | .unknownKey => 6
  | .dupKey => 7 | .badValue => 8 | .missing => 9 | .state => 10 | .debug => 11 | .conflict => 12 | .badMac => 13
  | .strayMac => 14 | .pfx => 15 | .overrun => 16

/-- A line is ignored: counted, its reason kept, `? n` sent when echo is on (R284, R285). -/
def State.ignore (s : State) (w : Nat) (l : LineCtx) (why : Why) : State :=
  let s := s.updWin w fun q => { q with ign := satAdd 0xFFFFFFFF q.ign 1, ignWhy := why.code }
  if l.uart && s.uart.echo then s.uartSend (asc "? " ++ dec l.num ++ [0x0A#8]) else s

/-! ## Addresses (R39 to R45, R242) -/

/-- Bytes of a court's memory. -/
def courtBytes : Nat := 0xC0000000

/-- Device-wide channel of a device address (R40). -/
def chanOf (da : Nat) : Nat := 2 * (da / courtBytes) + (da % courtBytes / 256) % 2

/-- Bytes of a partition's address space. -/
def Partition.size (q : Partition) : Nat := q.courts.length * courtBytes

/-- First byte of image slot memory (R242). -/
def Partition.slotLo (q : Partition) : Nat := q.size - 2 ^ 26

/-- First byte of an image slot (R242). -/
def Partition.slotPa (q : Partition) (b : Bool) : Nat := q.slotLo + b2n b * 2 ^ 25

/-- The device address of a partition address (R42, R43). -/
def Partition.da (q : Partition) (pa : Nat) : Nat :=
  if q.il then
    let n2 := 2 * q.courts.length
    let b := pa / 4096
    let j := b % n2
    let ca := b / n2 * 4096 + pa % 4096
    tget 0 q.courts (j / 2) * courtBytes + (ca / 256 * 512 + j % 2 * 256 + ca % 256)
  else tget 0 q.courts (pa / courtBytes) * courtBytes + pa % courtBytes

/-- The partition address of a device address of one of its courts (inverse of R42 and R43). -/
def Partition.paOf (q : Partition) (da : Nat) : Nat :=
  let i := (q.courts.idxOf? (da / courtBytes)).getD 0
  let o := da % courtBytes
  if q.il then
    let ca := o / 512 * 256 + o % 256
    (ca / 4096 * (2 * q.courts.length) + 2 * i + o / 256 % 2) * 4096 + ca % 4096
  else i * courtBytes + o

/-- The lines of a byte range. -/
def linesOf (a len : Nat) : List Nat :=
  if len = 0 then [] else (List.range ((a + len - 1) / 64 + 1 - a / 64)).map (· + a / 64)

/-! ## Device memory (R21, R28, R341 to R343, R438, R449) -/

/-- A byte of device memory. -/
def State.rdDa (s : State) (da : Nat) : Byte := spGet 0 s.dram da

/-- A byte of a partition's memory. -/
def State.rdPa (s : State) (p pa : Nat) : Byte := s.rdDa ((s.part p).da pa)

/-- The poison mark of a line (its device address divided by 64). -/
def State.cause (s : State) (line : Nat) : Option Cause := spGet none s.poison line

/-- A memory controller enters a line in its poison table (R449). -/
def State.tableAdd (s : State) (line : Nat) : State :=
  s.updChan (chanOf (64 * line)) fun c =>
    if c.table.contains line then c else if c.table.length ≥ 256 then { c with ovf := true }
    else { c with table := insSorted line c.table }

/-- A line is marked poisoned, unless it is so already (R342, R343). -/
def State.mark (s : State) (line : Nat) (c : Cause) : State :=
  if (s.cause line).isSome then s
  else
    let s := { s with poison := spSet none s.poison line (some c) }
    if c = .held then s else s.tableAdd line

/-- A byte that a long word wrote has been written over by writes at these places: where its line was poisoned before, all of
the line has (R342). -/
def OldByte.covered (o : OldByte) (ws : List (Option Nat × Nat)) : Bool :=
  ws.contains (o.clu, o.adr) &&
  (o.mark.isNone || (List.range 64).all fun k => ws.contains (o.clu, o.adr / 64 * 64 + k))

/-- Bytes are written, in device memory or in a scratchpad, after what the long words in flight wrote there: what a fault may
yet find of that not written no longer shows (R446, assumption 8). -/
def State.land (s : State) (clu : Option Nat) (adrs : List Nat) : State :=
  { s with undo := s.undo.map fun e =>
      { e with bytes := e.bytes.filter fun o => !o.covered (adrs.map fun a => (clu, a)) } }

/-- A host write with poison marks the line as written by the host, whatever mark it had (R343). -/
def State.markHost (s : State) (line : Nat) : State :=
  { s.land none ((List.range 64).map (64 * line + ·)) with poison := spSet none s.poison line (some .host) }.tableAdd line

/-- A write of the whole line clears its mark (R342, R449). -/
def State.unmark (s : State) (line : Nat) : State :=
  { s with poison := spSet none s.poison line none }.updChan (chanOf (64 * line)) fun c =>
    { c with table := c.table.filter (· != line) }

/-- What a read of lines meets: corrected errors counted by channel and court, uncorrectable ones marked and counted once
(R341, R342, R438). -/
def State.observe (s : State) (o : HwObs) (lines : List Nat) : State :=
  let hit (l : List Nat) : List Nat := (l.map (· / 64)).filter lines.contains
  let s := (hit o.dramCe).foldl (fun s l => s.updChan (chanOf (64 * l)) fun c => { c with ce := satAdd 0xFFFFFFFF c.ce 1 }) s
  let s := (hit o.dramUe).foldl (fun s l =>
    if (s.cause l).isSome then s
    else (s.mark l .demand).updChan (chanOf (64 * l)) fun c => { c with due := satAdd 0xFFFFFFFF c.due 1 }) s
  let s := (hit o.ccCe).foldl (fun s l => s.updCourt (64 * l / courtBytes) fun c => { c with ccce := satAdd 0xFFFFFFFF c.ccce 1 }) s
  (hit o.ccUe).foldl (fun s l =>
    (s.mark l .held).updCourt (64 * l / courtBytes) fun c => { c with ccue := satAdd 0xFFFFFFFF c.ccue 1 }) s

/-- What the detectors meet in a read of lines that no command's detectors speak of is free (R341, R342, R437; assumption 2,
DESIGN CHOICE). -/
def State.freeObs (s : State) (lines : List Nat) : HwObs :=
  let at_ (f : Nat → Nat → Bool) : List Nat := (lines.filter (f s.free)).map (64 * ·)
  { dramCe := at_ Config.corrected, dramUe := at_ Config.uncorrectable }

/-- Bytes written to device memory as one operation: a poisoned line takes them only when all of it is written (R342). -/
def State.wrDa (s : State) (cells : List Host.Cell) : State :=
  if s.poison.isEmpty then
    { s.land none (cells.map (·.1)) with dram := cells.foldl (fun m c => spSet 0 m c.1 c.2) s.dram }
  else
    ((cells.map (·.1 / 64)).eraseDups).foldl (fun s line =>
      let cs := cells.filter fun c => c.1 / 64 = line
      let whole := (List.range 64).all fun k => cs.any fun c => c.1 = 64 * line + k
      if (s.cause line).isSome && !whole then s
      else
        let s := if (s.cause line).isSome then s.unmark line else s
        { s.land none (cs.map (·.1)) with dram := cs.foldl (fun m c => spSet 0 m c.1 c.2) s.dram }) s

/-- Bytes written to partition memory. -/
def State.wrPa (s : State) (p : Nat) (cells : List Host.Cell) : State :=
  let q := s.part p
  s.wrDa (cells.map fun c => (q.da c.1, c.2))

/-- Consecutive bytes as cells. -/
def cellsAt (a : Nat) (b : List Byte) : List Host.Cell := b.zipIdx.map fun p => (a + p.2, p.1)

/-- All of a court's memory becomes zero with fresh check bits (R436, R345). -/
def State.zeroCourt (s : State) (c : Nat) : State :=
  { s with
    dram := spDrop (fun a => a / courtBytes == c) s.dram
    poison := spDrop (fun l => 64 * l / courtBytes == c) s.poison
    chans := (s.chans.modify (2 * c) fun k => { k with table := [], ovf := false }).modify (2 * c + 1)
      fun k => { k with table := [], ovf := false } }

/-! ## Back-invalidation (R349 to R351) -/

/-- The lines among those given that the host may hold. -/
def State.snooped (s : State) (lines : List Nat) : List Nat :=
  if s.courts.all (fun c => c.snoop.isEmpty) then []
  else lines.filter fun l => (s.court (64 * l / courtBytes)).snoop.contains l

/-- BISnpInv is sent for lines for which it is not under way (R349). -/
def State.biAsk (s : State) (lines : List Nat) : State :=
  lines.foldl (fun s l =>
    if s.host.biSent.contains l then s
    else (s.send (.biSnp (64 * l))).updHost fun h => { h with biSent := h.biSent ++ [l] }) s

/-- Every line of some courts that the host may hold (R351). -/
def State.snoopAll (s : State) (courts : List Nat) : List Nat := courts.flatMap fun c => (s.court c).snoop

/-- A host read or write arrives on a stream in the secure state (R353). -/
def State.onStream (s : State) (sid : Sid) (k : Nat) : Bool :=
  match sid with | some j => j.val == k && (s.ideSlot k).secure | none => false

end Sys2Proof.Machine
end

