-- ==== Sys2Proof/Machine/Links.lean ====
section
/-! DEFINITION. Rally ports: frames, CRC and replay, credits, egress, training and loss of a link (R374 to R388). -/

namespace Sys2Proof

open Machine

/-- Bytes 0 to 11 of a frame's header (R378). -/
def Frame.head (f : Frame) : List Byte :=
  [byteOf (f.cls * 32 + f.hop % 4 * 8 + f.crcls % 8), byteOf (f.crlvl % 4 * 64 + f.crcnt % 64)] ++
  leBytes 3 (f.seq % 1024 + f.ack % 1024 * 2 ^ 10 + b2n f.nak * 2 ^ 20 + f.cx % 8 * 2 ^ 21) ++
  [byteOf f.src, byteOf f.dst, byteOf f.c7] ++ leBytes 4 f.c8

/-- The CRC of a frame (R379). -/
def Frame.crcOf (f : Frame) : Nat := crc32 (f.head ++ f.payload)

/-- R378 to R380: a frame holds a reserved value. -/
def Frame.reserved (f : Frame) : Bool :=
  decide (f.cls > 5) || decide (f.hop > 2) || decide (f.crcls > 5) || decide (f.crlvl > 2) || decide (f.src > 63) ||
  decide (f.dst > 63) ||
  (match f.cls with
   | 0 => decide (f.c7 > 63) || decide (f.cx + 8 * bits f.c8 31 29 + (f.c7 + 1) > 64)
   | 1 => f.cx != 0 || f.c7 != 0 || decide (f.c8 ≥ 2 ^ 24)
   | 2 => f.cx != 0 || f.c7 != 0 || bits f.c8 15 0 != 0 || decide (bits f.c8 31 24 > 3)
   | 3 => (Fmt.ofCode (f.c7 % 16)).isNone || bits f.c7 5 4 == 3
   | 4 => f.cx != 0 || decide (f.c7 > 1) || f.c8 != 0
   | _ => f.cx != 0 || f.c7 != 0 || f.c8 != 0 || f.seq != 0)

/-- R379: a frame that a receiver discards and counts. -/
def Frame.bad (f : Frame) : Bool := f.crc != f.crcOf || f.reserved || f.payload.length != 64

/-- The place of a frame's class and level in the pools of R383. -/
def Frame.pool (f : Frame) : Nat := 3 * f.cls + f.hop

/-- Priority of a frame at egress: class first, then the higher hop level (R384). -/
def Frame.prio (f : Frame) : Nat :=
  3 * (match f.cls with | 4 => 4 | 2 => 3 | 3 => 2 | 1 => 1 | _ => 0) + f.hop

end Sys2Proof

namespace Sys2Proof.Machine

/-- A frame of a class to a destination, before a port gives it its link fields. -/
def mkFrame (cls src dst cx c7 c8 : Nat) (payload : List Byte) : Frame :=
  { cls := cls, hop := 0, crcls := 5, crlvl := 0, crcnt := 0, seq := 0, ack := 0, nak := false, cx := cx, src := src,
    dst := dst, c7 := c7, c8 := c8, payload := payload, crc := 0 }

/-- 64 bytes of zeros. -/
def zeros64 : List Byte := List.replicate 64 0

/-- An IDLE or HELLO frame of a device; both go to the next device, whose number it does not know: DST is 0 (assumption 10,
DESIGN CHOICE). -/
def idleFrame (src : Nat) : Frame := mkFrame 5 src 0 0 0 0 zeros64
def helloFrame (src : Nat) : Frame := mkFrame 4 src 0 0 0 0 zeros64

/-- SRC of the frames that a device sends: its rack device number (R378), 0 while it has none (assumption 10, DESIGN CHOICE). -/
def State.srcNo (s : State) : Nat := s.dev.rack.getD 0

/-- An ABORT frame's payload (R380). -/
def abortPayload (group origin code n : Nat) : List Byte :=
  leBytes 2 group ++ [byteOf origin, byteOf code] ++ leBytes 2 n ++ List.replicate 58 0

/-- The pair (3 × class + level) whose credits the next frame of a port reports: every second frame takes the next of the 15
pairs in turn, so that each is reported within 32 frames (R380); the others may report the pair `want`. -/
def Port.reports (q : Port) (want : Option Nat) : Nat :=
  let turn := q.sent / 2 % 15
  if q.sent % 2 = 0 then turn else want.getD turn

/-- The link fields a port gives a frame as it leaves, its SEQ apart: ACK, NAK and the credit return (R378 to R380). -/
def Port.stamp (q : Port) (f : Frame) (want : Option Nat := none) : Frame :=
  let pr := q.reports want
  let f := { f with
    ack := (q.rxSeq + 1023) % 1024, nak := q.nak, crcls := pr / 3, crlvl := pr % 3, crcnt := tget 0 q.freed pr % 64 }
  { f with crc := f.crcOf }

/-- A port sends a frame; under EXTEST nothing leaves (R500). -/
def State.sendFrame (s : State) (x : Nat) (f : Frame) : State :=
  if s.extest then s else (s.updPort x fun q => { q with nak := false, sent := q.sent + 1 }).send (.frame x f)

/-- A frame may leave now: its port is up, the replay buffer has room and it holds a credit, the last CONTROL credit
being reserved for ABORT (R379, R383). -/
def Port.maySend (q : Port) (f : Frame) : Bool :=
  q.st == .up && decide (q.replay.length < 512) &&
  decide (tget 0 q.credits f.pool > (if f.cls = 4 ∧ f.c7 ≠ 1 then 1 else 0))

/-- The position in the egress queue of the frame that leaves next: the first of the highest priority, and one WRITE or
READREQ among every eight frames while one of them waits (R384). -/
def Port.pick (q : Port) : Option Nat :=
  let may := (q.egress.zipIdx.map fun p => (p.1.1, p.2)).filter fun p => q.maySend p.1
  let low := may.filter fun p => p.1.cls ≤ 1
  let c := if q.since ≥ 7 && !low.isEmpty then low else may
  (c.foldl (fun best p => match best with
    | some b => if p.1.prio > b.1.prio then some p else some b
    | none => some p) none).map (·.2)

/-- A port with nothing else to send sends an IDLE frame (R378). -/
def State.idle (s : State) (x : Nat) (want : Option Nat := none) : State :=
  if (s.port x).st == .down then s else s.sendFrame x ((s.port x).stamp (idleFrame s.srcNo) want)

/-- A buffer of the receive pools is free again and its credit is returned (R380, R388). -/
def State.freeBuf (s : State) (x : Nat) (f : Frame) : State :=
  let s := s.updPort x fun q => { q with freed := q.freed.modify f.pool (· + 1) }
  (if (s.port x).sent % 2 = 0 then s.idle x else s).idle x (some f.pool)

/-- Frames leave a port as long as they may; one in transit frees the buffer it held (R383, R385). -/
def drainPort : Nat → Nat → State → State
  | 0, _, s => s
  | n + 1, x, s =>
    let q := s.port x
    match q.pick with
    | none => s
    | some i =>
      match q.egress[i]? with
      | none => s
      | some (f0, held) =>
        let f := q.stamp { f0 with seq := q.txSeq }
        let s := (s.updPort x fun q => { q with
          egress := q.egress.eraseIdx i, replay := q.replay ++ [f], tries := q.tries ++ [1], txSeq := (q.txSeq + 1) % 1024
          since := (if f.cls ≤ 1 then 0 else q.since + 1)
          credits := q.credits.modify f.pool (· - 1) }).sendFrame x f
        drainPort n x (match held with
          | some y => s.freeBuf y { f0 with hop := f0.hop - 1 }
          | none => s)

/-- Everything that may leave port x leaves. -/
def State.drain (s : State) (x : Nat) : State := drainPort ((s.port x).egress.length) x s

/-- A frame enters a port's egress, one in transit with the port it arrived on. -/
def State.egress (s : State) (x : Nat) (f : Frame) (held : Option Nat := none) : State :=
  (s.updPort x fun q => { q with egress := q.egress ++ [(f, held)] }).drain x

/-- The port a partition's route names toward a device (R387). -/
def State.routeOf (s : State) (p dst : Nat) : Option Nat := spGet none (s.part p).rally.routes dst

/-- A frame of the partition towards a device, by its route (R388). -/
def State.route (s : State) (p : Nat) (f : Frame) : State :=
  match s.routeOf p f.dst with | some x => s.egress x f | none => s

/-- A frame is dropped and counted (R377, R388, R390). -/
def State.dropFrame (s : State) (x : Nat) : State :=
  s.updPort x fun q => { q with drops := satAdd 0xFFFFFFFF q.drops 1 }

/-- A link event on w8 (R306, R375, R376). -/
def State.linkEvent (s : State) (x : Nat) (up : Bool) : State :=
  s.event (evLine {} [asc "link", kv "port" (nameN "x" x), kv "state" (asc (if up then "up" else "down"))])

/-- A port's link state starts afresh, with every credit in its full pool; what waits to be sent goes on waiting (R376, R379,
R383). -/
def Port.restarted (q : Port) : Port :=
  { q with
    rxSeq := 0, txSeq := 0, nak := false, replay := [], tries := [], since := 0, sent := 0
    credits := ({} : Port).credits, freed := ({} : Port).freed, lastCr := ({} : Port).lastCr, waitRx := []
    helloRx := false }

/-- A port's buffers are discarded, with the frames in transit that wait at other ports and lie in them; a frame thrown away
here that came in by another port frees the buffer it held there (R376, R383, R385). -/
def State.emptyPort (s : State) (x : Nat) : State :=
  let gone := (s.port x).egress
  let s := { s with ports := s.ports.map fun q : Port => { q with egress := q.egress.filter fun f => f.2 != some x } }
  let s := s.updPort x fun q => { q.restarted with egress := [] }
  gone.foldl (fun s f => match f.2 with
    | some y => if y = x then s else s.freeBuf y { f.1 with hop := f.1.hop - 1 }
    | none => s) s

/-- A port goes down, from whichever state: its buffers are discarded (R376). -/
def State.portDown (s : State) (x : Nat) (hold retry : Bool) : State :=
  (s.emptyPort x).updPort x fun q => { q with st := .down, hold := hold, retry := retry }

/-- A port begins to train: its link state starts afresh and it sends HELLO, its first frame, on a CONTROL credit (R375,
R379, R383). Under EXTEST it cannot, and tries again later (R376, R500). -/
def State.train (s : State) (x : Nat) : State :=
  if s.extest then s.updPort x fun q => { q.restarted with st := .down, hold := false, retry := true }
  else
    let s := s.updPort x fun q => { q.restarted with st := .training, hold := false, retry := false }
    let h := helloFrame s.srcNo
    let f := (s.port x).stamp h
    (s.updPort x fun q => { q with
      replay := [f], tries := [1], txSeq := 1, credits := q.credits.modify h.pool (· - 1) }).sendFrame x f

/-- A cage's module can carry a link: a passive copper cable whose supply has not tripped (R495). -/
def Cage.good (c : Cage) : Bool := c.present && c.copper && !c.tripped

/-- A link over port x can be trained: cage x holds a good module, and EXTEST does not hold the pins (R494, R495, R500). -/
def State.cabled (s : State) (x : Nat) : Bool :=
  (tget ({} : Cage) s.board.cages x).good && !s.extest

/-- R375: training ends when each end has received the other's HELLO, the own one being acknowledged. -/
def State.linkUp (s : State) (x : Nat) : State :=
  let q := s.port x
  if q.st == .training && q.helloRx && q.replay.isEmpty && s.cabled x then
    ((s.updPort x fun q => { q with st := .up }).linkEvent x true).drain x
  else s

/-- An acknowledgement covers a frame of the replay buffer (R379). -/
def ackCovers (f g : Frame) : Bool := decide ((f.ack + 1024 - g.seq) % 1024 < 512)

/-- The most credits of a pool (R383). -/
def poolMax (pr : Nat) : Nat := tget 0 ({} : Port).credits pr

/-- What the acknowledgement and the credit return of a good frame do (R379, R380). -/
def Port.acked (q : Port) (f : Frame) : Port :=
  let n := (q.replay.takeWhile (ackCovers f)).length
  let q := { q with replay := q.replay.drop n, tries := q.tries.drop n }
  if f.crcls = 5 then q
  else
    let pr := 3 * f.crcls + f.crlvl
    let add := (f.crcnt + 64 - tget 0 q.lastCr pr % 64) % 64
    { q with credits := q.credits.modify pr (fun c => min (poolMax pr) (c + add)), lastCr := q.lastCr.set pr f.crcnt }

/-- R376: a frame of the replay buffer has been sent 8 times. -/
def Port.spent (q : Port) : Bool := q.tries.any fun n => decide (n ≥ 8)

/-- R379: the frames of the replay buffer are sent again, each with the link fields of the moment; none of them where one of a
link that is up has been sent 8 times, since that link goes down (R376). -/
def State.resend (s : State) (x : Nat) : State :=
  if (s.port x).st = .up ∧ (s.port x).spent then s
  else
    (s.port x).replay.foldl (fun s g => s.sendFrame x ((s.port x).stamp g))
      (s.updPort x fun q => { q with replays := satAdd 0xFFFFFFFF q.replays 1, tries := q.tries.map (· + 1) })

/-- What a receiving port makes of a frame: discarded or a duplicate, or accepted. Every frame but IDLE is answered, if only
by an IDLE frame. -/
def State.receive (s : State) (x : Nat) (f : Frame) : Bool × State :=
  let q := s.port x
  if q.st == .down then (false, s)
  else if f.bad then
    (false, (s.updPort x fun q => { q with crc := satAdd 0xFFFFFFFF q.crc 1, nak := true }).idle x)
  else
    let s := s.updPort x fun q => q.acked f
    let s := (if f.nak && !(s.port x).replay.isEmpty then s.resend x else s).linkUp x
    let s := s.drain x
    if f.cls = 5 then (true, s)
    else if f.seq = q.rxSeq then
      (true, (s.updPort x fun q => { q with rxSeq := (q.rxSeq + 1) % 1024 }).idle x)
    else if (q.rxSeq + 1024 - f.seq) % 1024 ≤ 512 then (false, s.idle x)
    else (false, (s.updPort x fun q => { q with nak := true }).idle x)

/-- A port accepts a frame: it is up or training, and the frame is good and the next one (R379). -/
def State.takesFrame (s : State) (x : Nat) (f : Frame) : Bool :=
  (s.port x).st != .down && !f.bad && f.seq == (s.port x).rxSeq

/-- The partition of a port (R374). -/
def State.portPart (s : State) (x : Nat) : Option Nat := s.owner x

/-- A frame for another device: sent on at HOP + 1 once the next link has a buffer for it, or dropped (R382, R385, R388). -/
def State.forward (s : State) (x : Nat) (f : Frame) : State :=
  match s.portPart x with
  | some p =>
    (match (if f.hop < 2 then s.routeOf p f.dst else none) with
     | some y => s.egress y { f with hop := f.hop + 1 } (some x)
     | none => (s.dropFrame x).freeBuf x f)
  | none => (s.dropFrame x).freeBuf x f

/-- R386, R388, R390: where an accepted frame goes. -/
inductive Target where
  | here (p : Nat)
  | other
  | dropped
  deriving DecidableEq, Repr

/-- The destination of an accepted frame other than HELLO: `abort` frames are not tested by SRC (R390). -/
def State.target (s : State) (x : Nat) (f : Frame) (abort : Bool) : Target :=
  match s.dev.rack, s.portPart x with
  | some r, some p =>
    if f.dst ≠ r then .other
    else if abort then .here p
    else match (s.part p).rally.group with
      | some g => if g.members.contains f.src then .here p else .dropped
      | none => .dropped
  | _, _ => .dropped

end Sys2Proof.Machine
end

