-- ==== Sys2Proof/Machine/Faults.lean ====
section
/-! DEFINITION. Faults and reports: the latch of R443 to R446, the abort flood, the records of R369 and their order
(R257, R372, R447), the loss of a link (R376). -/

namespace Sys2Proof

/-- The order of R443. -/
def HwErr.before (a b : HwErr) : Bool :=
  decide (a.code < b.code) || (a.code == b.code && (decide (a.cluster < b.cluster) ||
    (a.cluster == b.cluster && decide (a.stream < b.stream))))

end Sys2Proof

namespace Sys2Proof.Machine

/-! ## Reports (R257, R369 to R373, R447) -/

/-- The 32 bytes of a completion record or ring entry (R369). -/
def Report.bytes (r : Report) (p : Nat) (phase : Bool) : List Byte :=
  leBytes 2 r.tag ++ [byteOf r.status, byteOf r.code, byteOf p, byteOf (r.flags + (if phase then 128 else 0)), 0, 0] ++
  leBytes 4 r.suspect ++ leBytes 4 r.tally ++ leBytes 8 r.seq ++ leBytes 4 r.runtime ++ List.replicate 4 0

/-- The ring is full (R511). -/
def Partition.ringFull (q : Partition) : Bool := decide ((q.prod - q.cons).toNat ≥ 2 ^ q.ringLog2)

/-- The host address of the next ring entry and its PHASE (R371). -/
def Partition.ringAt (q : Partition) : Nat × Bool :=
  (q.ringBase.toNat + 32 * (q.prod.toNat % 2 ^ q.ringLog2), q.prod.toNat / 2 ^ q.ringLog2 % 2 == 0)

/-- Reports are written in order, each as far as it can be: done word, ring entry, line, messages (R257). A full ring, Bus
Master Enable 0, a device fault and a line that the host holds make the rest wait (R349, R368, R372, R454). The done word
covers a part of its line, whose merging read meets what `obs` says (R341, R342). -/
def pumpReports (obs : HwObs) : Nat → Nat → State → State
  | 0, _, s => s
  | n + 1, p, s =>
    let q := s.part p
    match q.reports with
    | [] => s
    | r :: rest =>
      if s.dev.dfault.isSome then s
      else
        let held := if r.recorded then [] else match r.done with | some pa => s.snooped [q.da pa / 64] | none => []
        if !held.isEmpty then s.biAsk held
        else
          let s := if r.recorded then s else match r.done with
            | some pa => (s.observe obs [q.da pa / 64]).wrPa p (cellsAt pa (r.bytes p false))
            | none => s
          if q.ringEn && (q.ringFull || !s.host.bme) then
            s.updPart p fun q => { q with reports := { r with recorded := true } :: rest }
          else
            let s := if q.ringEn then
                (s.send (.hostWrite q.ringAt.1 (r.bytes p q.ringAt.2))).updPart p fun q => { q with prod := q.prod + 1 }
              else s
            let s := s.updPart p fun q => { q with reports := rest }
            let s := s.emit p r.ctx.uart r.line
            let s := if q.ringCie then s.msix (1 + p) else s
            let s := if r.faultVec then s.msix (9 + p) else s
            pumpReports obs n p s

/-- `halt` replies once the last removal is reported (R324). -/
def State.haltDone (s : State) (p : Nat) : State :=
  match (s.part p).haltReply with
  | some (l, n) =>
    if (s.part p).reports.any (fun r => r.status == 3 && !bit r.flags 1) then s
    else
      let s := s.updPart p fun q => { q with haltReply := none }
      let s := s.updWin p fun w => { w with busy := if w.busy = some (.halting p) then none else w.busy }
      s.ok p l [kn "n" n]
  | none => s

/-- Pending partition settings take effect at once while the partition is LOADED with no launch (R292). -/
def State.settle (s : State) (p : Nat) : State :=
  s.updPart p fun q => if q.state == 2 then { q with set := q.pendP.getD q.set, pendP := none } else q

/-- What can be reported is reported. -/
def State.pump (s : State) (p : Nat) (obs : HwObs := {}) : State :=
  ((pumpReports obs ((s.part p).reports.length) p s).haltDone p).settle p

/-- The lines that the done words of waiting reports lie in. -/
def State.doneLines (s : State) (p : Nat) : List Nat :=
  (s.part p).reports.filterMap fun r => if r.recorded then none else r.done.map fun pa => (s.part p).da pa / 64

/-- What can be reported is reported under a command that says nothing of detectors: what the merging reads of the done words
meet is free (R341, R342; assumption 2, DESIGN CHOICE). -/
def State.pumpFree (s : State) (p : Nat) : State :=
  let lines := s.doneLines p
  if lines.isEmpty then s.pump p else (s.pump p (s.freeObs lines)).fresh

/-- The sum of R124 over the clusters of a partition, and the totals of each set. -/
def State.tallySets (s : State) (p : Nat) : List TallySet :=
  (List.range 16).map fun i =>
    (s.part p).clusters.foldl (fun t g =>
      let u := tget {} (s.clu g).tally i
      { sat := satAdd 0xFFFFFFFF t.sat u.sat, flush := satAdd 0xFFFFFFFF t.flush u.flush,
        nan := satAdd 0xFFFFFFFF t.nan u.nan }) {}

def State.tallySum (s : State) (p : Nat) : Nat :=
  min 0xFFFFFFFF (((s.part p).clusters.flatMap fun g => (s.clu g).tally.map fun t => t.sat + t.flush + t.nan).foldl (· + ·) 0)

/-- The tally hints of a slot (R241): up to the first NUL. -/
def State.hints (s : State) (p : Nat) (b : Bool) : List (List Byte) :=
  (List.range 16).map fun i =>
    ((List.range 8).map fun k => s.rdPa p ((s.part p).slotPa b + 64 + 8 * i + k)).takeWhile (· != 0)

/-- RUNTIME of R369, left open by the timing of the machine (assumption 2, DESIGN CHOICE). -/
def State.runtime (s : State) : Nat := Config.elapsed s.free % 2 ^ 32

/-- The report of a launch (R369): FLAGS bit 0 is its slot. -/
def launchReport (la : Launch) (status code suspect tally runtime : Nat) (line : List Byte) (fv : Bool) : Report :=
  { tag := la.ctx.tag.getD 0, status := status, code := code, flags := b2n la.b, suspect := suspect, tally := tally,
    seq := la.seq, runtime := runtime, done := la.done, line := line, ctx := la.ctx, faultVec := fv, recorded := false }

/-- The running launch ends: its tally copy is kept, running timers stop, its report joins the queue (R167, R331, R512). -/
def State.endRun (s : State) (p : Nat) (r : Running) (status code : Nat) (line : List Byte) (fv : Bool) : State :=
  let sum := s.tallySum p
  let copy : TallyCopy :=
    { tag := r.la.ctx.tag, seq := r.la.seq, sum := sum, sets := s.tallySets p, name := s.hints p r.la.b }
  let rep := launchReport r.la status code r.suspect sum s.runtime line fv
  let s := (s.part p).clusters.foldl (fun s g =>
    (s.passTime g).updClu g fun k => { k with w := k.w.map fun t => { t with run := false } }) s
  (s.updPart p fun q => { q with run := none, copy := some copy, reports := q.reports ++ [rep] }).fresh

/-- A launch removed from the queue (R324, R447). -/
def haltReport (la : Launch) (code : Nat) (why : String) : Report :=
  launchReport la 3 code 0 0 0 (evLine la.ctx [asc "abort", kv "why" (asc why)]) true

/-- The names of R367. -/
def statusName (k : Nat) : List Byte :=
  asc (match k with
    | 0 => "ok" | 1 => "key_empty" | 2 => "auth_fail" | 3 => "poison" | 4 => "host_error" | 5 => "aborted"
    | _ => "key_exhausted")

/-- The report of a mover job (R367, R369): its line is the reply of R334. -/
def jobReport (j : Job) (status : Nat) : Report :=
  { tag := j.ctx.tag.getD 0, status := status, code := j.kind, flags := 2, suspect := 0, tally := 0, seq := j.moved,
    runtime := 0, done := none, line := okLine j.ctx [kv "st" (statusName status), kn "bytes" j.moved], ctx := j.ctx,
    faultVec := false, recorded := true }

/-- A job ends: it leaves the list, its latched key is erased, its report joins the queue (R333, R367, R430). -/
def State.endJob (s : State) (p : Nat) (j : Job) (status : Nat) : State :=
  s.updPart p fun q =>
    let jobs := q.jobs.filter fun k => k.id != j.id
    let held (slot gen : Nat) : Bool := jobs.any fun k => match k.latch with
      | some (a, b, _) => a == slot && b == gen
      | none => false
    { q with
      jobs := jobs
      keys := q.keys.zipIdx.map fun e => { e.1 with erase := e.1.erase.filter (held e.2) }
      reports := q.reports ++ [jobReport j status] }

/-! ## The fault latch (R441 to R446) -/

/-- An error without a long word (R444): no cluster, no stream. -/
def errOf (code unit : Nat) (addr : Nat := 0) (space : Nat := 0) (court : Nat := 15) (detail : Nat := 0) : HwErr :=
  { code := code, cluster := 255, stream := 7, unit := unit, offset := 0, addr := addr, space := space, court := court,
    detail := detail }

/-- FFREC (R444). -/
def ffrecOf (e : HwErr) (late : Bool) (run : Option Running) : List Word :=
  [BitVec.ofNat 32 (2 ^ 31 + b2n late * 2 ^ 30 + e.code % 256 * 2 ^ 16 + e.cluster % 256 * 2 ^ 8 + e.stream % 8 * 2 ^ 5 + e.unit % 32),
   BitVec.ofNat 32 (if e.stream = 7 then 0 else e.offset),
   BitVec.ofNat 32 e.addr,
   BitVec.ofNat 32 (e.detail % 256 * 2 ^ 24 + e.space % 16 * 2 ^ 20 + e.court % 16 * 2 ^ 16 + e.addr / 2 ^ 32 % 2 ^ 16),
   BitVec.ofNat 32 (match run with | some r => r.la.ctx.tag.getD 0 % 65536 | none => 0),
   BitVec.ofNat 32 (match run with | some r => r.la.seq | none => 0)]

/-- The code that FFREC holds (R329). -/
def Partition.ffCode (q : Partition) : Nat := bits (tget 0 q.ffrec 0).toNat 23 16

/-- A mover job stops: of the statuses of its pieces it keeps the lowest (R367); one that KEY_EXHAUSTED has ended stays so. -/
def Job.stop (j : Job) (status : Nat) : Job :=
  { j with status := some (match j.status with | some 6 => 6 | some a => min a status | none => status) }

/-- A READRSP to a device (R394, R406). -/
def State.readRsp (s : State) (p dst tid status : Nat) : State :=
  match s.dev.rack with
  | some r => s.route p (mkFrame 2 r dst 0 0 (tid * 2 ^ 16 + status * 2 ^ 24) zeros64)
  | none => s

/-- A residue mismatch in a long word of cluster g: one more in its SUSPECTCNT and in the launch's count (R439). -/
def State.suspect (s : State) (p g : Nat) (hit : Bool) : State :=
  if hit then
    (s.updClu g fun k => { k with suspect := satAdd 0xFFFFFFFF k.suspect 1 }).updPart p fun q =>
      { q with run := q.run.map fun r => { r with suspect := satAdd 0xFFFFFFFF r.suspect 1 } }
  else s

/-- The mismatches of the combiners of slots that are dropped are charged to the clusters whose RLYs registered them, once for
each RLY (R439). -/
def State.chargeSlots (s : State) (p : Nat) : State :=
  ((s.part p).rlys.filter fun r => !r.counted && (s.port (r.g / 12)).slots.any fun t =>
    t.rid == r.rid && t.epoch == r.epoch && t.susp).foldl (fun s r => s.suspect p r.g true) s

/-- Rally state of a partition is dropped: slots, waiting frames, registrations, epochs; waiting READREQs are answered with
RESET, and frames of its own long words that have not left yet are not sent (R406). -/
def State.dropRally (s : State) (p : Nat) : State :=
  let s := s.chargeSlots p
  let asks : List (Nat × Nat) := (s.part p).courts.flatMap fun x =>
    ((s.port x).flush.map fun e => (e.src, e.tid)) ++
    ((s.port x).waitRx.filter (·.1.cls == 1)).map fun f => (f.1.src, bits f.1.c8 23 16)
  let s := (s.part p).courts.foldl (fun s x =>
    let gone := (s.port x).waitRx
    let s := s.updPort x fun q =>
      { q with slots := [], waitRx := [], flush := [],
               egress := q.egress.filter fun f => f.1.hop != 0 || f.1.cls == 2 || f.1.cls == 4 }
    gone.foldl (fun s f => s.freeBuf x f.1) s) s
  let s := asks.foldl (fun s a => s.readRsp p a.1 a.2 3) s
  s.updPart p fun q => { q with
    rlys := [], epochs := [], rxRefuse := q.rxRefuse.filter fun r => !(asks.any fun a => a.1 == r.1) }

/-- The abort flood (R403): the device's count rises and every other member is sent an ABORT. -/
def State.floodAbort (s : State) (p code : Nat) : State :=
  match (s.part p).rally.group, s.dev.rack with
  | some g, some r =>
    let n := if s.dev.abortN ≥ 0xFFFF then 1 else s.dev.abortN + 1
    let s := s.updDev fun d => { d with abortN := n }
    (g.members.filter (· != r)).foldl (fun s m =>
      s.route p (mkFrame 4 r m 0 1 0 (abortPayload g.id r code n))) s
  | _, _ => s

/-- A byte of a long word in flight that was not written yet is never written: it stands as before, its line's poison mark
with it. -/
def State.unwrite (s : State) (o : OldByte) : State :=
  match o.clu with
  | none =>
    let s := { s with dram := spSet 0 s.dram o.adr o.old }
    (match o.mark with | some c => s.mark (o.adr / 64) c | none => s)
  | some c => s.updClu c fun k => { k with sp := spSet 0 k.sp o.adr o.old }

/-- R446: of what long words in flight wrote, newest first and each with its number, the lines already written stay and those
not yet written are never written, but a line written over since by one that stays is not touched; which they are is free
(assumption 8, DESIGN CHOICE). `ws` is what stays of newer ones. -/
def State.abandonWrites (s : State) : List (Undo × Nat) → List (Option Nat × Nat) → State
  | [], _ => s
  | (e, k) :: r, ws =>
    let lost (o : OldByte) : Bool := Config.unwritten s.free k o.clu (o.adr / 64)
    ((e.bytes.filter fun o => lost o && !o.covered ws).foldl State.unwrite s).abandonWrites r
      (ws ++ (e.bytes.filter fun o => !lost o).map fun o => (o.clu, o.adr))

/-- What the engines of a partition had in flight is abandoned (R446). -/
def State.abandonAll (s : State) (p : Nat) : State :=
  let mine (e : Undo) : Bool := (s.part p).clusters.contains e.g
  let es := s.undo.filter mine
  if es.isEmpty then s
  else { (s.abandonWrites es.zipIdx.reverse []).fresh with undo := s.undo.filter fun e => !mine e }

/-- Every engine of a partition stops; what was in flight is abandoned, with signals and remote requests (R446). -/
def State.stopEngines (s : State) (p : Nat) : State :=
  let s := s.abandonAll p
  let s := (s.part p).clusters.foldl (fun s g => s.updClu g fun k =>
    { k with
      streams := k.streams.map fun t => { t with
        ended := true, flight := [], asked := false, grant := none, fetch := {} }
      reqs := [], rels := [], xreds := [], xdone := [] }) s
  s.updPart p fun q => { q with signals := [] }

/-- Late errors (R445): counted, and LATE set in FFREC. -/
def State.lateErr (s : State) (p n : Nat) : State :=
  if n = 0 then s
  else s.updPart p fun q => { q with
    late := satAdd 0xFFFF q.late n, ffrec := q.ffrec.modify 0 fun w => w ||| 0x40000000#32 }

/-- A fault may latch (R442): while RUNNING; a device fault whenever the partition is not FREE; PEER_ABORT while DEFINED
or LOADED too. -/
def Partition.mayLatch (q : Partition) (code : Nat) : Bool :=
  q.stat == .up && (q.state == 3 || code == 0x1F || code == 0x09)

/-- The fault latch of R443 to R446 for the errors of one cycle, of which those count that may raise a fault. -/
def State.latchAll (s : State) (p : Nat) (errs : List HwErr) : State :=
  let q := s.part p
  let late := q.stat == .faulted || q.stat == .resetting
  let errs := if late then errs else errs.filter fun e => q.mayLatch e.code
  match errs.foldl (fun b e => match b with | some a => if e.before a then some e else some a | none => some e) none with
  | none => s
  | some e =>
    if late then s.lateErr p errs.length
    else
      let s := s.updPart p fun q =>
        { q with
          stat := .faulted, phase := .report, faults := satAdd 0xFFFF q.faults 1,
          late := satAdd 0xFFFF q.late (errs.length - 1),
          ffrec := ffrecOf e (errs.length > 1) q.run, gate := false, tickets := 0,
          jobs := q.jobs.map fun j => j.stop 5 }
      let s := (s.stopEngines p).dropRally p
      if e.code = 0x09 then s else s.floodAbort p e.code

/-- One error latches. -/
def State.latch (s : State) (p : Nat) (e : HwErr) : State := s.latchAll p [e]

/-! ## Loss of a link (R376) -/

/-- A port goes down: buffers, credits, event, and LINK_DOWN for a RUNNING partition. `retry` says that it trains again by
itself. -/
def State.linkDown (s : State) (x : Nat) (hold retry : Bool) : State :=
  let was := (s.port x).st
  let s := s.portDown x hold retry
  let s := if was = .up then s.linkEvent x false else s
  match s.portPart x with
  | some p => if was = .up && (s.part p).state == 3 then s.latch p (errOf 0x08 0x09 0 2 x x) else s
  | none => s

end Sys2Proof.Machine
end

