-- ==== Sys2Proof/Machine/Flags.lean ====
section
/-! DEFINITION. What an operation counts and draws: tally sets (R122 to R124), the generators of RSTO (R86, R87), and the
numeric context a long word runs under (R80 to R82). -/

namespace Sys2Proof.Machine

/-- The rounding mode of a line as the arithmetic takes it. -/
def roundOf : Rounding → Round
  | .rne => .rne | .rtz => .rtz | .rsto => .rsto

/-- The launch context with the fields a `go` replaces (R80, R320). -/
def NumCtx.with (c : NumCtx) (n : NcItems) : NumCtx :=
  { flush := (n.flush.map (· == 1)).getD c.flush, sat := (n.sat.map (· == 1)).getD c.sat,
    prop := n.nanmm.getD c.prop, round := n.round.getD c.round, seed := n.seed.getD c.seed }

/-- The context of an operation in a running launch, before overrides. -/
def Running.actx (r : Running) : ACtx :=
  { strict := r.strict, flush := r.ctx.flush, sat := r.ctx.sat, nanProp := r.ctx.prop, round := roundOf r.ctx.round }

/-- The counts of several output elements join a tally set (R122 to R124). -/
def TallySet.add (t : TallySet) (cs : List Cnt) : TallySet :=
  let n (p : Cnt → Bool) : Nat := (cs.filter p).length
  { sat := satAdd 0xFFFFFFFF t.sat (n (·.sat)), flush := satAdd 0xFFFFFFFF t.flush (n (·.flush)),
    nan := satAdd 0xFFFFFFFF t.nan (n (·.nan)) }

def State.count (s : State) (g set : Nat) (cs : List Cnt) : State :=
  s.updClu g fun k => { k with tally := k.tally.modify set (·.add cs) }

/-- The draws of one pass-structured rounding of elements 0 to n − 1 at rate W (R86): each element's draw, and the lane
counts after it. -/
def drawsFor (seed cluster stream w n : Nat) (used : List (Nat × Nat)) : List Nat × List (Nat × Nat) :=
  ((List.range n).map fun e => drawAt seed cluster stream (e % w) (spGet 0 used (e % w) + e / w),
   (List.range (min w n)).foldl (fun u lane => spSet 0 u lane (spGet 0 u lane + (n - lane + w - 1) / w)) used)

/-- `n` draws of a stream for a long word whose roundings consume them, all zero where none is consumed (R87). -/
def State.draws (s : State) (p g st w n : Nat) (consume : Bool) : List Nat × State :=
  match (s.part p).run with
  | some r =>
    if consume then
      let (ds, used) := drawsFor r.ctx.seed ((s.part p).rel g) st w n (s.str g st).draws
      (ds, s.updStr g st fun t => { t with draws := used })
    else (List.replicate n 0, s)
  | none => (List.replicate n 0, s)

end Sys2Proof.Machine
end

