-- ==== Sys2Proof/Machine/Operands.lean ====
section
/-! DEFINITION. The operands of a long word at its issue: its fetch from the bound image, descriptors from the table or
through a register, dynamic offsets, the checks of R138, R144, R145, R160, R250 and R523, and the reading of elements. -/

namespace Sys2Proof.Machine

/-- A byte of the image in a slot (R251). -/
def State.img (s : State) (p : Nat) (b : Bool) : ImgRd := fun o => (s.rdPa p ((s.part p).slotPa b + o)).toNat

/-- The long word at the head of a stream: partition, running launch, the image's reader and header, the stream's offset
in the image, the long word. None when nothing runs there. -/
structure Head where
  p   : Nat
  run : Running
  rel : Nat
  rd  : ImgRd
  hdr : ImgHdr
  at_ : Nat
  pc  : Nat
  lw  : LW
  op  : Op

/-- R251: the head of a stream, fetched from the slot its launch is bound to. -/
def State.head (s : State) (g st : Nat) : Option Head :=
  match s.ownerG g with
  | none => none
  | some p =>
    let q := s.part p
    let t := s.str g st
    match q.run with
    | none => none
    | some r =>
      if t.ended then none
      else
        let rd := s.img p r.la.b
        let h := ImgHdr.parse rd
        let base := (h.stream rd (5 * q.rel g + st)).1
        let w := LW.parse (rd32 rd) (base + t.pc)
        match Op.decode st w.code with
        | some o => some ⟨p, r, q.rel g, rd, h, base, t.pc, w, o⟩
        | none => none

/-- The instruction-cache lines a long word lies in (R26, R251), as offsets in the slot divided by 64. -/
def Head.lines (h : Head) : List Nat := linesOf (h.at_ + h.pc) h.lw.len

/-- An error met by a long word at its issue (R444). -/
def Head.err (h : Head) (st code unit addr space court detail : Nat) : HwErr :=
  { code := code, cluster := h.rel, stream := st, unit := unit, offset := h.pc, addr := addr, space := space,
    court := court, detail := detail }

/-- A resolved operand: its descriptor and effective base (R127, R184). -/
structure Arg where
  d  : Desc
  eb : Nat
  o  : Opnd
  deriving DecidableEq, Repr

/-- The fault a check of R137 raises at run time: ALIGNMENT for 0x28, RANGE for the others (R137, R138). -/
def checkFault (c : Nat) : Nat := if c = 0x28 then 0x03 else 0x04

/-- The PA of the descriptor of an operand: that of an address register, or in the table of the launch's image (R125, R184,
R240, R251). -/
def State.descPa (s : State) (h : Head) (g st : Nat) (o : Opnd) : Nat :=
  let dr := h.lw.dref o
  if dr.ind then (tget 0 (s.str g st).a (dr.didx % 16)).toNat
  else (s.part h.p).slotPa h.run.la.b + h.hdr.dtoff + 64 * dr.didx

/-- The device-memory lines of the descriptors that the engine reads at issue, unaligned and absent ones apart (R125). -/
def State.descLines (s : State) (h : Head) (g st : Nat) (os : List Opnd) : List Nat :=
  let q := s.part h.p
  os.filterMap fun o =>
    let pa := s.descPa h g st o
    if pa % 64 == 0 && decide (pa + 64 ≤ q.size) then some (q.da pa / 64) else none

/-- The error an engine meets in reading a line of device memory that is marked poisoned (R342, R343, R438, R444). -/
def State.lineErr (s : State) (h : Head) (st l : Nat) : Option HwErr :=
  let pa := (s.part h.p).paOf (64 * l)
  let court := 64 * l / courtBytes
  match s.cause l with
  | some .held => some (h.err st 0x02 0x05 pa 0 court 0xFF)
  | some .host => some (h.err st 0x0B 0x06 pa 0 court (chanOf (64 * l)))
  | some _ => some (h.err st 0x01 0x06 pa 0 court (chanOf (64 * l)))
  | none => none

/-- A fault of the issue checks (R444). -/
def Head.refuse (h : Head) (g st code addr space detail : Nat) : HwErr :=
  h.err st code 0x01 addr space (g / 12) detail

/-- One operand at issue: R127, R138, R160, R184, R185; left is the fault. The recheck of 0x2D holds for a NOSCORE long word
too, since R161 takes from it the scoreboard only. A descriptor of SPACE 1 whose operand has no declaration passes 0x2D and
fails on its SPACE, with DETAIL 0x00 (assumption 14, DEDUCED). -/
def resolveOne (s : State) (h : Head) (g st : Nat) (o : Opnd) : Except HwErr Arg :=
  let q := s.part h.p
  let n := q.courts.length
  let dr := h.lw.dref o
  let put := h.op == .put && o.dest
  let off := if dr.ofv then (tget 0 (s.str g st).a dr.oreg).toNat else 0
  let mem (x : Desc) : Nat := if x.space = 0 then 0 else 1
  let inDecl (x : Desc) (eb : Nat) : Bool :=
    match h.lw.decl o.decl with
    | some d => o.decl == 0 || x.within eb d.first d.last
    | none => true
  if dr.ind then
    let pa := s.descPa h g st o
    if pa % 64 ≠ 0 then .error (h.refuse g st 0x03 pa 0 0)
    else if pa + 64 > q.size then .error (h.refuse g st 0x04 pa 0 0)
    else match s.lineErr h st (q.da pa / 64) with
      | some e => .error e
      | none =>
        let x := Desc.parse ((List.range 64).map fun k => s.rdPa h.p (pa + k))
        let eb := x.base + off
        let fails := x.ownChecks n put eb ++ (if off % 64 = 0 then [] else [0x28]) ++
          (if x.remoteOk n h.rel then [] else [0x29]) ++ (if o.dest && !x.stridesOk then [0x2B] else []) ++
          (if x.space = 1 && !inDecl x eb then [0x2D] else [])
        match lowest fails with
        | some c => .error (h.refuse g st (checkFault c) pa 0 c)
        | none => if x.space ≠ o.space ∨ x.space = 2 then .error (h.refuse g st 0x04 pa 0 0) else .ok ⟨x, eb, o⟩
  else match s.lineErr h st (q.da (s.descPa h g st o) / 64) with
    | some e => .error e
    | none =>
      let x := h.hdr.desc h.rd dr.didx
      let eb := x.base + off
      if off % 64 ≠ 0 then .error (h.refuse g st 0x03 eb (mem x) 0x28)
      else if !(x.footprint eb).all (fun r => decide (r.2 < spaceLimit n put x.space)) then
        .error (h.refuse g st 0x04 eb (mem x) 0x2A)
      else if x.space ≠ 0 && !inDecl x eb then .error (h.refuse g st 0x04 eb (mem x) (if x.space = 1 then 0x2D else 0))
      else .ok ⟨x, eb, o⟩

/-- The operands in order, or the first failure. -/
def resolveAll (s : State) (h : Head) (g st : Nat) : List Opnd → Except HwErr (List Arg)
  | [] => .ok []
  | o :: r =>
    match resolveOne s h g st o with
    | .error e => .error e
    | .ok a => match resolveAll s h g st r with
      | .error e => .error e
      | .ok l => .ok (a :: l)

/-- R219: the part of an RLY's shards that a destination or source must match, and the dimension a reduce-scatter
divides. -/
def scatterDim (x : Desc) (axis : Nat) : Option Nat := ((List.range x.rank).filter (· != axis)).getLast?

/-- R144, R145, R219: the shard checks of a long word: DETAIL and ADDR of the first that fails. A destination of extent 1
along AXIS is of the reduced form here as in `groupForm` (assumption 14, DEDUCED). -/
def shardFault (q : Partition) (h : Head) (args : List Arg) : Option (Nat × Nat) :=
  let w := h.lw
  let ax := w.axis h.op
  let axisOf (a : Arg) : Option Nat :=
    if h.op == .rly && !a.o.dest && w.b 4 11 then some ax
    else if h.op.groups && a.o.dest && !h.run.strict then
      (match args.head? with
       | some src => if a.d.ext ax ≠ 1 ∧ a.d.ext ax = ceilDiv (src.d.ext ax) 16 then some ax else none
       | none => none)
    else none
  let bad := args.find? fun a => a.d.shard != noShard &&
    (match spGet none q.set.shards a.d.shard with
     | some e => !e.fits a.d (axisOf a)
     | none => true)
  match bad with
  | some a => some (1, a.d.shard)
  | none =>
    if h.op == .rly then
      match args with
      | [src, dst] =>
        (match spGet none q.set.shards src.d.shard with
         | none => some (4, src.d.shard)
         | some e =>
           if (if w.b 4 11 then e.len ax % 16 != 0 else e.len ax != 1) then some (2, src.d.shard)
           else
             let want (k : Nat) : Nat :=
               if w.b 4 11 && k = ax then 1
               else if w.f 4 15 14 = 1 ∧ scatterDim src.d ax = some k then
                 let l := ceilDiv (src.d.ext k) e.total
                 min l (src.d.ext k - e.index * l)
               else src.d.ext k
             if (List.range 5).all fun k => dst.d.ext k == want k || want k == 0 then none else some (4, src.d.shard))
      | _ => none
    else none

/-- R250, R252, R523: what the resolved operands must also meet; some is the fault. Where check 0x44 and another check of
R523 fail together DETAIL is 0x00; ADDR is the effective base of the first operand, with its SPACE; an RLY whose source names
no shard map faults with SHARD_MISMATCH whatever else of R523 it breaks (assumption 14, DEDUCED). -/
def lateChecks (s : State) (h : Head) (g st : Nat) (args : List Arg) : Option HwErr :=
  let q := s.part h.p
  let n := q.courts.length
  let codes := shapeChecks h.run.strict h.op h.lw n h.rel (args.map fun a => some a.d)
  let (at0, spc) : Nat × Nat := match args.head? with | some a => (a.eb, if a.d.space = 0 then 0 else 1) | none => (0, 2)
  if h.op == .rly && (args.head?.map fun a => a.d.shard == noShard).getD false then none
  else if !codes.isEmpty then some (h.refuse g st 0x04 at0 spc (if codes.all (· == 0x44) then 0x44 else 0))
  else
    match args.find? fun a => h.op == .stt && a.o.dest &&
        (a.d.footprint a.eb).any fun r => decide (r.2 ≥ q.slotLo) with
    | some a => some (h.refuse g st 0x04 a.eb 0 0x45)
    | none => none

/-! ## Reading and writing elements -/

/-- The rows of an operand as byte ranges: address and length (R129 to R132). -/
def Arg.rows (a : Arg) : List (Nat × Nat) :=
  let d := a.d
  let vals := (List.range (d.nk 1 * d.ext 2 * d.ext 3 * d.ext 4)).map fun r =>
    let ix := unlinear [d.nk 1, d.ext 2, d.ext 3, d.ext 4] r
    (a.eb + 64 * ((List.range 4).map fun k => d.str (k + 1) * tget 0 ix k).foldl (· + ·) 0, d.e0)
  vals ++ (if d.layout = 2 then [(d.sbase, d.rows * d.scaleRow)] else [])

/-- An operand with the byte ranges (address and length) that are read of it. -/
abbrev ArgRd := Arg × List (Nat × Nat)

/-- An operand read whole. -/
def Arg.whole (a : Arg) : ArgRd := (a, a.rows)

/-- The device-memory lines of byte ranges of a SPACE 0 operand. -/
def readLines (q : Partition) (r : ArgRd) : List Nat :=
  if r.1.d.space = 0 then (r.2.flatMap fun r => (linesOf r.1 r.2).map fun l => q.da (64 * l) / 64) else []

/-- The device-memory lines of a SPACE 0 operand. -/
def Arg.daLines (q : Partition) (a : Arg) : List Nat := readLines q a.whole

/-- The cluster whose scratchpad an operand addresses. -/
def Arg.owner (q : Partition) (g : Nat) (a : Arg) : Nat := if a.d.space = 2 then q.glob a.d.rclus else g

/-- A byte reader for an operand. -/
def Arg.reader (s : State) (p g : Nat) (a : Arg) : Nat → Byte :=
  if a.d.space = 0 then fun x => s.rdPa p x
  else
    let m := (s.clu (a.owner (s.part p) g)).sp
    fun x => spGet 0 m x

/-- The elements of an operand in linear order. -/
def Arg.read (s : State) (p g : Nat) (a : Arg) : List El := a.d.readAll (a.reader s p g) a.eb

/-- The indices of an index tensor, signed, with their codes (R204, R223). -/
def Arg.indices (s : State) (p g : Nat) (idx : Arg) : List (Int × Nat) :=
  (idx.read s p g).map fun e => (signed 32 e.code, e.code)

/-- How many indices, from the first, lie in a range. -/
def goodIndices (l : List (Int × Nat)) (limit : Nat) : Nat :=
  (l.takeWhile fun i => decide (0 ≤ i.1) && decide (i.1 < (limit : Int))).length

/-- The byte ranges of one row of an operand, its masked bytes with it: in a BLOCKED tensor the tile rows up to the end of its
last outer tile, in SCALED_SEP the value row and the scale row, else the whole lines of the row (R129 to R132, R139). -/
def Arg.rowRange (a : Arg) (ix : List Nat) : List (Nat × Nat) :=
  let d := a.d
  let v (i : Nat) : Nat × Nat := d.addr a.eb (i :: ix.drop 1)
  match d.layout with
  | 1 => (List.range (ceilDiv (d.ext 0) (d.u0 * d.t0) * d.u0)).map fun j => ((v (j * d.t0)).1, d.t0 * d.bw)
  | 2 => [((v 0).1, d.e0), ((v 0).2, d.scaleRow)]
  | 3 => [((v 0).2, d.e0)]
  | _ => [((v 0).1, d.e0)]

/-- The byte ranges of the rows of an operand whose index along d1 is among those given. -/
def Arg.rowRanges (a : Arg) (rows : List Nat) : List (Nat × Nat) :=
  (List.range a.d.rows).flatMap fun r =>
    let ix := unlinear a.d.exts (r * a.d.ext 0)
    if rows.contains (tget 0 ix 1) then a.rowRange ix else []

/-- What an operation reads of its sources: all of them, but of a source whose rows an index tensor picks the rows that good
indices name (GATH, GATP), and of SCAT's source the rows before a bad index (R204, R223). Masked bytes are read with the
rest: R139 says so of loads and permutes, and the model has it so for stores, reductions and chains too (assumption 14,
DESIGN CHOICE). -/
def readsOf (s : State) (p g : Nat) (op : Op) (args : List Arg) : List ArgRd :=
  match op, args with
  | .gath, [src, idx, _] | .gatp, [src, idx, _] =>
    let l := idx.indices s p g
    [(src, src.rowRanges ((l.take (goodIndices l (src.d.ext 1))).map fun i => i.1.toNat)), idx.whole]
  | .scat, [src, idx, dst] =>
    [(src, src.rowRanges (List.range (goodIndices (idx.indices s p g) (dst.d.ext 1)))), idx.whole]
  | _, _ => (args.filter (!·.o.dest)).map Arg.whole

/-- A range of bytes and a scratchpad word meet. -/
def hitsWord (r : Nat × Nat) (a : Nat) : Bool := decide (r.1 / 32 ≤ a / 32) && decide (a / 32 ≤ (r.1 + r.2 - 1) / 32)

/-- The error an engine meets in reading its sources: poisoned lines, scratchpad words, parity (R342, R343, R438). -/
def readErr (s : State) (h : Head) (g st : Nat) (obs : HwObs) (srcs : List ArgRd) : Option HwErr :=
  let q := s.part h.p
  match (srcs.flatMap (readLines q)).findSome? (s.lineErr h st) with
  | some e => some e
  | none =>
    let hit := srcs.findSome? fun a => if a.1.d.space = 0 then none else
      (obs.spUe.find? fun u => u.1 == a.1.owner q g && a.2.any fun r => hitsWord r u.2).map fun u => (u, a.1.d.space)
    match hit with
    | some (u, spc) => some (h.err st 0x02 0x02 u.2 1 (u.1 / 12) (if spc = 2 then q.rel u.1 else 0xFF))
    | none => if obs.parity then some (h.err st 0x02 0x03 0 2 (g / 12) 0xFF) else none

/-- Cells written to the space of an operand. -/
def State.wrArg (s : State) (p g : Nat) (a : Arg) (cells : List Host.Cell) : State :=
  if a.d.space = 0 then s.wrPa p cells
  else
    let c := a.owner (s.part p) g
    (s.land (some c) (cells.map (·.1))).updClu c fun k => { k with sp := cells.foldl (fun m c => spSet 0 m c.1 c.2) k.sp }

/-- The lines that the value array and the scale array of a SCALED_SEP operand share. -/
def Arg.contested (a : Arg) : List Nat :=
  if a.d.layout = 2 then
    let scales := linesOf a.d.sbase (a.d.rows * a.d.scaleRow)
    (a.rows.dropLast.flatMap fun r => linesOf r.1 r.2).filter scales.contains
  else []

/-- R28, R137: the cells of whole Iris4 blocks, each its scale and its 16 value bytes, in the order in which they land: where
the arrays share a line, which of its two writes is last is free (assumption 2, DESIGN CHOICE). -/
def Arg.settled (a : Arg) (free : Nat) (cells : List Host.Cell) : List Host.Cell :=
  if a.contested.isEmpty then cells
  else
    let scales := (cells.zipIdx.filter fun c => c.2 % 17 == 0).map (·.1)
    let values := (cells.zipIdx.filter fun c => c.2 % 17 != 0).map (·.1)
    (scales.filter fun c => !Config.scaleLast free (c.1 / 64)) ++ values ++
      scales.filter fun c => Config.scaleLast free (c.1 / 64)

/-- Cells of a destination that may be Iris4, written as they settle; a free value taken is taken once. -/
def State.wrSettled (s : State) (p g : Nat) (a : Arg) (cells : List Host.Cell) : State :=
  let t := s.wrArg p g a (a.settled s.free cells)
  if a.contested.isEmpty then t else t.fresh

/-- Rows of an Iris4 destination with the linear positions of their elements. -/
def Desc.rowStarts (d : Desc) : List Nat := (List.range d.rows).map fun r => r * d.ext 0

/-- A list cut into pieces of 32 (fuel bounds the pieces). -/
def groups32 {α : Type} : Nat → List α → List (List α)
  | 0, _ => []
  | f + 1, l => if l.isEmpty then [] else l.take 32 :: groups32 f (l.drop 32)

/-- The cells that elements in linear order make in a destination that is not Iris4. -/
def Arg.cells (a : Arg) (codes : List Nat) : List Host.Cell :=
  codes.zipIdx.flatMap fun c => a.d.elWrites a.eb (unlinear a.d.exts c.2) c.1

/-- The cells of an Iris4 destination packed from values (R109, R110, R139), and what each element counts. -/
def Arg.packCells (a : Arg) (x : ACtx) (vals : List (FV × Cnt)) (rs : List Nat) : List Host.Cell × List Cnt :=
  let d0 := a.d.ext 0
  let rows := (List.range a.d.rows).map fun r =>
    let vs := (vals.drop (r * d0)).take d0
    let ds := (rs.drop (r * d0)).take d0
    let bs := (groups32 (d0 / 32 + 1) vs).zip (groups32 (d0 / 32 + 1) ds) |>.map fun b => packBlock x b.1 b.2
    (a.d.ir4RowWrites a.eb (unlinear a.d.exts (r * d0)) (bs.map fun b => (b.1, b.2.map (·.code))),
     bs.flatMap fun b => b.2.map (·.cnt))
  (rows.flatMap (·.1), rows.flatMap (·.2))

/-- The byte addresses that a write of every element touches (R139). -/
def Arg.touched (a : Arg) : List Nat :=
  if a.d.isIr4 then
    (List.range a.d.rows).flatMap fun r => (a.d.ir4RowWrites a.eb (unlinear a.d.exts (r * a.d.ext 0)) []).map (·.1)
  else (a.cells (List.replicate a.d.count 0)).map (·.1)

/-- A write of some bytes covers a part of the scratchpad word of an address, and so reads the rest of it (R438). -/
def mergesWord (bytes : List Nat) (a : Nat) : Bool :=
  let n := (bytes.filter fun x => x / 32 == a / 32).eraseDups.length
  decide (0 < n) && decide (n < 32)

/-- R438: the uncorrectable word, with its cluster and the space of its operand, that a merging read of destinations meets. -/
def mergeHit (q : Partition) (g : Nat) (obs : HwObs) (dsts : List Arg) : Option ((Nat × Nat) × Nat) :=
  if obs.spUe.isEmpty then none
  else dsts.findSome? fun a => if a.d.space = 0 then none else
    (obs.spUe.find? fun u => u.1 == a.owner q g && mergesWord a.touched u.2).map fun u => (u, a.d.space)

/-- R438: a write of part of a scratchpad word reads the rest of it: the error met there. -/
def destErr (s : State) (h : Head) (g st : Nat) (obs : HwObs) (dsts : List Arg) : Option HwErr :=
  let q := s.part h.p
  (mergeHit q g obs dsts).map fun u => h.err st 0x02 0x02 u.1.2 1 (u.1.1 / 12) (if u.2 = 2 then q.rel u.1.1 else 0xFF)

/-- The value and count of an element read to be packed, after FLUSH (R93, R109). -/
def packValue (x : ACtx) (f : Fmt) (c : Nat) : FV × Cnt :=
  if f.isInt then
    let v := signed f.width c
    (.fin (decide (v < 0)) v.natAbs 0, {})
  else flushIn x.eff f (decodeF f c)

/-- Conversion of elements from a source to a destination of the same linear order, with tallies and draws (R83, R87,
R111, R123, R203, R227): the cells, the counts. Iris4 elements that are packed afresh are FP32 values first (R222, R522). -/
def convertAll (x : ACtx) (src : Desc) (dst : Arg) (els : List El) (rs : List Nat) : List Host.Cell × List Cnt :=
  match src.format, dst.d.format with
  | some sf, some df =>
    if dst.d.isIr4 then
      dst.packCells x (els.map fun e =>
        if sf = .ir4 then packValue x .fp32 (convertIr4 x .fp32 e.scale e.code 0).code else packValue x sf e.code) rs
    else
      let res := (els.zip (rs ++ List.replicate els.length 0)).map fun e =>
        if sf = .ir4 then convertIr4 x df e.1.scale e.1.code e.2 else convert x sf df e.1.code e.2
      (dst.cells (res.map (·.code)), res.map (·.cnt))
  | _, _ => ([], [])

/-- A conversion consumes draws under RSTO (R87). -/
def consumes (x : ACtx) (src dst : Desc) : Bool :=
  x.eff.round == .rsto &&
  (match src.format, dst.format with | some a, some b => b == .ir4 && a != .ir4 || convDraws a b | _, _ => false)

end Sys2Proof.Machine
end

