-- ==== Sys2Proof/Machine/Fetch.lean ====
section
/-! DEFINITION. The fetch units (R23, R26, R153): what a stream has fetched ahead of its issue point, where it stops, and the
instruction cache it reads through. Fetch runs as far as it can whenever it can (assumption 25, DESIGN CHOICE). -/

namespace Sys2Proof.Machine

/-- At the end of a loop body the unrolled loop repeats or is left (R153). -/
def fetchNext : Nat → FetchSt → Nat → FetchSt
  | 0, f, pc => { f with pc := pc }
  | n + 1, f, pc =>
    match f.loops with
    | (l, k) :: r =>
      if l.stop = pc then
        if k ≤ 1 then fetchNext n { f with loops := r } pc else { f with pc := l.start, loops := (l, k - 1) :: r }
      else { f with pc := pc }
    | [] => { f with pc := pc }

/-- R153: a long word enters the decoded queue; fetch goes on behind it, into an immediate loop, or stops. -/
def FetchSt.take (f : FetchSt) (w : LW) (op : Op) : FetchSt :=
  let f := { f with q := f.q ++ [f.pc] }
  match op with
  | .fin | .br => { f with off := true }
  | .loop =>
    if w.b 0 29 then { f with off := true }
    else
      let body := f.pc + w.len
      let stop := body + 4 * w.f 1 17 0
      if w.f 0 19 0 = 0 then fetchNext 5 f stop
      else { f with pc := body, loops := (⟨w.f 0 31 30, body, stop⟩, w.f 0 19 0) :: f.loops }
  | _ => fetchNext 5 f (f.pc + w.len)

/-- The decoded queue has room (R26): every long word fetched and not issued is in it, so its 256 entries bind before the
512 long words ahead do. -/
def FetchSt.open (f : FetchSt) : Bool := !f.off && decide (f.q.length < 256)

/-- What the fetch unit of a stream reads: the slot its launch is bound to, the place of the stream in it, a reader of the
slot's bytes (R251). -/
def State.fetchFrom (s : State) (g st : Nat) : Option (Bool × Nat × ImgRd) :=
  match s.ownerG g with
  | none => none
  | some p =>
    match (s.part p).run with
    | none => none
    | some r =>
      let rd := s.img p r.la.b
      some (r.la.b, (ImgHdr.stream (ImgHdr.parse rd) rd (5 * (s.part p).rel g + st)).1, rd)

/-- Fetch runs while the lines are in the instruction cache (fuel bounds the long words). -/
def fetchRun (has : Nat → Bool) (rd : ImgRd) (base st : Nat) : Nat → FetchSt → FetchSt
  | 0, f => f
  | n + 1, f =>
    if !f.open then f
    else
      let w := LW.parse (rd32 rd) (base + f.pc)
      match Op.decode st w.code with
      | none => f
      | some o => if (linesOf (base + f.pc) w.len).all has then fetchRun has rd base st n (f.take w o) else f

/-- The fetch unit of a stream runs. -/
def State.fetch (s : State) (g st : Nat) : State :=
  s.updStr g st fun t => match s.fetchFrom g st with
    | none => t
    | some (b, base, rd) =>
      { t with fetch := fetchRun (fun l => (s.clu g).icache.contains (b, l)) rd base st 256 t.fetch }

/-- All five fetch units of a cluster run. -/
def State.fetchAll (s : State) (g : Nat) : State := (List.range 5).foldl (fun s st => s.fetch g st) s

/-- The line that a fetch unit waits for: its slot, its number there (R26, R153). -/
def State.fetchWant (s : State) (g st : Nat) : Option (Bool × Nat) :=
  match s.fetchFrom g st with
  | none => none
  | some (b, base, rd) =>
    let f := (s.str g st).fetch
    if f.open then
      ((linesOf (base + f.pc) (LW.parse (rd32 rd) (base + f.pc)).len).find? fun l => !(s.clu g).icache.contains (b, l)).map
        fun l => (b, l)
    else none

/-- Fetch takes up the issue point: nothing is decoded, and the loops that run have the iterations their counters hold. -/
def StreamSt.refetch (t : StreamSt) : StreamSt :=
  { t with fetch := { q := [], pc := t.pc, loops := t.loops.map fun f => (f, (tget 0 t.l f.lc).toNat), off := t.ended } }

/-- The head of the decoded queue has issued; with nothing behind it, fetch goes on from the issue point (R153). -/
def StreamSt.unqueue (t : StreamSt) (op : Op) : StreamSt :=
  let t := { t with fetch := { t.fetch with q := t.fetch.q.drop 1 } }
  if t.fetch.q.isEmpty && op != .fin then t.refetch else t

/-! ## The instruction cache: 64 KiB, 8 ways, lines of 64 bytes (R23, R26) -/

/-- Two lines lie in one of the 128 sets; which line lies in which set is free. -/
def sameSet (a b : Bool × Nat) : Bool := Config.icacheSet a.1 a.2 % 128 == Config.icacheSet b.1 b.2 % 128

/-- A line enters the cache; where its set is full, a free choice among the eight lines of the set leaves it. -/
def Cluster.icacheAdd (k : Cluster) (free : Nat) (e : Bool × Nat) : Cluster :=
  if k.icache.contains e then k
  else
    let set := k.icache.filter (sameSet e)
    if k.icache.length < 8 || set.length < 8 then { k with icache := e :: k.icache }
    else { k with icache := e :: k.icache.erase (tget e set (Config.icacheWay free % set.length)) }

end Sys2Proof.Machine
end

