-- ==== Sys2Proof/Machine/Issue.lean ====
section
/-! DEFINITION. Issue and completion of long words: the region scoreboard, tokens, remote grants, the order of a stream and
its loops, breaks (R150 to R166, R233, R262). -/

namespace Sys2Proof.Machine

/-! ## The region scoreboard (R154 to R158) -/

/-- What a long word does to one region. -/
inductive RUse where
  | read | consume | fill | update
  deriving DecidableEq, Repr

/-- The uses of a read declaration's mode; PEEK uses nothing (R161). -/
def readUse (d : Decl) : Option RUse := if d.mode = 0 then some .read else if d.mode = 1 then some .consume else none

/-- The regions a set of declarations uses, each with its use; READ beside UPDATE is UPDATE alone (R158). -/
def usesOf (reads : List Decl) (write : Option Decl) : List (Nat × RUse) :=
  let w : List (Nat × RUse) := match write with
    | some d => (List.range (d.last + 1 - d.first)).map fun i => (d.first + i, if d.mode = 1 then .update else .fill)
    | none => []
  let r : List (Nat × RUse) := reads.flatMap fun d => match readUse d with
    | some u => (List.range (d.last + 1 - d.first)).map fun i => (d.first + i, u)
    | none => []
  r.filter (fun u => !(w.any fun v => v.1 == u.1 && v.2 == .update && u.2 == .read)) ++ w

/-- A region admits a use (R155). -/
def RUse.admits (u : RUse) (r : Region) : Bool :=
  match u with
  | .fill => r.st == .empty
  | .read | .consume => r.st == .full
  | .update => r.st == .full && r.n == 0

/-- The issue event (R155). -/
def RUse.issue (u : RUse) (r : Region) : Region :=
  match u with
  | .fill | .update => { r with st := .filling }
  | .read => { r with n := r.n + 1 }
  | .consume => { st := .draining, n := r.n + 1 }

/-- The completion event (R155). -/
def RUse.complete (u : RUse) (r : Region) : Region :=
  match u with
  | .fill | .update => { st := .full, n := 0 }
  | .read | .consume =>
    { st := if r.st = .draining ∧ r.n ≤ 1 then .empty else r.st, n := r.n - 1 }

/-- Every region admits its use (R156). -/
def Cluster.admits (k : Cluster) (us : List (Nat × RUse)) : Bool := us.all fun u => u.2.admits (spGet {} k.regions u.1)

def Cluster.regionIssue (k : Cluster) (us : List (Nat × RUse)) : Cluster :=
  { k with regions := us.foldl (fun m u => spSet {} m u.1 (u.2.issue (spGet {} m u.1))) k.regions }

def Cluster.regionComplete (k : Cluster) (us : List (Nat × RUse)) : Cluster :=
  { k with regions := us.foldl (fun m u => spSet {} m u.1 (u.2.complete (spGet {} m u.1))) k.regions }

/-- The declaration slot that is remote for an operation (R159, R188). -/
def Op.remoteSlot : Op → Option Nat
  | .ldx => some 10 | .stx => some 12 | _ => none

/-- The remote operand's cluster and declaration, where its descriptor is in the table (R159, R160). -/
def Head.remote (h : Head) : Option (Nat × Decl) :=
  match h.op.remoteSlot with
  | none => none
  | some k =>
    match h.op.opnds.find? (fun o => o.space == 2), h.lw.decl k with
    | some o, some d =>
      let dr := h.lw.dref o
      if dr.ind then none else some ((h.hdr.desc h.rd dr.didx).rclus, d)
    | _, _ => none

/-- The uses of the local declarations (R154, R161). -/
def localUses (o : Op) (w : LW) : List (Nat × RUse) :=
  if w.noscore then []
  else
    let slot (k : Nat) : Option Decl := if o.remoteSlot == some k then none else w.decl k
    usesOf ([slot 10, slot 11].filterMap id) (slot 12)

/-- The uses of one remote declaration: a read of slot 10, a write of slot 12. -/
def remoteUses (o : Op) (d : Decl) : List (Nat × RUse) :=
  if o.remoteSlot == some 12 then usesOf [] (some d) else usesOf [d] none

/-! ## The order of a stream (R233, R234) -/

/-- Where a stream goes after reaching an offset: at the end of a loop body the counter falls, and the body repeats or is
left (R233). -/
def loopNext : Nat → StreamSt → Nat → StreamSt
  | 0, t, pc => { t with pc := pc }
  | n + 1, t, pc =>
    match t.loops with
    | f :: r =>
      if f.stop = pc then
        let v := tget 0 t.l f.lc - 1
        let t := { t with l := t.l.set f.lc v }
        if v = 0 then loopNext n { t with loops := r } pc else { t with pc := f.start }
      else { t with pc := pc }
    | [] => { t with pc := pc }

/-- The stream moves past its long word. -/
def StreamSt.advance (t : StreamSt) (len : Nat) : StreamSt := loopNext 5 t (t.pc + len)

/-! ## Issue (R150, R162, R163) -/

/-- A stream may issue under the stop state of the launch (R263, R264). -/
def Running.mayIssue (r : Running) (rel st : Nat) : Bool :=
  match r.stop with
  | .running => true
  | .stopping hit others => others && !hit.contains (rel, st)
  | .stopped (some (c, s, n)) => c == rel && s == st && decide (n ≥ 1)
  | .stopped none => false

/-- The wait and signal of a sync slot (R183). -/
def LW.waitTok (w : LW) : Option Nat := if w.b 13 31 then some (w.f 13 30 25) else none
def LW.sigTok (w : LW) : Option (Nat × Nat) := if w.b 13 24 then some (w.f 13 23 18, w.f 13 17 10) else none

/-- The wait token is satisfied. -/
def Cluster.waitOk (k : Cluster) (w : LW) : Bool :=
  match w.waitTok with | some t => decide (tget 0 k.tokens t ≠ 0) | none => true

/-- R150 without the remote grant: what an engine checks before it asks for one (R159). -/
def localReady (s : State) (h : Head) (g st : Nat) : Bool :=
  let k := s.clu g
  let t := k.str st
  h.run.mayIssue h.rel st && (s.part h.p).stat == .up && s.dev.dfault.isNone &&
  t.fetch.q.head? == some h.pc &&
  decide (t.flight.length < 4) && k.waitOk h.lw && k.admits (localUses h.op h.lw) &&
  (h.op != .sync || t.flight.isEmpty) && !(st == 4 && t.flight.any fun f => f.op == .fence)

/-- R150: the long word at the head issues now. -/
def ready (s : State) (h : Head) (g st : Nat) : Bool :=
  localReady s h g st && (h.lw.noscore || h.remote.isNone || (s.str g st).grant.isSome)

/-- A break is one that the k-th issue of a stream triggers (R262). -/
def Brk.counts (rel st k : Nat) : Brk → Bool
  | .count c s n => c == rel && s == st && n == k
  | .tag _ => false

/-- A break of R262 that the k-th issue of a stream triggers. -/
def breakHit (q : Partition) (rel st k : Nat) : Bool := q.breaks.any (Brk.counts rel st k)

/-- A debug verb or break is permitted for a launch (R261). -/
def State.dbgOk (s : State) (q : Partition) (debug : Bool) : Bool := s.fuses.debug || (!q.locked && debug)

/-- A break triggers: the stream stops; the others stop at their next boundary, or stand already where a step ran (R263,
R264). -/
def StopSt.trigger (rel st : Nat) : StopSt → StopSt
  | .running => .stopping [(rel, st)] true
  | .stopping hit others => .stopping (hit ++ [(rel, st)]) others
  | .stopped _ => .stopping [(rel, st)] false

def State.trigger (s : State) (p rel st : Nat) : State :=
  s.updPart p fun q => { q with run := q.run.map fun r => { r with stop := r.stop.trigger rel st } }

/-- A signal leaves for its target (R162). -/
def State.signal (s : State) (p g : Nat) (w : LW) : State :=
  match w.sigTok with
  | some (t, c) => s.updPart p fun q => { q with signals := q.signals ++ [(if c = 255 then g else q.glob c, t)] }
  | none => s

/-- A cluster at the issue of a long word: scoreboard, wait token, event counters that count issues (R156, R162, R169). -/
def Cluster.issueLw (k : Cluster) (h : Head) (st : Nat) : Cluster :=
  let k := k.regionIssue (localUses h.op h.lw)
  { k with
    tokens := match h.lw.waitTok with | some tk => k.tokens.modify tk (· - 1) | none => k.tokens
    e := k.e.map fun c => if c.mode = .issue st then { c with v := c.v + 1 } else c }

/-- The entry of a long word in flight. -/
def Head.flight (h : Head) (t : StreamSt) (waits : Waits) : Flight :=
  { op := h.op, off := h.pc, lw := h.lw, remote := if h.lw.noscore then none else t.grant, waits := waits }

/-- A stream at the issue of its long word: counted, in flight, its remote grant taken (R151, R159). -/
def StreamSt.issueLw (t : StreamSt) (h : Head) (waits : Waits) : StreamSt :=
  { t with issued := t.issued + 1, flight := t.flight ++ [h.flight t waits], asked := false, grant := none }

/-- A step is one long word nearer to its end (R264). -/
def StopSt.stepped (x : StopSt) : StopSt :=
  match x with
  | .stopped (some (c, e, m)) => if m ≤ 1 then .stopping [(c, e)] false else .stopped (some (c, e, m - 1))
  | y => y

/-- What the n-th issue of a stream does to a launch's steps and breaks: every break that names it triggers and disarms,
also during a step or while the partition stops (R262 to R264). -/
def State.issueStop (s : State) (h : Head) (st n : Nat) : State :=
  let q := s.part h.p
  if breakHit q h.rel st n && s.dbgOk q h.run.debug then
    (s.updPart h.p fun q => { q with breaks := q.breaks.filter fun b => !b.counts h.rel st n }).trigger h.p h.rel st
  else
    match h.run.stop with
    | .stopped (some _) => s.updPart h.p fun q => { q with run := q.run.map fun r => { r with stop := h.run.stop.stepped } }
    | _ => s

/-- The issue of a long word, its operation's own effect apart (R150, R153, R156, R162, R169, R262, R264). `adv` moves the
stream on; fetch follows. -/
def issueWith (s : State) (h : Head) (g st : Nat) (waits : Waits) (adv : StreamSt → StreamSt) : State :=
  let n := (s.str g st).issued + 1
  let s := (s.updClu g fun k => k.issueLw h st).updStr g st fun t => (adv (t.issueLw h waits)).unqueue h.op
  let s := s.fetch g st
  let s := if h.op = .sync then s.signal h.p g h.lw else s
  s.issueStop h st n

/-- The issue of a long word after which the stream goes on to the next one. -/
def issueCommon (s : State) (h : Head) (g st : Nat) (waits : Waits) : State :=
  issueWith s h g st waits fun t => t.advance h.lw.len

/-- The clusters and streams that issue an operation: the head of the stream is that operation and may issue. -/
def withHead (s : State) (g st : Nat) (op : Op) (f : Head → State) : State :=
  match s.head g st with
  | some h => if h.op = op ∧ ready s h g st then f h else s
  | none => s

/-- Corrected scratchpad words are counted in the cluster whose scratchpad it was, which is the own one or that of a remote
operand (R437, R463). -/
def State.spSeen (s : State) (clus : List Nat) (obs : HwObs) : State :=
  (obs.spCe.filter clus.contains).foldl (fun s c => s.updClu c fun k => { k with spce := satAdd 0xFFFFFFFF k.spce 1 }) s

/-- The state after a long word's operands are read: errors met and corrected ones are counted (R341, R342). -/
def State.seen (s : State) (clus : List Nat) (obs : HwObs) (lines : List Nat) : State :=
  (s.observe obs lines).spSeen clus obs

/-- The clusters whose scratchpads an operation reads or writes. -/
def Partition.clusOf (q : Partition) (g : Nat) (args : List Arg) : List Nat := g :: args.map (Arg.owner q g)

/-- The device-memory lines that an operation touches at issue: those it reads and those it writes, but the lines that a PUT
writes are another device's. -/
def touchedLines (s : State) (p g : Nat) (op : Op) (args : List Arg) : List Nat :=
  (readsOf s p g op args).flatMap (readLines (s.part p)) ++
    if op == .put then [] else (args.filter (·.o.dest)).flatMap (·.daLines (s.part p))

/-- An RLY whose source names no shard map (R219). -/
def noShardMap (op : Op) (args : List Arg) : Bool := op == .rly && (args.head?.map fun a => a.d.shard == noShard).getD false

/-- An operand with the byte addresses that are written of it. -/
abbrev ArgWr := Arg × List Nat

/-- A destination written whole. -/
def Arg.full (a : Arg) : ArgWr := (a, a.touched)

/-- The bytes that a long word has written, as they stood in `s`, before it; a line that is still poisoned took none of them
(R342). -/
def oldBytes (s t : State) (p g : Nat) (ws : List ArgWr) : List OldByte :=
  ws.flatMap fun w =>
    if w.1.d.space = 0 then
      let das := (w.2.map (s.part p).da).filter fun a => (t.cause (a / 64)).isNone
      das.map fun a => ⟨none, a, s.rdDa a, s.cause (a / 64)⟩
    else
      let c := w.1.owner (s.part p) g
      w.2.map fun a => ⟨some c, a, spGet 0 (s.clu c).sp a, none⟩

/-- `t` is `s` after a long word in flight has written: what it wrote is kept until it completes, beside what was kept in `s`
(R446). -/
def State.keep (t s : State) (p g st n : Nat) (ws : List ArgWr) : State :=
  { t with undo := s.undo ++ [⟨g, st, n, oldBytes s t p g ws⟩] }

/-- What a long word wrote at its issue is kept while it is in flight; one that did not issue leaves nothing. -/
def State.remember (t s : State) (p g st : Nat) (ws : List ArgWr) : State :=
  if (t.str g st).issued = (s.str g st).issued then t else t.keep s p g st (t.str g st).issued ws

/-- What a long word in flight, which waits for its result, has written is kept until it completes. -/
def State.keepLate (t s : State) (p g st : Nat) (ws : Waits) (dsts : List Arg) : State :=
  let u := s.str g st
  match u.flight.findIdx? fun f => f.waits == ws with
  | some i => t.keep s p g st (u.issued + 1 + i - u.flight.length) (dsts.map Arg.full)
  | none => t

/-- R437: the residue checks sit in the vector and the reduce engine. -/
def checkedEngine (st : Nat) : Bool := st == 1 || st == 2

/-- The state after the descriptors in memory are read (R125, R341, R342). -/
def State.readDescs (s : State) (h : Head) (g st : Nat) (op : Op) (obs : HwObs) : State :=
  s.observe obs (s.descLines h g st op.opnds)

/-- The lines that the operands touch beside those of their descriptors. -/
def State.argLines (s : State) (h : Head) (g st : Nat) (op : Op) (args : List Arg) : List Nat :=
  (touchedLines s h.p g op args).filter fun l => !(s.descLines h g st op.opnds).contains l

/-- The state after the operands are read. -/
def State.readArgs (s : State) (h : Head) (g st : Nat) (op : Op) (obs : HwObs) (args : List Arg) : State :=
  s.seen ((s.part h.p).clusOf g args) obs (s.argLines h g st op args)

/-- The destinations that a long word writes at its issue; a PUT's is another device's, and those of an XRED or an RLY are
written when their result comes. -/
def destsOf (op : Op) (args : List Arg) : List Arg :=
  args.filter fun a => a.o.dest && !(op == .put || op == .xred || op == .rly)

/-- What a long word writes of its destinations at its issue: all of them, but of SCAT's the rows that its indices name
(R223). -/
def writesOf (s : State) (p g : Nat) (op : Op) (args : List Arg) : List ArgWr :=
  match op, args with
  | .scat, [_, idx, dst] =>
    let rows := dst.rowRanges ((idx.indices s p g).map fun i => i.1.toNat)
    [(dst, dst.touched.filter fun x => rows.any fun r => decide (r.1 ≤ x) && decide (x < r.1 + r.2))]
  | _, _ => (destsOf op args).map Arg.full

/-- An operation whose operands are named by descriptors: it resolves them, or faults at issue with nothing moved (R138,
R144, R160, R250, R252, R523). A line that the host may hold, a descriptor's among them, is back-invalidated first (R47,
R349). -/
def withArgs (s : State) (g st : Nat) (op : Op) (obs : HwObs) (f : Head → List Arg → State → State) : State :=
  withHead s g st op fun h =>
    let held := s.snooped (s.descLines h g st op.opnds)
    if !held.isEmpty then s.biAsk held
    else
      let r := s.readDescs h g st op obs
      match resolveAll r h g st op.opnds with
      | .error e => r.latch h.p e
      | .ok args =>
        match lateChecks r h g st args with
        | some e => r.latch h.p e
        | none =>
          match (if noShardMap op args then some (4, noShard) else shardFault (r.part h.p) h args) with
          | some (d, a) => r.latch h.p (h.err st 0x0A 0x01 a 2 (g / 12) d)
          | none =>
            let held := s.snooped (r.argLines h g st op args)
            if !held.isEmpty then s.biAsk held
            else
              let t := r.readArgs h g st op obs args
              match readErr t h g st obs (readsOf t h.p g op args) with
              | some e => t.latch h.p e
              | none =>
                match destErr t h g st obs (destsOf op args) with
                | some e => t.latch h.p e
                | none =>
                  let u := t.suspect h.p g (obs.suspect && checkedEngine st)
                  (f h args u).remember u h.p g st (writesOf u h.p g op args)

/-! ## Completion (R151, R157, R164) -/

/-- The oldest long word in flight waits for nothing from elsewhere but, an RLY, its roots (R401). -/
def Flight.ripe (f : Flight) : Bool :=
  match f.waits with | .nothing | .earlier | .line _ | .rly _ _ => true | _ => false

/-- What the oldest long word in flight of a stream wrote is written for good, and so is what older ones wrote there before it
(R446, assumption 8); the list is oldest first. -/
def settleUndo (g st n : Nat) : List Undo → List Undo
  | [] => []
  | e :: r =>
    let done (e : Undo) : Bool := e.g == g && e.str == st && decide (e.n ≤ n)
    let later := (r.filter done).flatMap fun d => d.bytes.map fun o => (o.clu, o.adr)
    let rest := settleUndo g st n r
    if done e then rest else { e with bytes := e.bytes.filter fun o => !o.covered later } :: rest

/-- The completion events of a long word: local regions, the release of a remote grant, its signal (R156, R159, R162). -/
def State.retire (s : State) (p g st : Nat) (f : Flight) : State :=
  let u := s.str g st
  let s := { s with undo := settleUndo g st (u.issued + 1 - u.flight.length) s.undo }
  let s := s.updStr g st fun t => { t with flight := t.flight.drop 1 }
  let s := s.updClu g fun k => k.regionComplete (localUses f.op f.lw)
  let s := match f.remote with
    | some (c, d) => s.updClu ((s.part p).glob c) fun k =>
        { k with rels := k.rels ++ [⟨g, st, d⟩] }
    | none => s
  if f.op = .sync then s else s.signal p g f.lw

end Sys2Proof.Machine
end

