-- ==== Sys2Proof/Machine/ControlOps.lean ====
section
/-! DEFINITION. The operations of every stream (R163, R168 to R171, R232 to R236). -/

namespace Sys2Proof.Machine

/-- The outcome of a command of this block: always a next state. -/
abbrev Out := Host.Outcome State Fault Refusal

/-- R232: NOP only issues. -/
def execNop (g : Clu) (st : Strm) (s : State) : Out :=
  .next (withHead s g st .nop fun h => issueCommon s h g st .nothing)

/-- R163: SYNC issues once its stream has nothing in flight, and signals at issue. -/
def execSync (g : Clu) (st : Strm) (s : State) : Out :=
  .next (withHead s g st .sync fun h => issueCommon s h g st .nothing)

/-- R233: the count of a LOOP. -/
def loopCount (t : StreamSt) (w : LW) : Nat :=
  if w.b 0 29 then (tget 0 t.a (w.f 0 28 25)).toNat % 2 ^ 32 else w.f 0 19 0

/-- R233: the stream after a LOOP: into its body, or past it when the count is 0. -/
def loopEnter (w : LW) (t : StreamSt) : StreamSt :=
  let n := loopCount t w
  let lc := w.f 0 31 30
  let body := t.pc + w.len
  let stop := body + 4 * w.f 1 17 0
  let t := { t with l := t.l.set lc (BitVec.ofNat 32 n) }
  if n = 0 then loopNext 5 t stop else { t with pc := body, loops := ⟨lc, body, stop⟩ :: t.loops }

/-- R233: LOOP sets its loop counter and enters its body. -/
def execLoop (g : Clu) (st : Strm) (s : State) : Out :=
  .next (withHead s g st .loop fun h => issueWith s h g st .nothing (loopEnter h.lw))

/-- R171: the value a comparator compares, its low 32 bits. -/
def cmpSource (k : Cluster) (c : Comparator) : BitVec 32 :=
  match c.cls with
  | 0 => (tget 0 (k.str c.str).a c.reg).setWidth 32
  | 1 => tget 0 (k.str c.str).l c.reg
  | 2 => (tget {} k.e c.reg).v
  | _ => (tget {} k.w c.reg).v

/-- R171, R234: a predicate; that of a disabled comparator is false. -/
def Cluster.pred (k : Cluster) (i : Nat) : Bool :=
  match tget none k.q i with
  | none => false
  | some c =>
    let v := cmpSource k c
    match c.rel with
    | 0 => v == c.thr
    | 1 => v != c.thr
    | 2 => v.ult c.thr
    | _ => !v.ult c.thr

/-- R234: the branch is taken. -/
def branchTaken (k : Cluster) (w : LW) : Bool := w.b 0 31 || (k.pred (w.f 0 29 27) != w.b 0 30)

/-- R234: BR goes to its target or to the next long word. -/
def execBr (g : Clu) (st : Strm) (s : State) : Out :=
  .next (withHead s g st .br fun h =>
    let s := s.passTime g
    let taken := branchTaken (s.clu g) h.lw
    issueWith s h g st .nothing fun t =>
      if taken then { t with pc := ((t.pc : Int) + h.lw.brOff).toNat } else t.advance h.lw.len)

/-- R168, R190: the value an AOP writes. -/
def aopValue (t : StreamSt) (w : LW) : BitVec 48 :=
  let imm := tget 0 w.slots 1
  let simm : BitVec 48 := (BitVec.ofNat 32 imm).signExtend 48
  let a := tget 0 t.a (w.f 0 23 20)
  match w.f 0 31 28 with
  | 0 => if w.f 2 15 0 = 0 then simm else BitVec.ofNat 48 (w.f 2 15 0 * 2 ^ 32 + imm)
  | 1 => a + simm
  | 2 => a + tget 0 t.a (w.f 0 19 16)
  | 3 => a <<< imm
  | _ => a * BitVec.ofNat 48 imm

/-- R168: AOP writes one address register of its stream. -/
def execAop (g : Clu) (st : Strm) (s : State) : Out :=
  .next (withHead s g st .aop fun h =>
    (issueCommon s h g st .nothing).updStr g st fun t =>
      { t with a := t.a.set (h.lw.f 0 27 24) (aopValue (s.str g st) h.lw) })

/-- R169, R190: the mode an EOP names. -/
def eopMode (w : LW) : EMode :=
  let arg := w.f 0 20 15
  match w.f 0 24 21 with
  | 1 => .issue arg | 2 => .edge arg | 3 => .cycles | 4 => .stall arg | 5 => .bank | _ => .off

/-- R169: an event counter after an EOP. -/
def eopApply (w : LW) (c : ECount) : ECount :=
  match w.f 0 31 28 with
  | 0 => { c with mode := eopMode w }
  | 1 => { c with v := 0 }
  | _ => { c with v := c.v + BitVec.ofNat 32 (tget 0 w.slots 1) }

/-- R169: EOP sets the mode of, clears or adds to an event counter. Where it sets the ISSUE mode of its own stream, or acts on
a counter in that mode, its own issue counts under the mode before it, and its function acts after that (assumption 14,
DESIGN CHOICE). -/
def execEop (g : Clu) (st : Strm) (s : State) : Out :=
  .next (withHead s g st .eop fun h =>
    (issueCommon (s.passTime g) h g st .nothing).updClu g fun k => { k with e := k.e.modify (h.lw.f 0 27 25) (eopApply h.lw) })

/-- R170: a timer after a TOP. -/
def topApply (w : LW) (t : Timer) : Timer :=
  match w.f 0 31 28 with
  | 0 => { t with run := true }
  | 1 => { t with run := false }
  | _ => { t with v := 0 }

/-- R170: TOP starts, stops or clears a timer. -/
def execTop (g : Clu) (st : Strm) (s : State) : Out :=
  .next (withHead s g st .top fun h =>
    (issueCommon (s.passTime g) h g st .nothing).updClu g fun k => { k with w := k.w.modify (h.lw.f 0 27 26) (topApply h.lw) })

/-- R171, R190: the comparator a QCMP sets; none for CLASS 4. -/
def qcmpOf (st : Nat) (w : LW) : Option Comparator :=
  if w.f 0 26 24 = 4 then none
  else some { rel := w.f 0 28 27, cls := w.f 0 26 24, reg := w.f 0 23 20, str := st, thr := BitVec.ofNat 32 (tget 0 w.slots 1) }

/-- R171: QCMP sets or disables comparator k. -/
def execQcmp (g : Clu) (st : Strm) (s : State) : Out :=
  .next (withHead s g st .qcmp fun h =>
    (issueCommon s h g st .nothing).updClu g fun k => { k with q := k.q.set (h.lw.f 0 31 29) (qcmpOf st h.lw) })

/-- R236, R262: a permitted BRK stops the partition as a count break does; any other acts as NOP. -/
def execBrk (g : Clu) (st : Strm) (s : State) : Out :=
  .next (withHead s g st .brk fun h =>
    let s' := issueCommon s h g st .nothing
    if s.dbgOk (s.part h.p) h.run.debug then s'.trigger h.p h.rel st else s')

/-- R232: no long word of the stream issues after END. -/
def execFin (g : Clu) (st : Strm) (s : State) : Out :=
  .next (withHead s g st .fin fun h => (issueCommon s h g st .nothing).updStr g st fun t => { t with ended := true })

/-! ## Completions, signals and remote regions -/

/-- The 64 bytes DONE writes (R229). -/
def doneLine (w : LW) (rel tag : Nat) : List Byte :=
  leBytes 4 (tget 0 w.slots 1) ++ leBytes 2 rel ++ leBytes 2 tag ++ List.replicate 56 0

/-- R401: REDUCE frames of an RLY still wait at an egress port. -/
def State.rlyQueued (s : State) (p rid : Nat) : Bool :=
  (s.part p).courts.any fun x => (s.port x).egress.any fun f => f.1.cls == 3 && f.1.hop == 0 && bits f.1.c8 15 0 == rid

/-- R401: an RLY has the root of each of its lines, and every frame it sends has left its egress queue. -/
def State.rlyDone (s : State) (p rid : Nat) : Bool :=
  !s.rlyQueued p rid && (s.part p).rlys.all fun r => r.rid != rid || (r.need.isEmpty && r.own.isEmpty)

/-- R396: the registration of an RLY that completes is cleared. -/
def State.rlyClear (s : State) (p rid : Nat) : State :=
  s.updPart p fun q => { q with rlys := q.rlys.filter fun r => r.rid != rid }

/-- R151, R229, R401: the oldest long word in flight of a stream completes when nothing holds it; DONE writes its line now. -/
def execLongWordComplete (g : Clu) (st : Strm) (s : State) : Out :=
  .next (match s.ownerG g, (s.str g st).flight with
    | some p, f :: _ =>
      if !f.ripe then s
      else match f.waits with
        | .rly rid _ => if s.rlyDone p rid then (s.rlyClear p rid).retire p g st f else s
        | .line pa =>
          let q := s.part p
          let held := s.snooped [q.da pa / 64]
          if !held.isEmpty then s.biAsk held
          else
            let tag := match q.run with | some r => r.la.ctx.tag.getD 0 | none => 0
            (s.wrPa p (cellsAt pa (doneLine f.lw (q.rel g) tag))).retire p g st f
        | _ => s.retire p g st f
    | _, _ => s)

/-- R165, R166, R169: `n` signals in transit arrive at a token in one cycle, or overflow it. -/
def execSignalArrive (g : Clu) (t : Fin 64) (n : Nat) (s : State) : Out :=
  .next (match s.ownerG g with
    | some p =>
      let q := s.part p
      let here : Nat × Nat := (g.val, t.val)
      if n = 0 || n > q.signals.count here then s
      else
        let v := (tget 0 (s.clu g).tokens t).toNat + n
        if v > 255 then
          s.latch p { code := 0x06, cluster := q.rel g, stream := 7, unit := 0x03, offset := 0, addr := t, space := 2,
                      court := g / 12, detail := 0 }
        else
          let s := s.updPart p fun q => { q with signals := (List.range n).foldl (fun l _ => l.erase here) q.signals }
          s.updClu g fun k => { k with
            tokens := k.tokens.set t (BitVec.ofNat 8 v)
            e := k.e.map fun c => if c.mode = .edge t then { c with v := c.v + BitVec.ofNat 32 n } else c }
    | none => s)

/-- R157: an engine holds one remote grant at most: another long word in flight has one, or its release is on its way. -/
def State.holdsGrant (s : State) (p g st : Nat) : Bool :=
  (s.str g st).grant.isSome || (s.str g st).flight.any (·.remote.isSome) ||
  (s.part p).clusters.any fun c => (s.clu c).rels.any fun r => r.frm == g && r.str == st

/-- R159: the head of a stream, its local conditions satisfied, asks the remote scoreboard for its declaration. -/
def execRemoteRequest (g : Clu) (st : Strm) (s : State) : Out :=
  .next (match s.head g st with
    | some h =>
      (match h.remote with
       | some (c, d) =>
         let rg := (s.part h.p).glob c
         if localReady s h g st && !h.lw.noscore && !(s.str g st).asked && !s.holdsGrant h.p g st &&
            decide ((s.clu rg).reqs.length < 64) then
           (s.updClu rg fun k => { k with reqs := k.reqs ++ [⟨g, st, d⟩] }).updStr g st fun t => { t with asked := true }
         else s
       | none => s)
    | none => s)

/-- The uses of a queued request: LD asks to read, ST to write (R159). -/
def RemoteReq.uses (r : RemoteReq) : List (Nat × RUse) := if r.str = 4 then usesOf [] (some r.decl) else usesOf [r.decl] none

/-- R159: the first request in the queue whose regions admit it is granted, with the issue event. -/
def execRemoteGrant (g : Clu) (s : State) : Out :=
  .next (match (s.clu g).reqs.findIdx? fun r => (s.clu g).admits r.uses with
    | some i =>
      (match (s.clu g).reqs[i]?, s.ownerG g with
       | some r, some p =>
         (s.updClu g fun k => { k.regionIssue r.uses with reqs := k.reqs.eraseIdx i }).updStr r.frm r.str fun t =>
           { t with grant := some ((s.part p).rel g, r.decl) }
       | _, _ => s)
    | none => s)

/-- R159: the first release on its way to a scoreboard arrives there. -/
def execRemoteRelease (g : Clu) (s : State) : Out :=
  .next (match (s.clu g).rels with
    | q :: r => s.updClu g fun c => { c.regionComplete q.uses with rels := r }
    | [] => s)

/-- R252, R342, R444: the FETCH_ECC error of a line of a slot, met where the line lies or in the instruction cache. -/
def Partition.fetchErr (q : Partition) (s : State) (g pa line : Nat) (again : Bool) : HwErr :=
  { code := 0x07, cluster := q.rel g, stream := 7
    unit := if again then 0x04 else if s.cause line = some .held then 0x05 else 0x06
    offset := 0, addr := pa, space := 0, court := if again then g / 12 else 64 * line / courtBytes, detail := 0 }

/-- A line of a slot is read through the court cache into an instruction cache, and the fetch units run on; an uncorrectable
error faults (R251, R252, R341, R342). -/
def State.icacheRead (s : State) (p g : Nat) (b : Bool) (line : Nat) (obs : HwObs) : State :=
  let q := s.part p
  let pa := q.slotPa b + 64 * line
  let da := q.da pa / 64
  let s := s.observe obs [da]
  if (s.cause da).isSome then s.latch p (q.fetchErr s g pa da false)
  else ((s.updClu g fun k => k.icacheAdd s.free (b, line)).fetchAll g).fresh

/-- The device-memory line of a line of a slot. -/
def Partition.slotLine (q : Partition) (b : Bool) (line : Nat) : Nat := q.da (q.slotPa b + 64 * line) / 64

/-- R26, R153, R251: a line that a fetch unit of the cluster waits for enters the instruction cache; a line that the host may
hold is back-invalidated first (R349). Any other line is not fetched. -/
def execIcacheFill (g : Clu) (b : Bool) (line : Nat) (obs : HwObs) (s : State) : Out :=
  .next (match s.ownerG g with
    | some p =>
      if (s.part p).stat != .up || s.dev.dfault.isSome ||
         !((List.range 5).any fun st => s.fetchWant g st == some (b, line)) then s
      else
        let held := s.snooped [(s.part p).slotLine b line]
        if !held.isEmpty then s.biAsk held else s.icacheRead p g b line obs
    | none => s)

/-- R252: a parity error refetches the line, and the refetch is counted; a second one on the line just refetched faults. -/
def execIcacheParityRefetch (g : Clu) (b : Bool) (line : Nat) (again : Bool) (obs : HwObs) (s : State) : Out :=
  .next (match s.ownerG g with
    | some p =>
      if !(s.clu g).icache.contains (b, line) then s
      else
        let q := s.part p
        let held := s.snooped [q.slotLine b line]
        if !held.isEmpty then s.biAsk held
        else
          let s := s.updClu g fun k => { k with
            icache := k.icache.filter (· != (b, line))
            refetch := if again then k.refetch else satAdd 0xFFFFFFFF k.refetch 1 }
          if again then s.latch p (q.fetchErr s g (q.slotPa b + 64 * line) 0 true) else s.icacheRead p g b line obs
    | none => s)

end Sys2Proof.Machine
end

