-- ==== Sys2Proof/Machine/LoadOps.lean ====
section
/-! DEFINITION. The load engine: LDT, LDS, LDX and GATH (R203, R204), and the moves with conversion that it shares with the
other engines. Data moves when the long word issues. -/

namespace Sys2Proof.Machine

/-- The context of a long word under its NCO (R81). -/
def Head.ctx (h : Head) : ACtx := applyNco h.run.actx (h.lw.nco h.op)

/-- W of R86 on the engine side of a conversion: 512 for 16 bits or narrower, 256 for 32 bits and for Iris4 blocks. -/
def sideRate (d : Desc) : Nat := if d.isIr4 || d.bw > 2 then 256 else 512

/-- The elements of a source in the linear order of a destination of these extents, the one at index ix from `f ix`. -/
def Arg.gather (s : State) (p g : Nat) (src : Arg) (exts : List Nat) (f : List Nat → List Nat) : List El :=
  let rd := src.reader s p g
  (List.range (exts.foldl (· * ·) 1)).map fun e => src.d.readEl rd src.eb (f (unlinear exts e))

/-- Elements converted into a destination, counted and drawn for (R83, R86, R87, R122). -/
def convMove (s : State) (h : Head) (g st w : Nat) (src : Desc) (dst : Arg) (els : List El) : State :=
  let x := h.ctx
  let (rs, s) := s.draws h.p g st w els.length (consumes x src dst.d)
  let (cells, cnts) := convertAll x src dst els rs
  (s.wrSettled h.p g dst cells).count g h.lw.tally cnts

/-- R203: what LDT, LDS and LDX do. -/
def loadBody (g : Nat) (h : Head) (args : List Arg) (s : State) : State :=
  match args with
  | [src, dst] =>
    let els := src.gather s h.p g dst.d.exts (if h.lw.b 1 31 then swap01 else id)
    issueCommon (convMove s h g 0 (sideRate dst.d) src.d dst els) h g 0 .nothing
  | _ => s

/-- R203: LDT loads from partition memory. -/
def execLdt (g : Clu) (obs : HwObs) (s : State) : Out := .next (withArgs s g 0 .ldt obs (loadBody g))

/-- R203: LDS loads from the own scratchpad. -/
def execLds (g : Clu) (obs : HwObs) (s : State) : Out := .next (withArgs s g 0 .lds obs (loadBody g))

/-- R203: LDX loads from the scratchpad of another cluster of the court. -/
def execLdx (g : Clu) (obs : HwObs) (s : State) : Out := .next (withArgs s g 0 .ldx obs (loadBody g))

/-- A descriptor or operand with its extent along d1 cut to n: the rows written before a bad index. -/
def Arg.rows1 (a : Arg) (n : Nat) : Arg := { a with d := { a.d with rank := max a.d.rank 2, d := a.d.d.set 1 n } }

/-- Cells of whole Iris4 blocks laid out for a SCALED_SEP operand cut along d1, with every scale at its place in the whole
operand (R131). -/
def Arg.rescale (full cut : Arg) (cells : List Host.Cell) : List Host.Cell :=
  if full.d.layout = 2 then
    let w := full.d.scaleRow
    cells.zipIdx.map fun c =>
      if c.2 % 17 = 0 then
        let k := c.1.1 - full.d.sbase
        let r := k / w
        (full.d.sbase + (r % cut.d.ext 1 + full.d.ext 1 * (r / cut.d.ext 1)) * w + k % w, c.1.2)
      else c.1
  else cells

/-- The conversion of elements into the rows of a destination that come before a bad index (R204). Under RSTO their draws are
those of elements numbered among the rows written, the destination being cut along d1 (R86; assumption 11, DESIGN CHOICE). -/
def convRows (s : State) (h : Head) (g st w : Nat) (src : Desc) (cut full : Arg) (els : List El) : State :=
  let x := h.ctx
  let (rs, s) := s.draws h.p g st w els.length (consumes x src cut.d)
  let (cells, cnts) := convertAll x src cut els rs
  (s.wrSettled h.p g full (full.rescale cut cells)).count g h.lw.tally cnts

/-- The end of an operation that reads indices: its issue, or the RANGE fault at the first bad index (R204, R223). -/
def afterIndices (s : State) (h : Head) (g st : Nat) (l : List (Int × Nat)) (n : Nat) : State :=
  match l[n]? with
  | some i => s.latch h.p (h.err st 0x04 0x01 i.2 2 (g / 12) 0)
  | none => issueCommon s h g st .nothing

/-- The source index of a gathered row: d1 replaced by the index that d1 of the destination names (R204). -/
def gatherIx (l : List (Int × Nat)) (ix : List Nat) : List Nat := ix.set 1 (tget (0, 0) l (tget 0 ix 1)).1.toNat

/-- R204: what GATH does. -/
def gathBody (g : Nat) (h : Head) (args : List Arg) (s : State) : State :=
  match args with
  | [src, idx, dst] =>
    let l := idx.indices s h.p g
    let n := goodIndices l (src.d.ext 1)
    let full := dst
    let dst := dst.rows1 (min n (dst.d.ext 1))
    let els := src.gather s h.p g dst.d.exts (gatherIx l)
    afterIndices (convRows s h g 0 (sideRate dst.d) src.d dst full els) h g 0 l n
  | _ => s

/-- R204: GATH gathers rows of a tensor in partition memory. -/
def execGath (g : Clu) (obs : HwObs) (s : State) : Out := .next (withArgs s g 0 .gath obs (gathBody g))

end Sys2Proof.Machine
end

