-- ==== Sys2Proof/Machine/Reduction.lean ====
section
/-! DEFINITION. Reductions across clusters and devices: the trees of R105 and R106 over participants, the lines of an RLY
(R395), the reduction slots of a home port (R396 to R401). -/

namespace Sys2Proof.Machine

/-! ## Combining -/

/-- The result of combining codes as leaves in order: 0 sum, 1 maximum, 2 minimum, with the final conversion (R218). -/
def combineCodes (x : ACtx) (fn : Nat) (sf df : Fmt) (codes : List Nat) (r : Nat) : Res :=
  if fn = 0 then
    if sf.isInt then narrowInt x df ((codes.map (signed sf.width)).foldl (· + ·) 0)
    else nodeRes x df (shardSum x (codes.map (decodeF sf))) r
  else ⟨maxminAll x sf (fn == 1) codes, {}⟩

/-- The final conversion of a reduction draws (R87). -/
def rootDraws (x : ACtx) (sum : Bool) (sf df : Fmt) : Bool := sum && !sf.isInt && x.eff.round == .rsto && convDraws .fp32 df

/-- Codes with the flags of those that FLUSH acted on, as a reduction reads its source (R93, R102). -/
def flushCodes (x : ACtx) (f : Fmt) (codes : List Nat) : List Nat × List Bool :=
  if f.isInt then (codes, codes.map fun _ => false)
  else
    let l := codes.map (opnd x.eff f)
    (l.map (·.1), l.map fun r => r.2.2.flush)

/-- The node rounding that members must share: toward zero (R218, R380). -/
def nodeRtz (x : ACtx) : Bool := x.strict && x.eff.round == .rtz

/-- A result at a destination that is no descriptor operand of the moment. -/
def plainArg (d : Desc) (eb : Nat) : Arg := ⟨d, eb, ⟨0, 15, 1, true, false, 12⟩⟩

/-- Results written to a destination of the own scratchpad and counted. -/
def State.putResults (s : State) (p g : Nat) (dst : Arg) (set : Nat) (res : List Res) : State :=
  (s.wrArg p g dst (dst.cells (res.map (·.code)))).count g set (res.map (·.cnt))

/-- R438: the words of the own scratchpad that a result merges into, by an address in each. -/
def Arg.merged (a : Arg) : List Nat := ((a.touched.map (· / 32)).eraseDups.map (32 * ·)).filter (mergesWord a.touched)

/-- What the detectors meet in the merging reads of scratchpad words that no command's detectors speak of is free (R437, R438,
R463; assumption 2, DESIGN CHOICE). -/
def State.freeSp (s : State) (g : Nat) (words : List Nat) : HwObs :=
  { spCe := (words.filter fun w => Config.corrected s.free (w / 32)).map fun _ => g
    spUe := (words.filter fun w => Config.uncorrectable s.free (w / 32)).map fun w => (g, w) }

/-- An uncorrectable word that the merging read of a result in flight meets: the SRAM_UE of its long word (R438, R444). -/
def lateErrOf (s : State) (p g : Nat) (ws : Waits) (word : Nat) : HwErr :=
  { code := 0x02, cluster := (s.part p).rel g, stream := 2, unit := 0x02
    offset := (((s.str g 2).flight.find? fun f => f.waits == ws).map (·.off)).getD 0
    addr := word, space := 1, court := g / 12, detail := 0xFF }

/-! ## The lines of an RLY (R395) -/

/-- The product of extents. -/
def volume (exts : List Nat) : Nat := exts.foldl (· * ·) 1

/-- Lines of one row, and of a whole source, of elements of b bytes. -/
def rowLines (exts : List Nat) (b : Nat) : Nat := ceilDiv (tget 1 exts 0 * b) 64
def rlyLines (exts : List Nat) (b : Nat) : Nat := volume (exts.drop 1) * rowLines exts b

/-- The linear positions of the elements of line L. -/
def lineEls (exts : List Nat) (b l : Nat) : List Nat :=
  let d0 := tget 1 exts 0
  let row := l / rowLines exts b
  let first := l % rowLines exts b * (64 / b)
  (List.range (min (64 / b) (d0 - first))).map fun j => row * d0 + first + j

/-- The line of an element, and its first byte there. -/
def lineAt (exts : List Nat) (b e : Nat) : Nat × Nat :=
  let d0 := tget 1 exts 0
  (e / d0 * rowLines exts b + e % d0 / (64 / b), e % d0 % (64 / b) * b)

/-- The 64 bytes of line L of a source's codes. -/
def lineBytes (exts : List Nat) (b : Nat) (codes : List Nat) (l : Nat) : List Byte :=
  let v := (lineEls exts b l).flatMap fun e => leBytes b (tget 0 codes e)
  v ++ List.replicate (64 - v.length) 0

/-- R219: the part, of S, that holds an element of a reduce-scatter. -/
def partOf (exts : List Nat) (k total e : Nat) : Nat :=
  tget 0 (unlinear exts e) k / ceilDiv (tget 1 exts k) total

/-- Whether part `s` holds an element of line L: `k` is the dimension divided, none for an all-reduce. -/
def partHas (exts : List Nat) (b total : Nat) (k : Option Nat) (s l : Nat) : Bool :=
  match k with
  | none => true
  | some k => (lineEls exts b l).any fun e => partOf exts k total e == s

/-! ## Slots (R398 to R400) -/

/-- Reduction slots of a port. -/
def slotMax : Nat := 256

/-- A child joins its slot or opens one; none where it disagrees with the slot (R399). -/
def joinSlot (c : RSlot) : List RSlot → Option (List RSlot)
  | [] => some [c]
  | t :: r =>
    if t.rid = c.rid ∧ t.epoch = c.epoch ∧ t.line = c.line then
      if t.fmt = c.fmt ∧ t.fn = c.fn ∧ t.kind = c.kind ∧ t.axc = c.axc ∧ t.nrtz = c.nrtz ∧
         !(c.children.any fun a => t.children.any fun b => a.1 == b.1) then
        some ({ t with children := t.children ++ c.children, susp := t.susp || c.susp } :: r)
      else none
    else (joinSlot c r).map (t :: ·)

/-- A slot of a line exists. -/
def Port.hasSlot (q : Port) (c : RSlot) : Bool := q.slots.any fun t => t.rid == c.rid && t.epoch == c.epoch && t.line == c.line

/-- R399: the checks of a slot's children that need the RLY registered here. -/
def RlyReg.agrees (r : RlyReg) (t : RSlot) : Bool :=
  (r.need.contains t.line || (r.rows.any fun w => w.1 == t.line)) &&
  t.children.all fun c => decide (c.1 < r.shard.total) && r.shard.dev[c.1]? == some c.2.1

/-- The RLY registered at port x for a slot. -/
def State.rlyAt (s : State) (p x : Nat) (t : RSlot) : Option RlyReg :=
  (s.part p).rlys.find? fun r => r.rid == t.rid && r.epoch == t.epoch && r.g / 12 == x

/-- A mismatch at the home port (R399, R444). -/
def slotFault (rid x : Nat) : HwErr := errOf 0x0A 0x09 rid 2 x 7

/-- The coordinates of a shard. -/
def RlyReg.coord (r : RlyReg) (s k : Nat) : Nat := tget 0 (unlinear r.shard.p s) k

/-- R144: the shards that take part: their coordinates are this device's in every dimension but the reduced one. (R397 sends
lines to, and R398 waits for, every device of the list; what the others send enters no tree: assumption 15, DEDUCED.) -/
def RlyReg.sharers (r : RlyReg) : List Nat :=
  (List.range r.shard.total).filter fun s => (List.range r.shard.rank).all fun k =>
    k == r.axis || r.coord s k == tget 0 r.shard.c k

/-- The extents of a shard's source: along AXIS, in group form, those of the part that the shard has (R142, R144, R219). -/
def RlyReg.extsOf (r : RlyReg) (s : Nat) : List Nat :=
  if r.axc then
    let l := r.shard.len r.axis
    r.exts.set r.axis (ceilDiv (min l (tget 1 r.shard.g r.axis - r.coord s r.axis * l)) 16)
  else r.exts

/-- The code that a shard holds at an index of its source. -/
def RlyReg.code (r : RlyReg) (b s : Nat) (ix : List Nat) : Nat :=
  let exts := r.extsOf s
  let (l, o) := lineAt exts b (linear exts ix)
  leNat (((tget [] (spGet [] r.rows l) s).drop o).take b)

/-- R219: the index of the source that a destination index is combined from, with AXC = 0; reduce-scatter moves it into the
device's own part. -/
def RlyReg.sourceIx (r : RlyReg) (ix : List Nat) : List Nat :=
  match (if r.kind = 1 then ((List.range r.shard.rank).filter (· != r.axis)).getLast? else none) with
  | some k => ix.set k (tget 0 ix k + r.shard.index * ceilDiv (tget 1 r.exts k) r.shard.total)
  | none => ix

/-- The indices of a shard's source combined into an element of the destination (R219). -/
def RlyReg.indices (r : RlyReg) (s : Nat) (ix : List Nat) : List (List Nat) :=
  if r.axc then (List.range (tget 1 (r.extsOf s) r.axis)).map fun i => ix.set r.axis i else [r.sourceIx ix]

/-- The leaves of a destination element: shard after shard (R106), each shard's axis values in order (R105). -/
def RlyReg.leaves (r : RlyReg) (b : Nat) (ix : List Nat) : List Nat :=
  r.sharers.flatMap fun s => (r.indices s ix).map (r.code b s)

/-- R219: the results of an RLY all of whose lines have their roots. -/
def RlyReg.results (r : RlyReg) (x : ACtx) (sf df : Fmt) : List Res :=
  (List.range r.dst.count).map fun e =>
    let ix := unlinear r.dst.exts e
    (combineCodes x r.fn sf df (r.leaves sf.bytes ix) (tget 0 r.rs e)).also
      { flush := (r.indices r.shard.index ix).any fun j => tget false r.flu (linear r.exts j) }

/-- R398: an RLY whose last root has come writes its results, unless the merging read of a word that they cover in part meets an
uncorrectable error (R438); it stays registered until it completes (R396, R401). -/
def State.rlyFinish (s : State) (p : Nat) (r : RlyReg) : State :=
  match (s.part p).run, Fmt.ofCode r.fmt, r.dst.format with
  | some run, some sf, some df =>
    let dst := plainArg r.dst r.ebase
    let obs := s.freeSp r.g dst.merged
    let s := if dst.merged.isEmpty then s else s.fresh
    let s := s.spSeen [r.g] obs
    (match mergeHit (s.part p) r.g obs [dst] with
     | some u => s.latch p (lateErrOf s p r.g (.rly r.rid r.epoch) u.1.2)
     | none =>
       (s.putResults p r.g dst r.tally (r.results (applyNco run.actx r.nco) sf df)).keepLate s p r.g 2
         (.rly r.rid r.epoch) [dst])
  | _, _, _ => s

/-- R398: a full slot of an RLY registered here emits its root and is free. -/
def State.rlyRoot (s : State) (p x : Nat) (t : RSlot) : State :=
  match s.rlyAt p x t with
  | some r =>
    if t.children.length < r.shard.total || !r.need.contains t.line then s
    else
      let row := (List.range r.shard.total).map fun k => ((t.children.find? fun c => c.1 == k).map (·.2.2)).getD []
      let r' := { r with
        need := r.need.filter (· != t.line), rows := spSet [] r.rows t.line row, counted := r.counted || t.susp }
      let s := s.updPort x fun q => { q with slots := q.slots.filter fun u => u != t }
      let s := s.suspect p r.g (t.susp && !r.counted)
      let s := s.updPart p fun q => { q with rlys := q.rlys.map fun u => if u.rid = r.rid then r' else u }
      if r'.need.isEmpty then s.rlyFinish p r' else s
  | none => s

/-- Every full slot of a port emits its root. -/
def State.rlyCollect (s : State) (p x : Nat) : State := (s.port x).slots.foldl (fun s t => s.rlyRoot p x t) s

/-- The child a REDUCE frame brings (R380). -/
def childOf (f : Frame) (susp : Bool) : RSlot :=
  { rid := bits f.c8 15 0, epoch := bits f.c7 7 6, line := bits f.c8 22 16, fmt := bits f.c7 3 0, fn := bits f.c7 5 4,
    kind := bits f.cx 1 1, axc := bit f.cx 0, nrtz := bit f.cx 2, susp := susp,
    children := [(bits f.c8 28 23, f.src, f.payload)] }

/-- R398, R399: a child reaches its home port: it joins or opens a slot and what is complete is written, or it faults the
partition. -/
def State.child (s : State) (p x : Nat) (c : RSlot) : State :=
  if (s.part p).stat != .up then s
  else
  let bad := match s.rlyAt p x c with | some r => !r.agrees c | none => false
  match (if bad then none else joinSlot c (s.port x).slots) with
  | none => s.latch p (slotFault c.rid x)
  | some slots => (s.updPort x fun q => { q with slots := slots }).rlyCollect p x

/-- A child that finds no free slot and belongs to none (R400). -/
def Port.slotsFull (q : Port) (c : RSlot) : Bool := decide (q.slots.length ≥ slotMax) && !q.hasSlot c

/-- The child that a line of a registered RLY's own makes (R397). -/
def RlyReg.ownChild (r : RlyReg) (l : Nat × List Byte) : RSlot :=
  { rid := r.rid, epoch := r.epoch, line := l.1, fmt := r.fmt, fn := r.fn, kind := r.kind, axc := r.axc, nrtz := r.nrtz
    susp := false, children := [(r.shard.index, tget 0 r.shard.dev r.shard.index, l.2)] }

/-- An own line that waits for a slot of home port x and may take one now (R400). -/
def State.waitingOwn (s : State) (p x : Nat) : Option (RlyReg × (Nat × List Byte)) :=
  (s.part p).rlys.findSome? fun r =>
    if r.g / 12 = x then (r.own.find? fun l => !(s.port x).slotsFull (r.ownChild l)).map fun l => (r, l) else none

/-- A REDUCE frame that waits at a port of the partition for a slot of home port x, with the slot it may now take: the port
and its place there (R400). -/
def State.waitingChild (s : State) (p x : Nat) : Option (Nat × Nat) :=
  let q := s.part p
  q.courts.findSome? fun y => ((s.port y).waitRx.findIdx? fun f => f.1.cls == 3 && q.courts[bits f.1.c8 31 29]? == some x &&
    !(s.port x).slotsFull (childOf f.1 false)).map fun i => (y, i)

/-- R400: own lines and REDUCE frames that waited for a slot take the ones that are free (fuel bounds their number). -/
def retryReduce : Nat → Nat → Nat → State → State
  | 0, _, _, s => s
  | n + 1, p, x, s =>
    match s.waitingOwn p x with
    | some (r, l) =>
      let s := s.updPart p fun q => { q with
        rlys := q.rlys.map fun u => if u.rid = r.rid then { u with own := u.own.erase l } else u }
      retryReduce n p x (s.child p x (r.ownChild l))
    | none =>
      match s.waitingChild p x with
      | some (y, i) =>
        (match (s.port y).waitRx[i]? with
         | some f =>
           let s := (s.updPort y fun q => { q with waitRx := q.waitRx.eraseIdx i }).freeBuf y f.1
           retryReduce n p x (s.child p x (childOf f.1 f.2))
         | none => s)
      | none => s

/-- How many own lines and frames wait for slots at most. -/
def State.waiters (s : State) (p : Nat) : Nat :=
  (((s.part p).rlys.map fun r => r.own.length) ++ (s.part p).courts.map fun y => (s.port y).waitRx.length).foldl (· + ·) 0

/-- A child, and what waited for the slots it frees. -/
def State.childAndRest (s : State) (p x : Nat) (c : RSlot) : State :=
  retryReduce (s.waiters p) p x (s.child p x c)

/-- R397: an RLY places its own lines as children of its home port; those that find no slot wait (R400). -/
def State.placeOwn (s : State) (p x : Nat) (r : RlyReg) (lines : List (Nat × List Byte)) : State :=
  let s := s.updPart p fun q => { q with rlys := q.rlys.map fun u => if u.rid = r.rid then { u with own := lines } else u }
  retryReduce (s.waiters p) p x s

end Sys2Proof.Machine
end

