-- ==== Sys2Proof/Machine/ReduceOps.lean ====
section
/-! DEFINITION. The reduce engine (R213 to R219): sums, extremes, top-k, scans, XRED across clusters and RLY across
devices. -/

namespace Sys2Proof.Machine

/-! ## Reductions along an axis (R213 to R215) -/

/-- The source positions that form a destination element: the whole axis, or one group of 16 (R213). -/
def reducePos (src dst : Desc) (ax : Nat) (ix : List Nat) : List Nat :=
  let n := src.ext ax
  let l := if dst.ext ax = 1 then List.range n
    else (List.range (min 16 (n - 16 * tget 0 ix ax))).map (· + 16 * tget 0 ix ax)
  l.map fun i => linear src.exts (ix.set ax i)

/-- The terms of a floating-point sum, and whether a product of 0 and ∞ made a NaN (R104, R107). -/
def sumTerms (op : Op) (as bs : List FV) : List FV × Bool :=
  let prods (l : List (FV × FV)) : List FV × Bool :=
    let ps := l.map fun p => mulFV p.1 p.2
    (ps.map (·.1), ps.any (·.2))
  match op with
  | .rssq => prods (as.zip as)
  | .rdot => prods (as.zip bs)
  | _ => (as, false)

/-- R214: one sum, written to the destination format. A NaN that a product makes is counted where no source element is a NaN;
one that a node makes of ∞ − ∞ is not: R102 and R107 say that nothing a node does is counted, against R123's words on the result
of an element (assumption 11, DEDUCED). -/
def reduceSum (x : ACtx) (op : Op) (group : Bool) (sf sf2 df : Fmt) (as bs : List Nat) (r : Nat) : Res :=
  if sf.isInt then narrowInt x df ((as.map (signed sf.width)).foldl (· + ·) 0)
  else
    let va := as.map (decodeF sf)
    let vb := bs.map (decodeF sf2)
    let (ts, made) := sumTerms op va vb
    let root := if group then addNode x ts else canonSum x ts
    (nodeRes x df root r).also { nan := made && !(va.any FV.isNan) && !(vb.any FV.isNan) }

/-- R214, R215: the value of one destination element of RSUM, RSSQ, RDOT, RMAX, RMIN, ARGMX and ARGMN. -/
def reduceValue (x : ACtx) (op : Op) (group : Bool) (sf sf2 df : Fmt) (as bs : List Nat) (r : Nat) : Res :=
  match op with
  | .rmax | .argmx => ⟨maxminAll x.eff sf true as, {}⟩
  | .rmin | .argmn => ⟨maxminAll x.eff sf false as, {}⟩
  | _ => reduceSum x op group sf sf2 df as bs r

/-- The codes of a source after FLUSH, with what FLUSH acted on. -/
def Arg.flushed (s : State) (p g : Nat) (x : ACtx) (a : Arg) : List Nat × List Bool :=
  flushCodes x ((a.d.format).getD .fp32) ((a.read s p g).map (·.code))

/-- R213 to R215: a reduction from a source, with a second source for RDOT and an index destination for ARGMX and ARGMN. -/
def reduceBody (g : Nat) (h : Head) (args : List Arg) (s : State) : State :=
  let x := h.ctx
  let ax := h.lw.axis h.op
  let go (src : Arg) (src2 : Option Arg) (dst : Arg) (idst : Option Arg) : State :=
    match src.d.format, dst.d.format with
    | some sf, some df =>
      let sf2 := ((src2.bind fun a => a.d.format)).getD sf
      let (as, fa) := src.flushed s h.p g x
      let (bs, fb) := match src2 with | some a => a.flushed s h.p g x | none => ([], [])
      let sum := h.op == .rsum || h.op == .rssq || h.op == .rdot
      let (rs, s) := s.draws h.p g 2 256 dst.d.count (rootDraws x sum sf df)
      let pick (l : List Nat) (ps : List Nat) : List Nat := if l.isEmpty then [] else ps.map (tget 0 l)
      let pos := (List.range dst.d.count).map fun e => reducePos src.d dst.d ax (unlinear dst.d.exts e)
      let res := pos.zipIdx.map fun p =>
        (reduceValue x h.op (dst.d.ext ax != 1) sf sf2 df (pick as p.1) (pick bs p.1) (tget 0 rs p.2)).also
          { flush := p.1.any fun k => tget false fa k || tget false fb k }
      let s := s.putResults h.p g dst h.lw.tally res
      let s := match idst with
        | some i => s.wrArg h.p g i (i.cells ((pos.zip res).map fun p => argIndex sf p.2.code (pick as p.1)))
        | none => s
      issueCommon s h g 2 .nothing
    | _, _ => s
  match args with
  | [src, dst] => go src none dst none
  | [src, b, c] => if h.op = .rdot then go src (some b) c none else go src none b (some c)
  | _ => s

/-- R214: RSUM. -/
def execRsum (g : Clu) (obs : HwObs) (s : State) : Out := .next (withArgs s g 2 .rsum obs (reduceBody g))
/-- R215: RMAX. -/
def execRmax (g : Clu) (obs : HwObs) (s : State) : Out := .next (withArgs s g 2 .rmax obs (reduceBody g))
/-- R215: RMIN. -/
def execRmin (g : Clu) (obs : HwObs) (s : State) : Out := .next (withArgs s g 2 .rmin obs (reduceBody g))
/-- R214: RSSQ. -/
def execRssq (g : Clu) (obs : HwObs) (s : State) : Out := .next (withArgs s g 2 .rssq obs (reduceBody g))
/-- R214: RDOT. -/
def execRdot (g : Clu) (obs : HwObs) (s : State) : Out := .next (withArgs s g 2 .rdot obs (reduceBody g))
/-- R215: ARGMX. -/
def execArgmx (g : Clu) (obs : HwObs) (s : State) : Out := .next (withArgs s g 2 .argmx obs (reduceBody g))
/-- R215: ARGMN. -/
def execArgmn (g : Clu) (obs : HwObs) (s : State) : Out := .next (withArgs s g 2 .argmn obs (reduceBody g))

/-- The positions of the line of an axis through a position, in order. -/
def axisLine (d : Desc) (ax : Nat) (ix : List Nat) : List Nat := (List.range (d.ext ax)).map fun i => linear d.exts (ix.set ax i)

/-- The shape with extent 1 along an axis: one index for each line along it. -/
def axisHeads (d : Desc) (ax : Nat) : List (List Nat) :=
  let exts := d.exts.set ax 1
  (List.range (exts.foldl (· * ·) 1)).map (unlinear exts)

/-- The order of R100 along every line of an axis, its first `k` positions written as codes and indices (R216, R225). -/
def orderBody (g st k : Nat) (desc : Bool) (ax : Nat) (src dst idst : Arg) (h : Head) (s : State) : State :=
  match src.d.format with
  | some f =>
    let cs := (src.read s h.p g).map (·.code)
    let lines := (axisHeads src.d ax).map fun ix => (ix, (sortCodes f desc ((axisLine src.d ax ix).map (tget 0 cs))).take k)
    let at_ (a : Arg) (pick : Nat × Nat → Nat) : List Host.Cell := lines.flatMap fun l =>
      l.2.zipIdx.flatMap fun c => a.d.elWrites a.eb (l.1.set ax c.2) (pick c.1)
    let s := s.wrArg h.p g dst (at_ dst (·.1))
    let s := s.wrArg h.p g idst (at_ idst (·.2))
    issueCommon s h g st .nothing
  | none => s

/-- R216: TOPK. -/
def execTopk (g : Clu) (obs : HwObs) (s : State) : Out :=
  .next (withArgs s g 2 .topk obs fun h args s =>
    match args with
    | [src, dst, idst] => orderBody g 2 (h.lw.f 1 15 9) (!h.lw.b 1 28) (h.lw.axis .topk) src dst idst h s
    | _ => s)

/-- R217: the prefix sums of one line. -/
def scanLine (x : ACtx) (sf df : Fmt) (as : List Nat) (rs : List Nat) : List Res :=
  if sf.isInt then
    (List.range as.length).map fun i => narrowInt x df (((as.take (i + 1)).map (signed sf.width)).foldl (· + ·) 0)
  else
    (scanAll x (as.map (decodeF sf))).zipIdx.map fun v => nodeRes x df v.1 (tget 0 rs v.2)

/-- R217: what SCAN does. An element counts a flush of any element it sums. -/
def scanBody (g : Nat) (h : Head) (args : List Arg) (s : State) : State :=
  match args with
  | [src, dst] =>
    match src.d.format, dst.d.format with
    | some sf, some df =>
      let x := h.ctx
      let ax := h.lw.axis h.op
      let (as, fa) := src.flushed s h.p g x
      let (rs, s) := s.draws h.p g 2 256 dst.d.count (rootDraws x true sf df)
      let lines := (axisHeads src.d ax).flatMap fun ix =>
        let ps := axisLine src.d ax ix
        let fl := ps.map (tget false fa)
        ps.zip ((scanLine x sf df (ps.map (tget 0 as)) (ps.map (tget 0 rs))).zipIdx.map fun r =>
          r.1.also { flush := (fl.take (r.2 + 1)).any id })
      let res := (List.range dst.d.count).map fun e => ((lines.find? fun l => l.1 == e).map (·.2)).getD ⟨0, {}⟩
      issueCommon (s.putResults h.p g dst h.lw.tally res) h g 2 .nothing
    | _, _ => s
  | _ => s

/-- R217: SCAN. -/
def execScan (g : Clu) (obs : HwObs) (s : State) : Out := .next (withArgs s g 2 .scan obs (scanBody g))

/-! ## XRED (R218) -/

/-- The XREDs with a tag and a count, of those that `f` gives of each of the partition's clusters, by ascending
partition-relative cluster. -/
def State.xmatch (s : State) (p xtag k : Nat) (f : Cluster → List XPart) : List (Nat × XPart) :=
  (s.part p).clusters.flatMap fun g => ((f (s.clu g)).filter fun t => t.xtag == xtag && t.k == k).map fun t => (g, t)

/-- Every XRED of the launch with a tag and a count, whether it waits or has its result. -/
def State.xwith (s : State) (p xtag k : Nat) : List (Nat × XPart) := s.xmatch p xtag k fun c => c.xdone ++ c.xreds

/-- The participants of a match so far: those that wait, with FIRST `first` (R218). -/
def State.xparts (s : State) (p first xtag k : Nat) : List (Nat × XPart) :=
  (s.xmatch p xtag k (·.xreds)).filter fun m => m.2.first == first

/-- One of two XREDs names the other's cluster as a participant (R218). -/
def XPart.joins (a b : XPart) (ca cb : Nat) : Bool :=
  (decide (a.first ≤ cb) && decide (cb ≤ a.last)) || (decide (b.first ≤ ca) && decide (ca ≤ b.last))

/-- The matched fields of two participants agree. -/
def XPart.matches (a b : XPart) : Bool :=
  a.first == b.first && a.last == b.last && a.fn == b.fn && a.axis == b.axis && a.fmt == b.fmt &&
  a.dst.exts == b.dst.exts && a.dst.fmt == b.dst.fmt && a.nrtz == b.nrtz

/-- A source has the destination's shape, or may be concatenated: it differs only along AXIS, where the destination has
extent 1. -/
def XPart.shapeOk (a : XPart) : Bool :=
  a.exts == a.dst.exts || (sameBut a.axis a.exts a.dst.exts && a.dst.ext a.axis == 1)

/-- The leaves that one participant gives an element: its own element, or its values along AXIS. -/
def XPart.pos (a : XPart) (el : Bool) (ix : List Nat) : List Nat :=
  if el then [linear a.exts ix] else (List.range (tget 1 a.exts a.axis)).map fun i => linear a.exts (ix.set a.axis i)

/-- R218: the results of one participant. -/
def xredResults (x : ACtx) (ps : List XPart) (me : XPart) (sf df : Fmt) : List Res :=
  let el := ps.all fun a => a.exts == a.dst.exts
  (List.range me.dst.count).map fun e =>
    let ix := unlinear me.dst.exts e
    (combineCodes x me.fn sf df (ps.flatMap fun a => (a.pos el ix).map (tget 0 a.els)) (tget 0 me.rs e)).also
      { flush := (me.pos el ix).any (tget false me.flu) }

/-- R218: an XRED issues; it takes part until its result comes. -/
def xredBody (obs : HwObs) (g : Nat) (h : Head) (args : List Arg) (s : State) : State :=
  match args with
  | [src, dst] =>
    match src.d.format, dst.d.format with
    | some sf, some df =>
      let w := h.lw
      let x := h.ctx
      let xtag := w.f 3 7 0
      let k := spGet 0 (s.clu g).xredK xtag + 1
      let (els, flu) := src.flushed s h.p g x
      let me : XPart :=
        { xtag := xtag, k := k, first := w.f 3 31 24, last := w.f 3 23 16, fn := w.redFn .xred, axis := w.axis .xred,
          fmt := src.d.fmt, dst := dst.d, ebase := dst.eb, nrtz := nodeRtz x, nco := w.nco .xred, tally := w.tally,
          exts := src.d.exts, els := els, flu := flu, rs := [], counted := obs.suspect }
      if !me.shapeOk || (s.xwith h.p xtag k).any fun t =>
          me.joins t.2 h.rel ((s.part h.p).rel t.1) && !t.2.matches me then
        s.latch h.p (h.err 2 0x0A 0x01 xtag 2 (g / 12) 3)
      else
        let (rs, s) := s.draws h.p g 2 256 dst.d.count (rootDraws x (me.fn == 0) sf df)
        let s := s.updClu g fun c => { c with xredK := spSet 0 c.xredK xtag k, xreds := c.xreds ++ [{ me with rs := rs }] }
        issueCommon s h g 2 (.xred xtag k)
    | _, _ => s
  | _ => s

/-- R218: XRED. -/
def execXred (g : Clu) (obs : HwObs) (s : State) : Out := .next (withArgs s g 2 .xred obs (xredBody obs g))

/-- What stays of an XRED that has its result: the fields that later ones must match. -/
def XPart.resulted (t : XPart) : XPart := { t with els := [], flu := [], rs := [] }

/-- One participant receives its result and no longer waits. -/
def State.xredDeliver (s : State) (p : Nat) (ps : List XPart) (susp : Bool) (me : Nat × XPart) : State :=
  let (g, t) := me
  match (s.part p).run, Fmt.ofCode t.fmt, t.dst.format with
  | some run, some sf, some df =>
    let s := s.suspect p g (susp && !t.counted)
    let dst := plainArg t.dst t.ebase
    let s := (s.putResults p g dst t.tally (xredResults (applyNco run.actx t.nco) ps t sf df)).keepLate s p g 2
      (.xred t.xtag t.k) [dst]
    (s.updClu g fun c => { c with
      xreds := c.xreds.filter fun u => !(u.xtag == t.xtag && u.k == t.k), xdone := c.xdone ++ [t.resulted] }).updStr g 2 fun v =>
      { v with flight := v.flight.map fun f => if f.waits = .xred t.xtag t.k then { f with waits := .nothing } else f }
  | _, _, _ => s

/-- The participant, with the word, whose result merges into a word with an uncorrectable error (R438). -/
def State.xredHit (s : State) (p : Nat) (l : List (Nat × XPart)) (obs : HwObs) : Option ((Nat × XPart) × Nat) :=
  l.findSome? fun m => (mergeHit (s.part p) m.1 obs [plainArg m.2.dst m.2.ebase]).map fun u => (m, u.1.2)

/-- A parity error met as a match is combined, charged to the XRED of its first participant (R437, R444; assumption 14,
DEDUCED). -/
def xredParity (s : State) (p g : Nat) (ws : Waits) : HwErr :=
  { lateErrOf s p g ws 0 with unit := 0x03, space := 2 }

/-- R218: the result of a match reaches every participant once each of them has issued; a merging read of a word that one of
them covers in part may meet an error (R437, R438). -/
def execXredResult (p : Part) (xtag k : Nat) (obs : HwObs) (s : State) (first : Nat := 0) : Out :=
  .next (
    let l := s.xparts p first xtag k
    match l with
    | [] => s
    | (g, t) :: _ =>
      if l.length < t.last + 1 - t.first then s
      else
        let r := s.spSeen (l.map (·.1)) obs
        if obs.parity then r.latch p (xredParity s p g (.xred xtag k))
        else match r.xredHit p l obs with
          | some (m, w) => r.latch p (lateErrOf r p m.1 (.xred xtag k) w)
          | none => l.foldl (fun s m => s.xredDeliver p (l.map (·.2)) obs.suspect m) r)

/-! ## RLY (R219, R395 to R401) -/

/-- The lines that an RLY sends, with the shards they go to (R397). -/
def rlySends (exts : List Nat) (b : Nat) (e : ShardEntry) (k : Option Nat) : List (Nat × Nat) :=
  (List.range (rlyLines exts b)).flatMap fun l =>
    ((List.range e.total).filter fun t => t != e.index && partHas exts b e.total k t l).map fun t => (l, t)

/-- R219, R396, R397: an RLY issues: it registers, places its own lines, and unless that faults sends them. -/
def rlyBody (obs : HwObs) (g : Nat) (h : Head) (args : List Arg) (s : State) : State :=
  match args with
  | [src, dst] =>
    match src.d.format, dst.d.format, spGet none (s.part h.p).set.shards src.d.shard with
    | some sf, some df, some e =>
      let q := s.part h.p
      let w := h.lw
      let x := h.ctx
      let rid := w.f 4 31 16
      let kind := w.f 4 15 14
      let axc := w.b 4 11
      let ax := w.axis .rly
      let rack := s.dev.rack.getD (tget 0 e.dev e.index)
      let k := if kind = 1 then scatterDim src.d ax else none
      let err (addr d : Nat) : State := s.latch h.p (h.err 2 0x0A 0x01 addr 2 (g / 12) d)
      let member (d : Nat) : Bool := match q.rally.group with | some gr => gr.members.contains d | none => false
      if kind = 1 && k.isNone then err src.d.shard 4
      else if !(e.dev.all fun d => d == rack || member d) then err src.d.shard 6
      else if q.rlys.any (fun r => r.rid == rid) then err rid 5
      else
        let (els, flu) := src.flushed s h.p g x
        let exts := src.d.exts
        let b := sf.bytes
        let need := (List.range (rlyLines exts b)).filter (partHas exts b e.total k e.index)
        let epoch := spGet 0 q.epochs rid % 4
        let (rs, s) := s.draws h.p g 2 256 (if need.isEmpty then 0 else dst.d.count) (rootDraws x (w.redFn .rly == 0) sf df)
        let r : RlyReg :=
          { rid := rid, epoch := epoch, g := g, kind := kind, axc := axc, fn := w.redFn .rly, axis := ax, fmt := src.d.fmt,
            nrtz := nodeRtz x, nco := w.nco .rly, tally := w.tally, dst := dst.d, ebase := dst.eb, exts := exts, shard := e,
            flu := flu, rs := rs, need := need, own := [], rows := [], counted := obs.suspect }
        let s := s.updPart h.p fun q => { q with epochs := spSet 0 q.epochs rid ((epoch + 1) % 4), rlys := q.rlys ++ [r] }
        let s := issueCommon s h g 2 (.rly rid epoch)
        let x0 := g / 12
        if (s.port x0).slots.any fun t => t.rid == rid && t.epoch == epoch && !r.agrees t then s.latch h.p (slotFault rid x0)
        else
          let s := s.placeOwn h.p x0 r (need.map fun l => (l, lineBytes exts b els l))
          if (s.part h.p).stat != .up then s
          else
            let home := (q.courts.idxOf? (g / 12)).getD 0
            let cx := b2n axc + 2 * kind + 4 * b2n r.nrtz
            let c7 := src.d.fmt + 16 * r.fn + 64 * epoch
            let c8 (l : Nat) : Nat := rid + l * 2 ^ 16 + e.index * 2 ^ 23 + home * 2 ^ 29
            (rlySends exts b e k).foldl (fun s d =>
              s.route h.p (mkFrame 3 rack (tget 0 e.dev d.2) cx c7 (c8 d.1) (lineBytes exts b els d.1))) s
    | _, _, _ => s
  | _ => s

/-- R219: RLY. -/
def execRly (g : Clu) (obs : HwObs) (s : State) : Out := .next (withArgs s g 2 .rly obs (rlyBody obs g))

end Sys2Proof.Machine
end

