-- ==== Sys2Proof/Machine/PermuteOps.lean ====
section
/-! DEFINITION. The permute engine (R221 to R225): moves of codes and of Iris4 blocks, re-packing, PACK, UNPK and SORT. -/

namespace Sys2Proof.Machine

/-! ## Rows (R64, R139, R222) -/

/-- The cells of one row written with elements as they stand; Iris4 blocks take the scale of their first element. -/
def Arg.rowCells (a : Arg) (ix : List Nat) (els : List El) : List Host.Cell :=
  if a.d.isIr4 then
    a.d.ir4RowWrites a.eb ix ((groups32 (els.length / 32 + 1) els).map fun b =>
      (((b.head?).map (·.scale)).getD 0, b.map (·.code)))
  else els.zipIdx.flatMap fun e => a.d.elWrites a.eb (ix.set 0 e.2) e.1.code

/-- The first element of every row of a shape. -/
def rowIxs (exts : List Nat) : List (List Nat) :=
  (List.range (volume (exts.drop 1))).map fun r => unlinear exts (r * tget 1 exts 0)

/-- The cells of elements in the linear order of a destination, moved unchanged. -/
def Arg.moveCells (a : Arg) (els : List El) : List Host.Cell :=
  let d0 := a.d.ext 0
  (rowIxs a.d.exts).zipIdx.flatMap fun r => a.rowCells r.1 ((els.drop (r.2 * d0)).take d0)

/-- Elements moved without change (R69, R222). -/
def moveBody (g : Nat) (h : Head) (src dst : Arg) (f : List Nat → List Nat) (s : State) : State :=
  let els := src.gather s h.p g dst.d.exts f
  issueCommon (s.wrSettled h.p g dst (dst.moveCells els)) h g 3 .nothing

/-- R222: Iris4 elements that leave their blocks are decoded and packed afresh. -/
def repackBody (g : Nat) (h : Head) (src dst : Arg) (f : List Nat → List Nat) (s : State) : State :=
  let els := src.gather s h.p g dst.d.exts f
  let x := h.ctx
  let (rs, s) := s.draws h.p g 3 256 els.length (x.eff.round == .rsto)
  let (cells, cnts) := convertAll x src.d dst els rs
  issueCommon ((s.wrSettled h.p g dst cells).count g h.lw.tally cnts) h g 3 .nothing

/-- The two operands of an operation. -/
def twoArgs (args : List Arg) (s : State) (f : Arg → Arg → State) : State :=
  match args with | [src, dst] => f src dst | _ => s

/-- R147, R222: TRN exchanges d0 and d1. -/
def execTrn (g : Clu) (obs : HwObs) (s : State) : Out :=
  .next (withArgs s g 3 .trn obs fun h args s => twoArgs args s fun src dst =>
    (if src.d.isIr4 then repackBody else moveBody) g h src dst swap01 s)

/-- R221: the source index of a PERM's destination index. -/
def permIx (w : LW) (rank : Nat) (ix : List Nat) : List Nat :=
  (List.range rank).foldl (fun l j => l.set (w.pmap j) (tget 0 ix j)) (List.replicate 5 0)

/-- R221, R222: PERM. -/
def execPerm (g : Clu) (obs : HwObs) (s : State) : Out :=
  .next (withArgs s g 3 .perm obs fun h args s => twoArgs args s fun src dst =>
    (if src.d.isIr4 && h.lw.pmap 0 != 0 then repackBody else moveBody) g h src dst (permIx h.lw src.d.rank) s)

/-- R221: CPY. -/
def execCpy (g : Clu) (obs : HwObs) (s : State) : Out :=
  .next (withArgs s g 3 .cpy obs fun h args s => twoArgs args s fun src dst => moveBody g h src dst id s)

/-- R221: a broadcast reads index 0 along every dimension of source extent 1. -/
def bcstIx (src : Desc) (ix : List Nat) : List Nat := ix.zipIdx.map fun i => if src.ext i.2 = 1 then 0 else i.1

/-- R221: BCST. -/
def execBcst (g : Clu) (obs : HwObs) (s : State) : Out :=
  .next (withArgs s g 3 .bcst obs fun h args s => twoArgs args s fun src dst => moveBody g h src dst (bcstIx src.d) s)

/-- R223: the rows of a source written, in order of j, to the rows that the indices name. -/
def scatCells (s : State) (p g : Nat) (src dst : Arg) (l : List (Int × Nat)) : List Host.Cell :=
  let rd := src.reader s p g
  l.zipIdx.flatMap fun i =>
    ((rowIxs src.d.exts).filter fun ix => tget 0 ix 1 == i.2).flatMap fun ix =>
      let els := (List.range (src.d.ext 0)).map fun k => src.d.readEl rd src.eb (ix.set 0 k)
      dst.rowCells (ix.set 1 i.1.1.toNat) els

/-- R223: SCAT. -/
def execScat (g : Clu) (obs : HwObs) (s : State) : Out :=
  .next (withArgs s g 3 .scat obs fun h args s =>
    match args with
    | [src, idx, dst] =>
      let l := idx.indices s h.p g
      let n := goodIndices l (dst.d.ext 1)
      afterIndices (s.wrSettled h.p g dst (scatCells s h.p g src dst (l.take n))) h g 3 l n
    | _ => s)

/-- R223: GATP. -/
def execGatp (g : Clu) (obs : HwObs) (s : State) : Out :=
  .next (withArgs s g 3 .gatp obs fun h args s =>
    match args with
    | [src, idx, dst] =>
      let l := idx.indices s h.p g
      let n := goodIndices l (src.d.ext 1)
      let cut := dst.rows1 (min n (dst.d.ext 1))
      let els := src.gather s h.p g cut.d.exts (gatherIx l)
      afterIndices (s.wrSettled h.p g dst (dst.rescale cut (cut.moveCells els))) h g 3 l n
    | _ => s)

/-- R224: what PACK and UNPK do: a conversion. -/
def packBody (g : Nat) (h : Head) (args : List Arg) (s : State) : State :=
  twoArgs args s fun src dst =>
    issueCommon (convMove s h g 3 (sideRate dst.d) src.d dst (src.read s h.p g)) h g 3 .nothing

/-- R224: PACK. -/
def execPack (g : Clu) (obs : HwObs) (s : State) : Out := .next (withArgs s g 3 .pack obs (packBody g))
/-- R224: UNPK. -/
def execUnpk (g : Clu) (obs : HwObs) (s : State) : Out := .next (withArgs s g 3 .unpk obs (packBody g))

/-- R225: SORT. -/
def execSort (g : Clu) (obs : HwObs) (s : State) : Out :=
  .next (withArgs s g 3 .sort obs fun h args s =>
    match args with
    | [src, dst, idst] =>
      let ax := h.lw.axis .sort
      orderBody g 3 (src.d.ext ax) (h.lw.b 1 31) ax src dst idst h s
    | _ => s)

end Sys2Proof.Machine
end

