-- ==== Sys2Proof/Machine/StoreOps.lean ====
section
/-! DEFINITION. The store engine (R227 to R230, R392). -/

namespace Sys2Proof.Machine

/-- W of a store: its source side, and 256 into Iris4 (R86). -/
def storeRate (src dst : Desc) : Nat := if dst.isIr4 then 256 else sideRate src

/-- R227: what STT and STX do. -/
def storeBody (g : Nat) (h : Head) (args : List Arg) (s : State) : State :=
  twoArgs args s fun src dst =>
    issueCommon (convMove s h g 4 (storeRate src.d dst.d) src.d dst (src.read s h.p g)) h g 4 .nothing

/-- R227: STT stores into partition memory. -/
def execStt (g : Clu) (obs : HwObs) (s : State) : Out := .next (withArgs s g 4 .stt obs (storeBody g))

/-- R227: STX stores into the scratchpad of another cluster of the court. -/
def execStx (g : Clu) (obs : HwObs) (s : State) : Out := .next (withArgs s g 4 .stx obs (storeBody g))

/-! ## PUT (R228, R392) -/

/-- The maximal runs of unmasked bytes of a line, in order: first byte and bytes (fuel bounds the scan). -/
def runsOf (line : List (Option Byte)) : Nat → Nat → List (Nat × List Byte)
  | 0, _ => []
  | f + 1, k =>
    match (line.drop k).findIdx? Option.isSome with
    | none => []
    | some i =>
      let bs := ((line.drop (k + i)).takeWhile Option.isSome).map fun b => b.getD 0
      (k + i, bs) :: runsOf line f (k + i + bs.length)

/-- The WRITE frames of a PUT's destination bytes, by ascending PA (R392). -/
def putFrames (src dst : Nat) (cells : List Host.Cell) : List Frame :=
  let lines := (cells.map (·.1 / 64)).foldl (fun l a => insSorted a l) []
  lines.flatMap fun l =>
    let line : List (Option Byte) := (List.range 64).map fun k => (cells.findRev? fun c => c.1 == 64 * l + k).map (·.2)
    (runsOf line 64 0).map fun r =>
      mkFrame 0 src dst (r.1 % 8) (r.2.length - 1) (l % 2 ^ 29 + r.1 / 8 * 2 ^ 29)
        (List.replicate r.1 0 ++ r.2 ++ List.replicate (64 - r.1 - r.2.length) 0)

/-- The TIDs that PUTs to a device still wait on. -/
def State.tidsTo (s : State) (p dev : Nat) : List Nat :=
  (s.part p).clusters.flatMap fun g => (s.str g 4).flight.filterMap fun f =>
    match f.waits with | .put d t => if d = dev then some t else none | _ => none

/-- R392: what PUT does: its checks, the WRITE frames, the READREQ. -/
def putBody (g : Nat) (h : Head) (args : List Arg) (s : State) : State :=
  twoArgs args s fun src dst =>
    let q := s.part h.p
    let dev := h.lw.f 2 31 26
    let member := match q.rally.group with | some gr => gr.members.contains dev | none => false
    match s.dev.rack with
    | some rack =>
      if !member || dev = rack || (s.routeOf h.p dev).isNone then s.latch h.p (h.err 4 0x04 0x01 dev 2 (g / 12) 0)
      else
        let used := s.tidsTo h.p dev
        match (List.range 256).find? fun k => !used.contains ((Config.putTid s.free + k) % 256) with
        | none => s
        | some k =>
          let tid := (Config.putTid s.free + k) % 256
          let x := h.ctx
          let els := src.read s h.p g
          let (rs, s) := s.draws h.p g 4 (storeRate src.d dst.d) els.length (consumes x src.d dst.d)
          let (cells, cnts) := convertAll x src.d dst els rs
          let s := s.count g h.lw.tally cnts
          let frames := putFrames rack dev (dst.settled s.free cells)
          let n := (spGet 0 q.putSent dev + frames.length) % 2 ^ 16
          let s := s.updPart h.p fun q => { q with putSent := spSet 0 q.putSent dev n }
          let s := frames.foldl (fun s f => s.route h.p f) s
          let s := s.route h.p (mkFrame 1 rack dev 0 0 (n + tid * 2 ^ 16) zeros64)
          issueCommon s.fresh h g 4 (.put dev tid)
    | none => s.latch h.p (h.err 4 0x04 0x01 dev 2 (g / 12) 0)

/-- R228, R392: PUT. -/
def execPut (g : Clu) (obs : HwObs) (s : State) : Out := .next (withArgs s g 4 .put obs (putBody g))

/-- R194, R229, R250: DONE checks the PA of its line at issue; the line is written as it completes. -/
def execDone (g : Clu) (obs : HwObs) (s : State) : Out :=
  .next (withHead s g 4 .done fun h =>
    let q := s.part h.p
    let pa := (tget 0 (s.str g 4).a (h.lw.f 0 31 28)).toNat
    let fault (code detail : Nat) : State := s.latch h.p (h.err 4 code 0x01 pa 0 (g / 12) detail)
    if obs.parity then s.latch h.p (h.err 4 0x02 0x03 0 2 (g / 12) 0xFF)
    else if pa % 64 ≠ 0 then fault 0x03 0
    else if pa + 64 > q.size then fault 0x04 0
    else if pa ≥ q.slotLo then fault 0x04 0x45
    else issueCommon s h g 4 (.line pa))

/-- R230: FENCE completes after every earlier long word of its stream. -/
def execFence (g : Clu) (obs : HwObs) (s : State) : Out :=
  .next (withHead s g 4 .fence fun h =>
    if obs.parity then s.latch h.p (h.err 4 0x02 0x03 0 2 (g / 12) 0xFF) else issueCommon s h g 4 .earlier)

end Sys2Proof.Machine
end

