-- ==== Sys2Proof/Machine/Rally.lean ====
section
/-! DEFINITION. What rally ports receive, and the timers of links and reductions (R375 to R406, R292). -/

namespace Sys2Proof.Machine

/-- The partition drops what is addressed to it: from a fault until it leaves RESETTING (R406). -/
def Partition.deaf (q : Partition) : Bool := q.stat == .faulted || q.stat == .resetting

/-- A frame arrives under the command of its class; a bad one, whose fields mean nothing, is discarded and counted under any
(R377, R379). Under EXTEST none arrives (R500). -/
def onFrame (s : State) (x : PortNo) (f : Frame) (mine : Bool) (body : State → State) : State :=
  if s.extest || (!mine && !f.bad) then s
  else match s.receive x f with
    | (false, s) => s
    | (true, s) => body s

/-- A frame of a class arrives: discarded, forwarded, dropped, or handled by the partition it is for (R388, R390). The
handler frees the buffer. -/
def arrive (s : State) (x : PortNo) (f : Frame) (mine : Bool) (other : State → State) (body : Nat → State → State) : State :=
  onFrame s x f mine fun s =>
    match s.target x f (f.cls == 4) with
    | .other => s.forward x f
    | .dropped => ((other s).dropFrame x).freeBuf x f
    | .here p => body p s

/-! ## WRITE, READREQ, READRSP (R392 to R394) -/

/-- One more WRITE frame of a source committed or refused (R394). -/
def State.rxCounted (s : State) (p src : Nat) : State :=
  s.updPart p fun q => { q with rxCount := spSet 0 q.rxCount src ((spGet 0 q.rxCount src + 1) % 2 ^ 16) }

/-- A refused line: the first refusal of a source is recorded (R393). -/
def State.refuse (s : State) (p src status : Nat) : State :=
  (s.rxCounted p src).updPart p fun q => { q with
    rxRefuse := if spGet 0 q.rxRefuse src = 0 then spSet 0 q.rxRefuse src status else q.rxRefuse }

/-- The first byte of a WRITE frame in the partition, and its valid bytes (R380). -/
def writeSpan (f : Frame) : Nat × List Byte :=
  let off := f.cx % 8 + 8 * bits f.c8 31 29
  (bits f.c8 28 0 * 64 + off, (f.payload.drop off).take (f.c7 + 1))

/-- R393: why a line is refused: 3 RESET, 1 RANGE. -/
def Partition.refuses (q : Partition) (pa : Nat) : Option Nat :=
  if q.deaf then some 3 else if pa / 64 * 64 + 64 > q.slotLo then some 1 else none

/-- R393: the line that a WRITE frame changes, where the port accepts the frame, it is for this partition and the line is
written, and the host may hold it. -/
def State.writeHeld (s : State) (x : Nat) (f : Frame) : List Nat :=
  if f.cls = 0 ∧ s.takesFrame x f then
    match s.target x f false with
    | .here p =>
      let pa := (writeSpan f).1
      if ((s.part p).refuses pa).isNone then s.snooped [(s.part p).da pa / 64] else []
    | _ => []
  else []

/-- R393: receipt of a WRITE frame. A line to be written that the host holds is back-invalidated before the frame is
accepted. -/
def execFrameWrite (x : PortNo) (f : Frame) (obs : HwObs) (s : State) : Out :=
  .next (
    let held := s.writeHeld x f
    if !held.isEmpty then s.biAsk held
    else arrive s x f (f.cls == 0)
      (fun s => match s.portPart x with | some p => s.refuse p f.src 2 | none => s)
      fun p s =>
        let q := s.part p
        let (pa, bs) := writeSpan f
        let s := match q.refuses pa with
          | some k => s.refuse p f.src k
          | none => ((s.observe obs [q.da pa / 64]).wrPa p (cellsAt pa bs)).rxCounted p f.src
        s.freeBuf x f)

/-- The count of a source has reached a WCNT (R394). -/
def Partition.reached (q : Partition) (src wcnt : Nat) : Bool :=
  decide ((spGet 0 q.rxCount src + 2 ^ 16 - wcnt) % 2 ^ 16 < 2 ^ 15)

/-- R394: receipt of a READREQ: it enters the flush table, or waits in its buffer; RESET answers it at a deaf partition
(R406). -/
def execFrameReadreq (x : PortNo) (f : Frame) (s : State) : Out :=
  .next (arrive s x f (f.cls == 1) id fun p s =>
    let tid := bits f.c8 23 16
    if (s.part p).deaf then
      ((s.readRsp p f.src tid 3).updPart p fun q => { q with rxRefuse := spSet 0 q.rxRefuse f.src 0 }).freeBuf x f
    else if (s.port x).flush.length < 64 then
      (s.updPort x fun q => { q with flush := q.flush ++ [⟨f.src, tid, bits f.c8 15 0⟩] }).freeBuf x f
    else s.updPort x fun q => { q with waitRx := q.waitRx ++ [(f, false)] })

/-- R394: the first READREQ of a port whose count is reached is answered, and one that waited enters the table. -/
def execFlushTableRelease (x : PortNo) (s : State) : Out :=
  .next (match s.portPart x with
    | some p =>
      let q := s.part p
      (match (s.port x).flush.find? fun e => q.reached e.src e.wcnt with
       | some e =>
         let s := s.updPort x fun t => { t with flush := t.flush.erase e }
         let s := s.readRsp p e.src e.tid (spGet 0 q.rxRefuse e.src)
         let s := s.updPart p fun q => { q with rxRefuse := spSet 0 q.rxRefuse e.src 0 }
         (match (s.port x).waitRx.find? fun f => f.1.cls == 1 with
          | some (f, o) =>
            (s.updPort x fun t => { t with
              waitRx := t.waitRx.erase (f, o)
              flush := t.flush ++ [⟨f.src, bits f.c8 23 16, bits f.c8 15 0⟩] }).freeBuf x f
          | none => s)
       | none => s)
    | none => s)

/-- The PUT that waits for a READRSP: its cluster and its long word (R392). -/
def State.putWaiting (s : State) (p dev tid : Nat) : Option (Nat × Flight) :=
  (s.part p).clusters.findSome? fun g =>
    ((s.str g 4).flight.find? fun f => f.waits = .put dev tid).map fun f => (g, f)

/-- R392: receipt of a READRSP completes the waiting PUT or faults it. -/
def execFrameReadrsp (x : PortNo) (f : Frame) (s : State) : Out :=
  .next (arrive s x f (f.cls == 2) id fun p s =>
    let tid := bits f.c8 23 16
    let s := s.freeBuf x f
    if (s.part p).deaf then s
    else match s.putWaiting p f.src tid with
      | none => s
      | some (g, fl) =>
        let e (code addr : Nat) : HwErr :=
          { code := code, cluster := (s.part p).rel g, stream := 4, unit := 0x09, offset := fl.off, addr := addr, space := 2,
            court := x, detail := 0 }
        match bits f.c8 31 24 with
        | 0 => s.updStr g 4 fun t => { t with
            flight := t.flight.map fun u => if u.waits = .put f.src tid then { u with waits := .nothing } else u }
        | 3 => s.latch p (e 0x09 (f.src * 2 ^ 16))
        | _ => s.latch p (e 0x04 f.src))

/-! ## REDUCE (R398 to R400) -/

/-- R398, R399: receipt of a REDUCE child. -/
def execFrameReduce (x : PortNo) (f : Frame) (suspect : Bool) (s : State) : Out :=
  .next (arrive s x f (f.cls == 3) id fun p s =>
    let q := s.part p
    let c := childOf f suspect
    if q.deaf then s.freeBuf x f
    else match q.courts[bits f.c8 31 29]? with
      | none => (s.freeBuf x f).latch p (slotFault c.rid x)
      | some y =>
        if (s.port y).slotsFull c then s.updPort x fun t => { t with waitRx := t.waitRx ++ [(f, suspect)] }
        else (s.freeBuf x f).childAndRest p y c)

/-! ## HELLO, ABORT, IDLE (R375, R378, R404) -/

/-- R375: receipt of a HELLO: with the own one acknowledged it ends training. Its buffer is free at once (R383). -/
def execFrameHello (x : PortNo) (f : Frame) (s : State) : Out :=
  .next (onFrame s x f (f.cls == 4 && f.c7 == 0) fun s =>
    ((s.updPort x fun q => { q with helloRx := true }).freeBuf x f).linkUp x)

/-- R404: receipt of an ABORT: it faults a member of the group once for each abort id. -/
def execFrameAbort (x : PortNo) (f : Frame) (s : State) : Out :=
  .next (
    arrive s x f (f.cls == 4 && f.c7 == 1) id fun p s =>
      let q := s.part p
      let s := s.freeBuf x f
      let origin := leNat ((f.payload.drop 2).take 1)
      let n := leNat ((f.payload.drop 4).take 2)
      match q.rally.group, s.dev.rack with
      | some g, some r =>
        if leNat (f.payload.take 2) ≠ g.id then s.dropFrame x
        else if q.aborts.contains (origin, n) then s
        else
          let s := s.updPart p fun q => { q with aborts := (q.aborts.filter fun a => a.1 != origin) ++ [(origin, n)] }
          if q.deaf then s
          else
            let s := s.latch p (errOf 0x09 0x0C (origin * 2 ^ 16 + n) 2 15 (leNat ((f.payload.drop 3).take 1)))
            (g.members.filter fun m => m != origin && m != r).foldl (fun s m => s.route p { f with hop := 0, dst := m }) s
      | _, _ => s.dropFrame x)

/-- R378: receipt of an IDLE frame. -/
def execFrameIdle (x : PortNo) (f : Frame) (s : State) : Out := .next (onFrame s x f (f.cls == 5) id)

/-! ## Timers (R376, R391) -/

/-- R376: no frame has passed its CRC for 2 µs. -/
def execLinkCrcTimeout (x : PortNo) (s : State) : Out :=
  .next (if (s.port x).st = .up then s.linkDown x false true else s)

/-- R376: a frame has been sent 8 times without being accepted. -/
def execLinkReplayLimit (x : PortNo) (s : State) : Out :=
  .next (
    let q := s.port x
    if q.st = .up ∧ q.spent then s.linkDown x false true else s)

/-- R376: 10 ms after an uncommanded loss the port trains again. -/
def execLinkRetryTimer (x : PortNo) (s : State) : Out :=
  .next (
    let q := s.port x
    if q.st = .down ∧ q.retry ∧ !q.hold ∧ (s.portPart x).isSome then s.train x else s)

/-- R391: a rally wait of the stream has lasted the group's rto. -/
def execReductionTimeout (g : Clu) (st : Strm) (s : State) : Out :=
  .next (match s.ownerG g with
    | some p =>
      let q := s.part p
      let e (f : Flight) (addr detail : Nat) : HwErr :=
        { code := 0x0D, cluster := q.rel g, stream := st, unit := 0x09, offset := f.off, addr := addr, space := 2,
          court := g / 12, detail := detail }
      (match q.rally.group, (s.str g st).flight.find? fun f => match f.waits with | .rly _ _ | .put _ _ => true | _ => false with
       | some _, some f =>
         (match f.waits with
          | .rly rid _ => s.latch p (e f rid 1)
          | .put dev _ => s.latch p (e f dev 2)
          | _ => s)
       | _, _ => s)
    | none => s)

/-! ## Rally settings (R292) -/

/-- None of the partition's ports holds a frame of the partition and no reduction slot is occupied. -/
def State.rallyIdle (s : State) (p : Nat) : Bool :=
  (s.part p).courts.all fun x =>
    let q := s.port x
    q.slots.isEmpty && q.waitRx.isEmpty && q.flush.isEmpty &&
    (q.egress.map (·.1) ++ q.replay).all fun f => f.hop != 0 || (f.cls == 4 && f.c7 == 0)

/-- R292, R395, R404: the pending routes and group take effect; a group that takes effect clears epochs, abort ids and the
counts of R392 and R394. -/
def Partition.applyRally (q : Partition) (r : RSettings) : Partition :=
  let q' := { q with rally := r, pendR := none, regroup := false }
  if q.regroup || r.group != q.rally.group then
    { q' with epochs := [], aborts := [], putSent := [], rxCount := [], rxRefuse := [] }
  else q'

/-- R292: pending rally settings take effect at a launch boundary, or while nothing runs, once the ports are idle. -/
def State.rallySettle (s : State) (p : Nat) : State :=
  match (s.part p).pendR with
  | some r =>
    if (s.part p).run.isNone ∧ s.rallyIdle p then s.updPart p fun q => q.applyRally r else s
  | none => s

/-- R292: the pending rally settings take effect. -/
def execRallySetApply (p : Part) (s : State) : Out := .next (s.rallySettle p)

end Sys2Proof.Machine
end

