-- ==== Sys2Proof/Machine/Movers.lean ====
section
/-! DEFINITION. Court-mover jobs: submission, host completions, sealed chunks, the end of a job (R361 to R368). -/

namespace Sys2Proof.Machine

/-- The device can issue requests to host memory (R368). -/
def State.hostOpen (s : State) : Bool := s.host.bme && s.host.dlUp

/-- A job changes. -/
def State.updJob (s : State) (p id : Nat) (f : Job → Job) : State :=
  s.updPart p fun q => { q with jobs := q.jobs.map fun j => if j.id = id then f j else j }

/-- A job of a partition that has not reported. -/
def State.jobOf (s : State) (p id : Nat) : Option Job := (s.part p).jobs.find? fun j => j.id == id

/-- The piece of a court may move a line or chunk: none has stopped, or another has, and this one ends its current line
(R362). -/
def Job.moves (j : Job) (c : Nat) : Bool :=
  match j.status with
  | none => true
  | some st => decide (2 ≤ st) && decide (st ≤ 4) && !j.after.contains c

/-- The piece of a court has moved the last line that it may move, where another piece has stopped (R362). -/
def Job.last (j : Job) (c : Nat) : Job := if j.status.isSome then { j with after := c :: j.after } else j

/-- The piece of a court stops with a status (R362, R367). -/
def Job.stopAt (j : Job) (c status : Nat) : Job := { j.stop status with after := c :: j.after }

/-- The bytes of host memory that a job covers (R364). -/
def Job.hostLen (j : Job) : Nat := if j.key.isSome then j.len / 4096 * 4160 else j.len

/-- The lines of a job by court, each in ascending PA (R362). -/
def Job.pieces (j : Job) (q : Partition) : List (List Nat) :=
  q.courts.map fun c => (linesOf j.pa j.len).filter fun l => q.da (64 * l) / courtBytes == c

/-- The lines of device memory (device addresses divided by 64) of PA lines. -/
def Partition.daLines (q : Partition) (ls : List Nat) : List Nat := ls.map fun l => q.da (64 * l) / 64

/-- R361, R365: a job starts: it latches its key and seal counter, or ends at once; a job from the host asks for its bytes. -/
def State.submit (s : State) (p : Nat) (ctx : LineCtx) (kind : Nat) (key : Option Nat) (pa host len val : Nat) : State :=
  let q := s.part p
  let slot (k : Nat) : KeySlot := tget {} q.keys k
  let st : Option Nat := match key with
    | some k =>
      if (slot k).key.isNone then some 1
      else if kind = 1 ∧ (slot k).ctr = 0xFFFFFFFF then some 6
      else if !s.hostOpen then some 4 else none
    | none => if kind ≠ 2 ∧ !s.hostOpen then some 4 else none
  let latch : Option (Nat × Nat × List Byte) := match key with
    | some k => (slot k).key.map fun b => (k, (slot k).gen, b)
    | none => none
  let j : Job :=
    { id := q.jobId, ctx := ctx, kind := kind, key := key, pa := pa, host := host, len := len, val := val, latch := latch,
      ctr := (match key with | some k => (slot k).ctr | none => 0), chunks := [], lines := [], got := [], moved := 0,
      status := st, after := [] }
  let used : Bool := kind == 1 && (match key with | some k => (slot k).key.isSome && (slot k).ctr != 0xFFFFFFFF | none => false)
  let s := s.updPart p fun q => { q with
    jobs := q.jobs ++ [j], jobId := q.jobId + 1
    keys := match key with
      | some k => if used then q.keys.modify k fun e => { e with ctr := e.ctr + 1 } else q.keys
      | none => q.keys }
  if kind = 0 ∧ st.isNone then s.send (.hostRead p j.id host j.hostLen) else s

/-- The PA line that the mover of a line's court moves next (R362). -/
def Job.nextOf (j : Job) (q : Partition) (l : Nat) : Bool :=
  match (j.pieces q).find? fun ls => ls.contains l with
  | some ls => (ls.filter fun x => !j.lines.contains x).head? == some l
  | none => false

/-- The court of the line that the host bytes at an offset of a job belong to (R362, R364). -/
def Job.courtAt (j : Job) (q : Partition) (off : Nat) : Nat :=
  q.da (if j.key.isSome then j.pa + off / 4160 * 4096 else (j.pa + off) / 64 * 64) / courtBytes

/-- The court whose seal unit handles chunk k of a job (R364). -/
def Job.chunkCourt (j : Job) (q : Partition) (k : Nat) : Nat := q.da (j.pa + 4096 * k) / courtBytes

/-- Chunk k is the next of its court's piece, and that piece may move it (R362, R364). -/
def Job.nextChunk (j : Job) (q : Partition) (k : Nat) : Bool :=
  decide (k < j.len / 4096) && !j.chunks.contains k && j.moves (j.chunkCourt q k) &&
  (List.range k).all fun i => j.chunks.contains i || j.chunkCourt q i != j.chunkCourt q k

/-- The piece of a court comes to a chunk of which a host read failed: it stops there (R362, R367). -/
def Job.failNow (j : Job) (q : Partition) (c : Nat) : Job :=
  if j.fails.any fun k => j.chunkCourt q k == c && j.nextChunk q k then j.stopAt c 4 else j

/-- What AER logs of a host read that failed (R346). -/
def State.aerRead (s : State) (err : HostErr) : State :=
  match err with
  | .poison => s.aer aerPoison
  | .timeout => s.aer aerTimeout
  | _ => s

/-- R362, R366, R367: 64 bytes of host memory arrive for offset `off` of a job from its host address, in the order in which
each mover asked for them; no data is the host's error, of which AER reports poison and a timeout (R346). A piece that meets one
stops there, a sealed one once the whole chunks before it are written. -/
def execHostReadCompletion (p : Part) (id off : Nat) (data : Option (List Byte)) (s : State) (err : HostErr := .unsupported) :
    Out :=
  .next (match s.jobOf p id with
    | none => s
    | some j =>
      let q := s.part p
      let c := j.courtAt q off
      let l := (j.pa + off) / 64
      let due := if j.key.isSome then !j.lines.contains off else j.nextOf q l
      if j.kind ≠ 0 ∨ off % 64 ≠ 0 ∨ j.hostLen < off + 64 ∨ !j.moves c ∨ !due then s
      else match data with
        | none =>
          (s.aerRead err).updJob p id fun j =>
            if j.key.isNone then j.stopAt c 4
            else { j with lines := off :: j.lines, fails := off / 4160 :: j.fails }.failNow q c
        | some d =>
          if d.length ≠ 64 then s
          else if j.key.isSome then s.updJob p id fun j => { j with lines := off :: j.lines, got := j.got ++ cellsAt off d }
          else
            let held := s.snooped (q.daLines [l])
            if !held.isEmpty then s.biAsk held
            else (s.wrPa p (cellsAt (64 * l) d)).updJob p id fun j =>
              { j.last c with lines := l :: j.lines, moved := j.moved + 64 })

/-! ## Sealing (R364 to R366) -/

/-- The trailer of a chunk after its tag, bytes 16 to 63 (R364). -/
def trailer (ctr k len : Nat) : List Byte :=
  leBytes 4 ctr ++ leBytes 8 k ++ leBytes 8 len ++ asc "EMXS" ++ List.replicate 24 0

/-- The initialisation vector of a chunk (R365). -/
def sealIv (ctr k : Nat) : List Byte := leBytes 4 ctr ++ leBytes 8 k

/-- A sealed chunk as it lies in host memory. -/
def sealBytes (key : List Byte) (ctr k len : Nat) (plain : List Byte) : List Byte :=
  let ct := gcmCrypt key (sealIv ctr k) plain
  ct ++ gcmTag key (sealIv ctr k) (trailer ctr k len) ct ++ trailer ctr k len

/-- The plaintext of a sealed chunk that passes the checks of R366. -/
def unsealBytes (key : List Byte) (k len : Nat) (b : List Byte) : Option (List Byte) :=
  let ct := b.take 4096
  let tag := (b.drop 4096).take 16
  let tr := b.drop 4112
  let ctr := leNat (tr.take 4)
  if tr = trailer ctr k len ∧ gcmTag key (sealIv ctr k) tr ct = tag then some (gcmCrypt key (sealIv ctr k) ct) else none

/-- R364, R365: chunk k of a sealing job leaves, each court's chunks in ascending order. -/
def execSealChunk (p : Part) (id : Nat) (obs : HwObs) (s : State) (k : Nat := 0) : Out :=
  .next (match s.jobOf p id with
    | none => s
    | some j =>
      match j.latch with
      | none => s
      | some (_, _, key) =>
        let q := s.part p
        if j.kind ≠ 1 ∨ !j.nextChunk q k then s
        else
          let c := j.chunkCourt q k
          let pa := j.pa + 4096 * k
          let lines := q.daLines (linesOf pa 4096)
          let held := s.snooped lines
          if !held.isEmpty then s.biAsk held
          else if !s.hostOpen then s.updJob p id fun j => j.stopAt c 4
          else
            let s := s.observe obs lines
            if lines.any fun l => (s.cause l).isSome then s.updJob p id fun j => j.stopAt c 3
            else
              let plain := (List.range 4096).map fun i => s.rdPa p (pa + i)
              (s.send (.hostWrite (j.host + 4160 * k) (sealBytes key j.ctr k j.len plain))).updJob p id fun j =>
                { j.last c with chunks := k :: j.chunks, moved := j.moved + 4096 })

/-- R366: chunk k of an unsealing job, once all of it has arrived and it is the next of its court, is written or ends its
piece. -/
def execUnsealChunk (p : Part) (id : Nat) (s : State) (k : Nat := 0) : Out :=
  .next (match s.jobOf p id with
    | none => s
    | some j =>
      match j.latch with
      | none => s
      | some (_, _, key) =>
        let q := s.part p
        let lo := 4160 * k
        let arrived := (List.range 65).all fun i => j.lines.contains (lo + 64 * i)
        if j.kind ≠ 0 ∨ j.fails.contains k ∨ !j.nextChunk q k ∨ !arrived then s
        else
          let c := j.chunkCourt q k
          let pa := j.pa + 4096 * k
          let b := (List.range 4160).map fun i => ((j.got.find? fun c => c.1 == lo + i).map (·.2)).getD 0
          match unsealBytes key k j.len b with
          | none => s.updJob p id fun j => j.stopAt c 2
          | some plain =>
            let held := s.snooped (q.daLines (linesOf pa 4096))
            if !held.isEmpty then s.biAsk held
            else (s.wrPa p (cellsAt pa plain)).updJob p id fun j =>
              { j.last c with
                chunks := k :: j.chunks, moved := j.moved + 4096
                got := j.got.filter fun c => decide (c.1 < lo) || decide (lo + 4160 ≤ c.1) }.failNow q c)

/-! ## The end of a job (R362, R366 to R368) -/

/-- The lines of a piece before the first poisoned one (R367). -/
def State.cleanPrefix (s : State) (q : Partition) (ls : List Nat) : List Nat :=
  ls.takeWhile fun l => (s.cause (q.da (64 * l) / 64)).isNone

/-- The 8 bytes of a fill, repeated over one line (R334). -/
def fillLine (val : Nat) : List Byte := (List.range 8).flatMap fun _ => leBytes 8 val

/-- One line of an unsealed outbound job or of a fill moves. -/
def State.moveLine (s : State) (p : Nat) (j : Job) (l : Nat) : State :=
  if j.kind = 1 then
    s.send (.hostWrite (j.host + (64 * l - j.pa)) ((List.range 64).map fun k => s.rdPa p (64 * l + k)))
  else s.wrPa p (cellsAt (64 * l) (fillLine j.val))

/-- Lines of a job move, and are counted. -/
def State.moveAll (s : State) (p : Nat) (j : Job) (ls : List Nat) : State × Job :=
  (ls.foldl (fun s l => s.moveLine p j l) s, { j with moved := j.moved + 64 * ls.length })

/-- The job moves its own data when it ends: an outbound job without a key, or a fill. -/
def Job.late (j : Job) : Bool := j.kind == 2 || (j.kind == 1 && j.key.isNone)

/-- A free number of each piece's lines, none past a poisoned line of an outbound piece or past a line that the host may
hold (R349, R362, R367, assumption 2, DESIGN CHOICE). -/
def State.partialPieces (s : State) (p : Nat) (j : Job) : List (List Nat) :=
  let q := s.part p
  (j.pieces q).zipIdx.map fun e =>
    let ok := if j.kind = 1 then s.cleanPrefix q e.1 else e.1
    (ok.takeWhile fun l => (s.snooped (q.daLines [l])).isEmpty).take (Config.progress (s.free + e.2))

/-- The lines that the pieces of a job that stops have come to: of each a free number, none past a line that the host may hold
(R349, R362; assumption 2, DESIGN CHOICE). -/
def State.triedPieces (s : State) (p : Nat) (j : Job) : List (List Nat) :=
  let q := s.part p
  (j.pieces q).zipIdx.map fun e =>
    (e.1.takeWhile fun l => (s.snooped (q.daLines [l])).isEmpty).take (Config.progress (s.free + e.2))

/-- A job that stops before its end: what it had moved by then is free, and so is what its reads met; an outbound piece stops
before a poisoned line, with POISON (R341, R342, R367, R446; assumption 2, DESIGN CHOICE). A job that had ended at its start
moves nothing. -/
def State.abandon (s : State) (p : Nat) (j : Job) (status : Nat) : State :=
  if j.late && (j.status.isNone || j.status == some 5) then
    let q := s.part p
    let tried := s.triedPieces p j
    let lines := q.daLines tried.flatten
    let r := if j.kind = 1 then s.observe (s.freeObs lines) lines else s
    let done := if j.kind = 1 then tried.map (r.cleanPrefix q) else tried
    let m := r.moveAll p j done.flatten
    { m.1 with free := m.1.free + 8 }.endJob p m.2
      (if done.flatten.length < tried.flatten.length then min 3 status else status)
  else s.endJob p j status

/-- R362, R367: the lines that an outbound job sends, and its status: all of them, or each piece's lines up to where it
stops, when one of them met a poisoned line. -/
def State.outLines (s : State) (p : Nat) (j : Job) : List Nat × Nat :=
  let q := s.part p
  let full := j.pieces q
  let clean := full.map (s.cleanPrefix q)
  let bad := (List.range full.length).filter fun i => decide ((tget [] clean i).length < (tget [] full i).length)
  let part := s.partialPieces p j
  if bad.isEmpty then
    if s.hostOpen then (full.flatten, 0) else (part.flatten, 4)
  else
    let reached := bad.any fun i => decide ((tget [] part i).length = (tget [] clean i).length)
    if !s.hostOpen then (part.flatten, if reached then 3 else 4)
    else
      let first := tget 0 bad (Config.progress (s.free + 8) % bad.length)
      (((List.range full.length).map fun i => if i = first then tget [] clean i else tget [] part i).flatten, 3)

/-- R367: every piece of a job has ended; the job reports and its reply follows (R360, R372). -/
def execMoverJobEnd (p : Part) (id : Nat) (obs : HwObs) (s : State) : Out :=
  .next (match (s.part p).jobs.find? fun j => j.id == id with
    | none => s
    | some j =>
      let q := s.part p
      let lines := q.daLines (linesOf j.pa j.len)
      if q.stat == .faulted || q.stat == .resetting then s
      else match j.status with
        | some st => (s.endJob p j st).pump p obs
        | none =>
          if j.late then
            let held := s.snooped lines
            if !held.isEmpty then s.biAsk held
            else if j.kind = 2 then
              let r := s.moveAll p j (linesOf j.pa j.len)
              (r.1.endJob p r.2 0).pump p obs
            else
              let s := s.observe obs lines
              let o := s.outLines p j
              let r := s.moveAll p j o.1
              ({ r.1 with free := r.1.free + 9 }.endJob p r.2 o.2).pump p obs
          else if j.moved = j.len then (s.endJob p j 0).pump p obs
          else if !s.hostOpen then (s.endJob p j 4).pump p obs
          else s)

end Sys2Proof.Machine
end

