-- ==== Sys2Proof/Machine/Launch.lean ====
section
/-! DEFINITION. The life of a launch and of a partition: start, end and deadline (R152, R167, R256 to R259), fault reports,
the scrub and the partition reset (R432 to R434, R447 to R451), re-verification (R410), device faults (R452 to R454). -/

namespace Sys2Proof.Machine

/-! ## Launches -/

/-- R167: a stream at a launch start: its address registers, and nothing issued. -/
def StreamSt.launched (args rel count : Nat) : StreamSt :=
  { ended := false, fetch := { off := false }
    a := [BitVec.ofNat 48 args, BitVec.ofNat 48 rel, BitVec.ofNat 48 count] ++ List.replicate 13 0 }

/-- R256 step 2: a cluster at a launch start; E4 to E7, scratchpad, instruction cache and counters stay. -/
def Cluster.launched (k : Cluster) (args rel count : Nat) : Cluster :=
  { k with
    streams := List.replicate 5 (StreamSt.launched args rel count)
    regions := [], tokens := ({} : Cluster).tokens, e := List.replicate 4 {} ++ k.e.drop 4, w := ({} : Cluster).w
    q := ({} : Cluster).q, tally := ({} : Cluster).tally, vr := [], reqs := [], rels := [], xredK := [], xreds := [], xdone := [] }

/-- R256, R322: the launch at the head of the queue may start. -/
def State.mayStart (s : State) (p : Nat) : Bool :=
  let q := s.part p
  q.stat == .up && q.phase == .none && s.dev.dfault.isNone && q.run.isNone && !q.reporting && q.drill.isNone &&
  (match q.queue.head? with | some la => !la.gated || decide (q.tickets ≥ 1) | none => false)

/-- R262: a break armed for a tag. -/
def Brk.names (tag : Option Nat) : Brk → Bool
  | .tag t => tag == some t
  | .count _ _ _ => false

/-- R256: the launch-start sequence. -/
def execLaunchStart (p : Part) (s : State) : Out :=
  .next (match (s.part p).queue with
    | [] => s
    | la :: rest =>
      if !s.mayStart p then s
      else
        let s := s.rallySettle p
        let q := s.part p
        let set := q.pendP.getD q.set
        let t := q.slot la.b
        let hit := s.dbgOk q t.debug && q.breaks.any (Brk.names la.ctx.tag)
        let r : Running :=
          { la := la, ctx := set.ctx.with la.nc, strict := t.strict, debug := t.debug
            stop := if hit then .stopping [] false else .running }
        let s := s.updPart p fun q => { q with
          queue := rest, set := set, pendP := none, run := some r
          tickets := if la.gated then q.tickets - 1 else q.tickets
          breaks := if hit then q.breaks.filter (fun b => !b.names la.ctx.tag) else q.breaks }
        (q.clusters.zipIdx).foldl (fun s c =>
          (s.updClu c.1 fun k => k.launched la.args c.2 q.clusters.length).fetchAll c.1) s)

/-- R152: nothing of the launch is left: every stream has ended, no long word is in flight, no signal and no release is on
its way. -/
def State.launchOver (s : State) (p : Nat) : Bool :=
  let q := s.part p
  q.signals.isEmpty && q.clusters.all fun g =>
    let k := s.clu g
    k.rels.isEmpty && k.streams.all fun t => t.ended && t.flight.isEmpty

/-- A break has triggered and its event is not written yet (R263). -/
def Running.stopping (r : Running) : Bool := match r.stop with | .stopping _ _ => true | _ => false

/-- R152, R257: the launch ends and reports. -/
def execLaunchEnd (p : Part) (s : State) (obs : HwObs := {}) : Out :=
  .next (match (s.part p).run with
    | some r =>
      if (s.part p).stat == .up && s.dev.dfault.isNone && s.launchOver p && !r.stopping then
        (s.endRun p r 1 0 (evLine r.la.ctx [asc "done"]) false).pump p obs
      else s
    | none => s)

/-- R259, R263, R442: the deadline expires; it is paused at a break, and an end in the same cycle wins. -/
def execDeadlineExpire (p : Part) (s : State) : Out :=
  .next (match (s.part p).run with
    | some r => if r.stop = .running ∧ !s.launchOver p then s.latch p (errOf 0x05 0x0A 0 2) else s
    | none => s)

/-! ## Faults and their reports -/

/-- An error that a detector can report: its code, unit and space are none of the reserved ones, its cluster, stream and
court are some of the device or none (R441, R444). -/
def latchable (e : HwErr) : Bool :=
  decide (1 ≤ e.code ∧ e.code ≤ 0x0D) && decide (1 ≤ e.unit ∧ e.unit ≤ 0x0D) && decide (e.space ≤ 2) &&
  decide (e.cluster < 96 ∨ e.cluster = 255) && decide (e.stream ≤ 4 ∨ e.stream = 7) && decide (e.court ≤ 7 ∨ e.court = 15)

/-- R437, R441 to R446: detectors report errors of one cycle. -/
def execFaultLatch (p : Part) (errs : List HwErr) (s : State) : Out := .next (s.latchAll p (errs.filter latchable))

/-- A fault code or cause as `0xNN`. -/
def hex2 (n : Nat) : List Byte := asc "0x" ++ hexN 2 n

/-- The keys of an `ev fault` line (R447). -/
def Partition.faultKeys (q : Partition) : List (List Byte) :=
  let w (i : Nat) : Nat := (tget 0 q.ffrec i).toNat
  let none_ (v no : Nat) : List Byte := if v = no then asc "none" else dec v
  [asc "fault", kv "code" (hex2 q.ffCode), kv "cl" (none_ (bits (w 0) 15 8) 255), kv "s" (none_ (bits (w 0) 7 5) 7)] ++
  (if q.ffCode = 0x09 then [kn "origin" (bits (w 2) 21 16), kv "ocode" (hex2 (bits (w 3) 31 24))] else [])

/-- R446, R447: the reports of a FAULTED partition: the running launch, the queued ones, the mover jobs. -/
def execFaultReport (p : Part) (s : State) (obs : HwObs := {}) : Out :=
  .next (
    let q := s.part p
    if q.stat != .faulted || q.phase != .report || s.dev.dfault.isSome then s
    else
      let code := q.ffCode
      let s := match q.run with
        | some r => s.endRun p r 2 code (evLine r.la.ctx q.faultKeys) true
        | none => (s.emit p false (evLine {} q.faultKeys)).msix (9 + p)
      let s := s.updPart p fun q => { q with
        reports := q.reports ++ q.queue.map fun la => haltReport la code "fault"
        queue := [], phase := .none }
      let s := q.jobs.foldl (fun s j => s.abandon p j (j.status.getD 5)) s
      s.pump p obs)

/-! ## The scrub (R432, R433) -/

/-- A cluster after step 4 of a scrub: its hardware counters stay. -/
def Cluster.scrubbed (k : Cluster) : Cluster :=
  { suspect := k.suspect, dRuns := k.dRuns, dFails := k.dFails, dLast := k.dLast, dValid := k.dValid, drillK := k.drillK, spce := k.spce,
    refetch := k.refetch }

/-- A rally port after step 4 of a scrub: frames in transit stay, and go on (R406); every credit is back but those of the
frames in transit not yet acknowledged (R173, R433; assumption 10, DEDUCED). -/
def Port.scrubbed (q : Port) : Port :=
  let transit := q.replay.filter fun f => f.hop != 0
  { q with
    waitRx := [], slots := [], flush := [], replay := transit
    tries := ((q.replay.zip q.tries).filter fun e => e.1.hop != 0).map (·.2)
    egress := q.egress.filter fun f => f.1.hop != 0
    credits := (List.range 15).map fun pr => poolMax pr - (transit.filter fun f => f.pool == pr).length }

/-- A poison mark that a court cache holds is written back to device memory (R432, R438). -/
def State.unhold (s : State) (courts : List Nat) : State :=
  s.poison.foldl (fun s e =>
    if e.2 == some .held && courts.contains (64 * e.1 / courtBytes) then
      { s with poison := spSet none s.poison e.1 (some .cache) }.tableAdd e.1
    else s) s

/-- A drill line waits no more for passes on some courts: the scrub has stopped them (R303, R432). -/
def DrillJob.without (j : DrillJob) (courts : List Nat) : DrillJob :=
  { j with wait := j.wait.filter fun c => !courts.contains c, on := j.on.filter fun c => !courts.contains c }

/-- The scrub of some courts; `keep` writes dirty lines back first, as for `part` and a partition reset (R432). -/
def State.scrub (s : State) (courts : List Nat) (keep : Bool) : State :=
  let s := if keep then s.unhold courts else s
  { s with
    cl := s.cl.zipIdx.map fun k => if courts.contains (k.2 / 12) then k.1.scrubbed else k.1
    ports := s.ports.zipIdx.map fun q => if courts.contains q.2 then q.1.scrubbed else q.1
    courts := s.courts.zipIdx.map fun c => if courts.contains c.2 then { c.1 with drill := false } else c.1
    parts := s.parts.map fun q : Partition => { q with drill := q.drill.map fun j => j.without courts }
    dev := { s.dev with drills := s.dev.drills.map fun j => j.without courts } }

/-! ## Device faults (R452 to R454) -/

/-- A device fault latches in one partition (R409, R452). -/
def State.deviceLatch (s : State) (cause p : Nat) : State :=
  match (s.part p).stat with
  | .free => s
  | .up => s.latch p (errOf 0x1F 0x0D 0 2 15 cause)
  | _ => (s.lateErr p 1).updPart p fun q => { q with stat := .faulted, phase := .none }

/-- The copy of a launch that a device fault has stopped (R331, R512); its report is never written (R454). -/
def State.keepCopy (s : State) (p : Nat) : State :=
  match (s.part p).run with
  | some r => (s.endRun p r 2 0x1F [] false).updPart p fun q => { q with run := some r, reports := q.reports.dropLast }
  | none => s

/-- A write of the flash that a reset, a power loss or a device fault cuts off: the bank stays invalid, and how far its bytes
had come is free (R479; assumption 26, DESIGN CHOICE). -/
def State.cutFlash (s : State) : State :=
  match s.dev.fw with
  | some j =>
    ({ s with flash := s.flash.modify (b2n j.bank) fun k =>
        { k with valid := false, bundle := j.bundle.take (Config.progress s.free) } }.updDev fun d => { d with fw := none }).fresh
  | none => s

/-- Another device fault while one holds: counted, its cause kept as the last, a late error in every partition that is not FREE
(R452, R463; assumption 17, DEDUCED); a thermal trip adds to its own count only (R481). -/
def State.faultAgain (s : State) (cause : Nat) : State :=
  if cause = 5 then s
  else
    let s := s.updDev fun d => { d with dfCount := satAdd 0xFFFF d.dfCount 1, lastDf := cause }
    (List.range 8).foldl (fun s p => if (s.part p).stat = .free then s else s.lateErr p 1) s

/-- A device fault: counted, its cause kept, every partition faulted, reported on w8 and the UART, unless it has left the
management core unable to run its handler: then DEVSTAT, FAULT_N and the resets remain (R454). -/
def State.deviceFault (s : State) (cause : Nat) (handler : Bool := true) : State :=
  if s.dev.dfault.isSome then s.faultAgain cause
  else
    let s := s.updDev fun d =>
      { d with dfault := some cause, dead := !handler, dfCount := satAdd 0xFFFF d.dfCount 1, lastDf := cause }
    let s : State := (List.range 8).foldl (fun s p => (s.deviceLatch cause p).keepCopy p) s
    let s := { s.cutFlash with windows := s.windows.map fun w : Window => { w with busy := none } }
    if !handler then s
    else
      let s := if s.host.viralEn then s.send .viral else s
      s.event (evLine {} [asc "fault", asc "code=0x1f", kv "cause" (hex2 cause)])

/-- R452 to R454: an error in a shared structure of a device that is not in reset; a reserved cause is never reported (R453).
-/
def execDeviceFault (cause : Nat) (s : State) (handler : Bool := true) : Out :=
  .next (if 1 ≤ cause ∧ cause ≤ 8 ∧ s.dev.stage ≥ 1 then s.deviceFault cause handler else s)

/-! ## The partition reset (R448 to R451) -/

/-- The poisoned lines that step 2 of R448 rewrites: those in a table of the courts' channels, or all of a channel whose
table has overflowed (R449). -/
def State.toRewrite (s : State) (courts : List Nat) : List (Nat × Cause) :=
  s.poison.filterMap fun e =>
    let ch := s.chan (chanOf (64 * e.1))
    match e.2 with
    | some c => if courts.contains (64 * e.1 / courtBytes) && (ch.ovf || ch.table.contains e.1) then some (e.1, c) else none
    | none => none

/-- Step 2 of R448 with the log of R450. -/
def State.rewritePoison (s : State) (p : Nat) : State :=
  let q := s.part p
  let todo := s.toRewrite q.courts
  let chans := q.courts.flatMap fun c => [2 * c, 2 * c + 1]
  let full := chans.any fun m => (s.chan m).ovf
  let room := 1024 - q.log.length
  let entries : List Rewrite := todo.map fun e =>
    { pa := q.paOf (64 * e.1), da := 64 * e.1, ch := chanOf (64 * e.1), cause := e.2 }
  let s := todo.foldl (fun s e => s.wrDa (cellsAt (64 * e.1) zeros64)) s
  let s := chans.foldl (fun s m => s.updChan m fun c => if c.ovf then { c with table := [], ovf := false } else c) s
  s.updPart p fun q => { q with
    log := q.log ++ entries.take room, logOver := q.logOver || full || decide (entries.length > room) }

/-- R448: once the reports are written, the partition becomes RESETTING, its courts are scrubbed and its poisoned lines
rewritten. An error during the scrub is a device fault (R434). -/
def execPartitionReset (p : Part) (scrubError : Bool) (s : State) : Out :=
  .next (
    let q := s.part p
    if q.stat != .faulted || q.phase != .none || !q.reports.isEmpty || s.dev.dfault.isSome then s
    else
      let held := s.snoopAll q.courts
      if !held.isEmpty then s.biAsk held
      else
        let s := s.updPart p fun q => { q with
          stat := .resetting, phase := .scrubbed, gate := false, tickets := 0, breaks := [], epochs := [], rlys := []
          signals := [], putSent := [], rxCount := [], rxRefuse := [] }
        let s := s.scrub q.courts true
        if scrubError then s.deviceFault 7 else s.rewritePoison p)

/-- R410, R451: the reset ends; slots that were VERIFIED wait to be verified again. -/
def execPartitionResetEnd (p : Part) (s : State) : Out :=
  .next (
    let q := s.part p
    if q.stat == .resetting && q.phase == .scrubbed && s.dev.dfault.isNone then
      (s.updPart p fun q => { q with
        stat := .up, phase := .verify
        revfy := q.slots.map fun t => t.st == .verified
        slots := q.slots.map fun t => if t.st = .verified then { t with st := .empty } else t }).settle p
    else s)

/-- A slot holds what verification leaves: the header facts and the digest of a passing image (R243, R417). -/
def slotOf (bytes : List Byte) (len : Nat) : Slot :=
  let arr := bytes.toArray
  let h := ImgHdr.parse fun o => (arr.getD o 0).toNat
  { st := .verified, len := len, strict := h.strict, debug := h.debug, sha := sha384 (bytes.take h.len)
    digest := (bytes.drop 208).take 48 }

/-- The bytes of slot memory that an image of `len` bytes takes. -/
def State.slotBytesOf (s : State) (p : Nat) (b : Bool) (len : Nat) : List Byte :=
  (List.range len).map fun k => s.rdPa p ((s.part p).slotPa b + k)

/-- The device lines of a slot's first `len` bytes. -/
def Partition.slotLines (q : Partition) (b : Bool) (len : Nat) : List Nat := q.daLines (linesOf (q.slotPa b) len)

/-- One slot is verified again; an uncorrectable read makes it fail (R451). -/
def State.reverify (s : State) (p : Nat) (b : Bool) (obs : HwObs) : State :=
  let q := s.part p
  let len := (q.slot b).len
  let lines := q.slotLines b len
  let s := s.observe obs lines
  let bytes := s.slotBytesOf p b len
  let t : Slot :=
    if lines.any fun l => (s.cause l).isSome then {}
    else if (verifyImage bytes q.courts.length len).isSome then {} else slotOf bytes len
  s.updPart p fun q => { q with slots := q.slots.set (b2n b) t }

/-- R410: re-verification ends; a partition that is LOADED now takes its pending settings (R292). -/
def execReverifyDone (p : Part) (obs : HwObs) (s : State) : Out :=
  .next (
    let q := s.part p
    if q.stat != .up || q.phase != .verify then s
    else
      let redo := [false, true].filter fun b => tget false q.revfy (b2n b)
      let held := s.snooped (redo.flatMap fun b => q.slotLines b (q.slot b).len)
      if !held.isEmpty then s.biAsk held
      else
        let s := redo.foldl (fun s b => s.reverify p b obs) s
        (s.updPart p fun q => { q with phase := .none, revfy := [] }).settle p)

end Sys2Proof.Machine
end

