-- ==== Sys2Proof/Machine/Parser.lean ====
section
/-! DEFINITION. When a line may be carried out: device and partition states (R300, R318), the reasons a parser stops (R288,
R298), and the waits of a verb for back-invalidation (R351). -/

namespace Sys2Proof.Machine

/-- The device is ready and has no device fault (R300). -/
def State.isReady (s : State) : Bool := s.dev.ready && s.dev.dfault.isNone

/-- A launch of the partition is running or queued (R306). -/
def Partition.hasLaunch (q : Partition) : Bool := q.run.isSome || !q.queue.isEmpty || q.reporting

/-- R318: the columns DEFINED, LOADED, RUNNING and Stopped of a verb; no column while slots are verified again (R410). -/
def State.legal (s : State) (p : Nat) (d l r x : Bool) : Bool :=
  let q := s.part p
  s.isReady && q.phase == .none &&
  (match q.state with
   | 1 => d
   | 2 => l
   | 3 => if q.isStopped then x else r
   | _ => false)

/-- A move, fill or drill of the partition has not replied yet. -/
def Partition.outstanding (q : Partition) : Bool :=
  !q.jobs.isEmpty || q.drill.isSome || q.reports.any fun r => bit r.flags 1

/-- R288, R246: this line waits for what the partition is doing. -/
def State.waitsFor (s : State) (i : Instr) : Bool :=
  match i with
  | .go _ p img _ _ _ _ =>
    let q := s.part p
    decide (q.queue.length ≥ 64) ||
    (match q.load with | some j => j.b == img.getD q.active | none => false)
  | .swap _ p => (s.part p).load.isSome
  | .load _ p _ _ _ => (s.part p).load.isSome
  | _ => false

/-- R288, R298: the parser of a window stops at any line. -/
def State.stopped (s : State) (w : Nat) : Bool :=
  (s.win w).busy.isSome || decide (4096 - (s.win w).reply.length < 512) ||
  (decide (w < 8) && (s.part w).relock.isSome)

/-- R304: `free` is legal. -/
def State.freeOk (s : State) (p : Nat) : Bool :=
  let q := s.part p
  s.isReady && (q.state == 1 || q.state == 2) && !q.outstanding && q.load.isNone

/-- A byte range meets a court that is not FREE (R312). -/
def State.srcTaken (s : State) (src len : Nat) : Bool :=
  (List.range 8).any fun c =>
    (s.owner c).isSome && decide (0 < len) && decide (src < (c + 1) * courtBytes) && decide (c * courtBytes < src + len)

/-- The source of `fw write` is in range (R312). -/
def fwRangeOk (src len : Nat) : Bool :=
  src % 64 == 0 && len % 64 == 0 && decide (len ≤ 2 ^ 23) && decide (src + len ≤ 8 * courtBytes)

/-- R351: the lines that the host may hold in the courts that a verb is about to take, lock or release. -/
def State.verbSnoop (s : State) (i : Instr) : List Nat :=
  match i with
  | .part _ p cs _ _ =>
    if (s.part p).stat == .free && cs.all fun c => (s.owner c).isNone then s.snoopAll (cs.map (·.val)) else []
  | .free _ p _ =>
    if s.freeOk p then s.snoopAll (s.part p).courts else []
  | .lock _ p _ =>
    let q := s.part p
    if s.legal p true true false false && !q.locked && q.pending.isSome then s.snoopAll q.courts else []
  | .fwWrite _ src len =>
    if s.isReady && !s.srcTaken src len && fwRangeOk src len then s.snooped (linesOf src len) else []
  | _ => []

/-- The parser keeps a line (R288). -/
def State.hold (s : State) (w : Nat) (i : Instr) : State := s.updWin w fun q => { q with held := some (.cmd i) }

/-- The device takes no lines: it is in reset, or a device fault has left the management core unable to serve any (R454,
R467). -/
def State.mute (s : State) : Bool := s.dev.stage == 0 || s.dev.dead

/-- A line reaches the end of its window's parser: it is kept, or it takes effect now. A window that keeps a line takes no
other, and a device that takes no lines takes none. -/
def State.atLine (s : State) (w : Nat) (i : Instr) (body : State → State) : State :=
  if (s.win w).held.isSome || s.mute then s
  else if s.stopped w || s.waitsFor i then s.hold w i
  else
    let held := s.verbSnoop i
    if !held.isEmpty then (s.biAsk held).hold w i else body s

/-- A list of names joined by commas. -/
def commaList (l : List (List Byte)) : List Byte := joinWith (asc ",") l

/-- `cN,cM,…` in ascending order. -/
def courtList (cs : List Nat) : List Byte := commaList ((cs.foldl (fun l c => insSorted c l) []).map (nameN "c"))

/-- A rack number, or `none`. -/
def rackText (r : Option Nat) : List Byte := match r with | some n => dec n | none => asc "none"

/-- The name of a partition's state (R329). -/
def Partition.stateName (q : Partition) : List Byte :=
  asc (match q.state with
    | 0 => "free" | 1 => "defined" | 2 => "loaded"
    | 3 => if q.isStopped then "stopped" else "running"
    | 4 => "faulted" | _ => "resetting")

/-- The numbers of a list whose items are ranges a-b; none, answered with range, where a number exceeds 63 or a range runs
backwards: R297 asks a ≤ b and names no outcome (assumption 30, DESIGN CHOICE). -/
def expandRanges (l : List (Nat × Nat)) : Option (List Nat) :=
  if l.all fun r => decide (r.1 ≤ r.2) && decide (r.2 ≤ 63) then
    some (l.flatMap fun r => (List.range (r.2 + 1 - r.1)).map (· + r.1))
  else none

end Sys2Proof.Machine
end

