-- ==== Sys2Proof/Machine/DevVerbs.lean ====
section
/-! DEFINITION. The verbs of the device window, but for attestation, firmware and drills (R302 to R317), with what ends
them. -/

namespace Sys2Proof.Machine

/-- The device window. -/
def w8 : Nat := 8

/-- `device=` of R302: the device fault cause, 0 when there is none. -/
def State.dfCode (s : State) : Nat := s.dev.dfault.getD 0

/-- The version of a bundle's Verelle as `M.m.p` (R302, R312). -/
def versionText (b : Bank) : List Byte :=
  match Config.parseBundle b.bundle with
  | some (major, minor, patch, _) => dec major ++ asc "." ++ dec minor ++ asc "." ++ dec patch
  | none => asc "0.0.0"

/-- The part's name (R302). -/
def State.partName (s : State) : List Byte := asc (if s.fuses.grade = 1 then "emx-vx96-150" else "emx-vx96-175")

/-! ## hello and the UART rate -/

/-- The rates of R271. -/
def baudOk (b : Nat) : Bool := [115200, 921600, 3000000, 6000000, 12000000].contains b

/-- R302: `hello`. -/
def verbHello (l : LineCtx) (baud : Option Nat) (s : State) : State :=
  if baud.any fun b => !baudOk b then s.no w8 l "range"
  else
    let s := s.ok w8 l [kv "part" s.partName, asc "step=a1", kv "fw" (versionText s.running), kv "rack" (rackText s.dev.rack),
      kb "ready" s.dev.ready, kv "df" (hex2 s.dfCode)]
    match baud with
    | some b => s.updUart fun u => { u with newBaud := some b }
    | none => s

def execHello (l : LineCtx) (baud : Option Nat) (s : State) : Out :=
  .next (s.atLine w8 (.hello l baud) (verbHello l baud))

/-- R271: the stop bit of the last byte of the `hello` reply has passed: nothing waits to be transmitted. For a `hello` on
the host link, whose reply has no stop bit, the same moment of the UART is taken (assumption 30, DESIGN CHOICE). -/
def execUartBaudSwitch (s : State) : Out :=
  .next (match s.uart.newBaud with
    | some b => if s.uart.tx.isEmpty then s.updUart fun u => { u with baud := b, newBaud := none } else s
    | none => s)

/-! ## part and free -/

/-- R303: a newly defined partition; its ring registers, window and job numbers stay. -/
def Partition.defined (q : Partition) (courts : List Nat) (il : Bool) (mhz : Nat) : Partition :=
  { stat := .up, courts := courts, il := il, mhz := mhz, jobId := q.jobId, ringBase := q.ringBase, ringLog2 := q.ringLog2,
    ringEn := q.ringEn, ringCie := q.ringCie, prod := q.prod, cons := q.cons }

/-- R303: `part`. An error that a store's checks report during the scrub is a device fault, and the partition is not defined
(R434). -/
def verbPart (l : LineCtx) (p : Part) (courts : List Court) (il : Bool) (s : State) (scrubError : Bool := false) : State :=
  let cs := courts.map (·.val)
  if !s.isReady || (s.part p).stat != .free then s.ignore w8 l .state
  else if cs.any fun c => (s.owner c).isSome then s.ignore w8 l .conflict
  else if cs.isEmpty || cs.eraseDups.length != cs.length then s.no w8 l "range"
  else
    let cs := cs.foldl (fun l c => insSorted c l) []
    if scrubError then (s.scrub cs true).deviceFault 7
    else
    let s := (s.scrub cs true).updPart p fun q => q.defined cs il s.gradeMax
    let s := cs.foldl (fun s c => s.train c) s
    s.ok w8 l [nameN "p" p, kv "courts" (courtList cs), kv "il" (asc (if il then "on" else "off")),
      kv "size" (dec (3 * cs.length) ++ asc "g")]

def execPart (l : LineCtx) (p : Part) (courts : List Court) (il : Bool) (s : State) (scrubError : Bool := false) : Out :=
  .next (s.atLine w8 (.part l p courts il scrubError) fun s => verbPart l p courts il s scrubError)

/-- R304, steps 1 and 2 without the fill: `free`; an error of its scrub is a device fault (R434). -/
def verbFree (l : LineCtx) (p : Part) (s : State) (scrubError : Bool := false) : State :=
  let q := s.part p
  if !s.freeOk p then s.ignore w8 l .state
  else
    let s := s.dropRally p
    let s := s.updPart p fun q => { q with stat := .resetting, phase := .none, signals := [] }
    let s := s.scrub q.courts false
    if scrubError then s.deviceFault 7 else s.updWin w8 fun w => { w with busy := some (.freeing l p) }

def execFree (l : LineCtx) (p : Part) (s : State) (scrubError : Bool := false) : Out :=
  .next (s.atLine w8 (.free l p scrubError) fun s => verbFree l p s scrubError)

/-- A released partition: what `part` or a reset clears stays (R304, R331, R444, R450, R463, R511, R512). -/
def Partition.released (q : Partition) : Partition :=
  { jobId := q.jobId, ringBase := q.ringBase, ringLog2 := q.ringLog2, prod := q.prod, cons := q.cons, lockdrop := q.lockdrop,
    faults := q.faults, late := q.late, ffrec := q.ffrec, copy := q.copy, log := q.log, logOver := q.logOver }

/-- The stream slot of a window that is no longer locked: its keys are gone (R411, R424). -/
def IdeSlot.dropped (k : IdeSlot) : IdeSlot := { k with secure := false, keys := [], cur := false }

/-- A port is held down with its event (R304, R306, R376). -/
def State.holdDown (s : State) (x : Nat) : State :=
  ((s.emptyPort x).updPort x fun q => { q with st := .down, hold := true, retry := false }).linkEvent x false

/-- R304, steps 2 to 7: the end of the fill. -/
def execFreeDone (p : Part) (s : State) : Out :=
  .next (match (s.win w8).busy with
    | some (.freeing l n) =>
      if n ≠ p.val ∨ s.dev.dfault.isSome then s
      else
        let q := s.part p
        let s := q.courts.foldl (fun s c => s.zeroCourt c) s
        let s := if q.locked then s.updIde p (·.dropped) else s
        let s := q.courts.foldl (fun s c => s.holdDown c) s
        let s := (s.updPart p (·.released)).updWin w8 fun w => { w with busy := none }
        s.ok w8 l [nameN "p" p]
    | _ => s)

/-! ## clock -/

/-- R305, R35, R36: `clock`, for every partition that is not RUNNING and has no launch queued, be it FAULTED or RESETTING. -/
def verbClock (l : LineCtx) (p : Part) (mhz : Nat) (s : State) : State :=
  let q := s.part p
  if !(s.isReady && q.state != 0 && q.state != 3 && q.queue.isEmpty && q.drill.isNone) then s.ignore w8 l .state
  else if mhz < 800 ∨ s.gradeMax < mhz ∨ mhz % 50 ≠ 0 then s.no w8 l "range"
  else
    (s.updPart p fun q => { q with mhz := mhz, relock := some l }).updWin w8 fun w => { w with busy := some (.relocking p) }

def execClock (l : LineCtx) (p : Part) (mhz : Nat) (s : State) : Out :=
  .next (s.atLine w8 (.clock l p mhz) (verbClock l p mhz))

/-- R305: the clusters of a partition have relocked. -/
def execRelockDone (p : Part) (s : State) : Out :=
  .next (match (s.part p).relock with
    | some l =>
      let s := s.updPart p fun q => { q with relock := none }
      if (s.win w8).busy = some (.relocking p) then
        (s.updWin w8 fun w => { w with busy := none }).ok w8 l [nameN "p" p, kn "mhz" (s.part p).mhz]
      else s
    | none => s)

/-! ## link -/

def LinkSt.text (x : LinkSt) : List Byte := asc (match x with | .down => "down" | .training => "training" | .up => "up")

/-- The partition of a court, or `none` (R306, R313). -/
def State.ownerText (s : State) (c : Nat) : List Byte :=
  match s.owner c with | some p => nameN "p" p | none => asc "none"

/-- The state of a link as `link` reports it: a port whose cage holds a module that never trains is down (R495). -/
def State.shownLink (s : State) (x : Nat) : LinkSt :=
  let c : Cage := tget {} s.board.cages x
  if c.present && !c.good then .down else (s.port x).st

/-- R306: the report of `link`. -/
def verbLinkReport (l : LineCtx) (x : Option PortNo) (s : State) : State :=
  if !s.isReady then s.ignore w8 l .state
  else
    let xs : List Nat := match x with | some x => [x.val] | none => List.range 8
    s.replies w8 l (xs.map fun x =>
      let q := s.port x
      [nameN "x" x, kv "part" (s.ownerText x), kv "state" (s.shownLink x).text, kn "crc" q.crc, kn "replay" q.replays]) []

def execLinkReport (l : LineCtx) (x : Option PortNo) (s : State) : Out :=
  .next (s.atLine w8 (.linkReport l x) (verbLinkReport l x))

/-- R306: `op=` is legal for a port of a partition that has no launch. -/
def State.linkOpOk (s : State) (x : Nat) : Bool :=
  s.isReady && (match s.owner x with | some p => !(s.part p).hasLaunch | none => false)

/-- A port goes down by a command, with its event where its state changes (R306). -/
def State.opDown (s : State) (x : Nat) (hold : Bool) : State :=
  let was := (s.port x).st
  let s := s.portDown x hold false
  if was = .down then s else s.linkEvent x false

/-- R306: `op=up` releases a hold. -/
def verbLinkOpUp (l : LineCtx) (x : PortNo) (s : State) : State :=
  if !s.linkOpOk x then s.ignore w8 l .state
  else (if (s.port x).hold then s.train x else s).ok w8 l

def execLinkOpUp (l : LineCtx) (x : PortNo) (s : State) : Out := .next (s.atLine w8 (.linkOpUp l x) (verbLinkOpUp l x))

/-- R306: `op=down` holds the port down. -/
def verbLinkOpDown (l : LineCtx) (x : PortNo) (s : State) : State :=
  if !s.linkOpOk x then s.ignore w8 l .state else (s.opDown x true).ok w8 l

def execLinkOpDown (l : LineCtx) (x : PortNo) (s : State) : Out :=
  .next (s.atLine w8 (.linkOpDown l x) (verbLinkOpDown l x))

/-- R306: `op=retrain`. -/
def verbLinkOpRetrain (l : LineCtx) (x : PortNo) (s : State) : State :=
  if !s.linkOpOk x then s.ignore w8 l .state else ((s.opDown x false).train x).ok w8 l

def execLinkOpRetrain (l : LineCtx) (x : PortNo) (s : State) : Out :=
  .next (s.atLine w8 (.linkOpRetrain l x) (verbLinkOpRetrain l x))

/-- R307: `link rack=`. -/
def verbLinkRack (l : LineCtx) (n : Option Nat) (s : State) : State :=
  let bad (q : Partition) : Bool :=
    q.state == 3 || q.rally.group.isSome || (match q.pendR with | some r => r.group.isSome | none => false)
  if !s.isReady || s.parts.any bad then s.ignore w8 l .state
  else if n.any fun r => decide (r > 63) then s.no w8 l "range"
  else (s.updDev fun d => { d with rack := n }).ok w8 l [kv "rack" (rackText n)]

def execLinkRack (l : LineCtx) (n : Option Nat) (s : State) : Out :=
  .next (s.atLine w8 (.linkRack l n) (verbLinkRack l n))

/-! ## route and group -/

/-- R308: `route` stages one entry. -/
def verbRoute (l : LineCtx) (p : Part) (dst : Nat) (x : Option PortNo) (s : State) : State :=
  let q := s.part p
  if !s.isReady || q.stat == .free then s.ignore w8 l .state
  else if dst > 63 then s.no w8 l "range"
  else if x.any fun x => !q.courts.contains x.val then s.no w8 l "port"
  else
    (s.updPart p fun q => { q with stageR :=
      { q.stageR with routes := spSet none q.stageR.routes dst (x.map (·.val)) } }).ok w8 l

def execRoute (l : LineCtx) (p : Part) (dst : Nat) (x : Option PortNo) (s : State) : Out :=
  .next (s.atLine w8 (.route l p dst x) (verbRoute l p dst x))

/-- The members of a `group` line: 2 to 64 distinct numbers 0 to 63 (R309). -/
def groupMembers (l : List (Nat × Nat)) : Option (List Nat) :=
  match expandRanges l with
  | some ms => if ms.eraseDups.length = ms.length ∧ 2 ≤ ms.length then some ms else none
  | none => none

/-- R309: `group` stages membership of a job group. -/
def verbGroup (l : LineCtx) (p : Part) (id : Option Nat) (members : Option (List (Nat × Nat))) (rto : Option Nat)
    (s : State) : State :=
  if !s.isReady || (s.part p).stat == .free then s.ignore w8 l .state
  else
    let stage (g : Option Group) : State :=
      (s.updPart p fun q => { q with stageR := { q.stageR with group := g }, touched := true }).ok w8 l
    if id.isSome && members.isNone then s.ignore w8 l .missing
    else if !id.all (fun n => decide (1 ≤ n) && decide (n ≤ 65535)) ||
        !rto.all (fun t => decide (10 ≤ t) && decide (t ≤ 1000000)) || !members.all fun m => (groupMembers m).isSome then
      s.no w8 l "range"
    else match id, members.bind groupMembers with
      | some n, some ms => stage (some { id := n, members := ms, rto := rto.getD 1000 })
      | _, _ => stage none

def execGroup (l : LineCtx) (p : Part) (id : Option Nat) (members : Option (List (Nat × Nat))) (rto : Option Nat)
    (s : State) : Out :=
  .next (s.atLine w8 (.group l p id members rto) (verbGroup l p id members rto))

/-! ## stat, temp, echo, reset -/

/-- The highest junction temperature, 0 before any sensor has been read (R313). -/
def State.tempMax (s : State) : Int :=
  match s.dev.temps.filterMap id with
  | [] => 0
  | v :: r => r.foldl max v

/-- R313: `stat` without keys. -/
def verbStatDevice (l : LineCtx) (s : State) : State :=
  let st := if s.dev.dfault.isSome then "fault" else if s.dev.ready then "ready" else "boot"
  s.ok w8 l [kv "state" (asc st), kv "df" (hex2 s.dfCode), kv "rack" (rackText s.dev.rack), kv "temp" (decI s.tempMax),
    kn "ign" (s.win w8).ign]

def execStatDevice (l : LineCtx) (s : State) : Out := .next (s.atLine w8 (.statDevice l) (verbStatDevice l))

/-- R313: `stat what=parts`. -/
def verbStatParts (l : LineCtx) (s : State) : State :=
  let line (p : Nat) : Option (List (List Byte)) :=
    let q := s.part p
    if q.stat = .free then none
    else some [nameN "p" p, kv "courts" (courtList q.courts), kv "state" q.stateName, kb "lock" q.locked, kn "mhz" q.mhz]
  s.replies w8 l ((List.range 8).filterMap line) []

def execStatParts (l : LineCtx) (s : State) : Out := .next (s.atLine w8 (.statParts l) (verbStatParts l))

/-- Sums over the clusters of a court. -/
def State.courtSum (s : State) (c : Nat) (f : Cluster → Nat) : Nat :=
  ((List.range 12).map fun k => f (s.clu (12 * c + k))).foldl (· + ·) 0

/-- R313: `stat what=courts`. -/
def verbStatCourts (l : LineCtx) (s : State) : State :=
  s.replies w8 l ((List.range 8).map fun c =>
    [nameN "c" c, kv "part" (s.ownerText c), kn "drill" (s.courtSum c (·.dFails)), kn "suspect" (s.courtSum c (·.suspect))]) []

def execStatCourts (l : LineCtx) (s : State) : Out := .next (s.atLine w8 (.statCourts l) (verbStatCourts l))

/-- R313: `stat what=counters`; the names of its keys are the model's (assumption 12, DESIGN CHOICE). -/
def verbStatDeviceCounters (l : LineCtx) (s : State) : State :=
  let w := s.win w8
  s.replies w8 l [[kn "ign" w.ign, kv "why" (hex2 w.ignWhy), kn "dfault" s.dev.dfCount, kn "trip" s.dev.trips]] []

def execStatDeviceCounters (l : LineCtx) (s : State) : Out :=
  .next (s.atLine w8 (.statDeviceCounters l) (verbStatDeviceCounters l))

/-- R314: `temp`, legal during a device fault too (R300). -/
def verbTemp (l : LineCtx) (s : State) : State :=
  if !(s.dev.ready || s.dev.dfault.isSome) then s.ignore w8 l .state
  else
    let t (i : Nat) : Int := (tget none s.dev.temps i).getD 0
    s.ok w8 l ([kv "max" (decI s.tempMax)] ++ ((List.range 8).map fun c => nameN "c" c ++ asc "=" ++ decI (t c)) ++
      [kv "mgmt" (decI (t 8)), asc "trip=110"])

def execTemp (l : LineCtx) (s : State) : Out := .next (s.atLine w8 (.temp l) (verbTemp l))

/-- R285, R315: `echo`. -/
def verbEcho (l : LineCtx) (on : Bool) (s : State) : State :=
  if !s.isReady then s.ignore w8 l .state
  else (s.updUart fun u => { u with echo := on, lines := if on then 0 else u.lines }).ok w8 l

def execEcho (l : LineCtx) (on : Bool) (s : State) : Out := .next (s.atLine w8 (.echo l on) (verbEcho l on))

/-- The bytes that a transport of w8 holds. -/
def State.held8 (s : State) (uart : Bool) : Nat := if uart then s.uart.tx.length else (s.win w8).reply.length

/-- R317: `reset`, legal during a device fault too (R300). The reset waits for the bytes of its transport up to the end of
its reply, beside those that earlier `reset` lines wait for; a reply that is lost is not waited for (assumption 22, DESIGN
CHOICE). -/
def verbReset (l : LineCtx) (s : State) : State :=
  if !(s.dev.ready || s.dev.dfault.isSome) then s.ignore w8 l .state
  else
    let t := s.ok w8 l
    let n := t.held8 l.uart
    t.updDev fun d => { d with resetIn := d.resetIn ++ [(l.uart, if s.held8 l.uart < n then n else 0)] }

def execResetCommand (l : LineCtx) (s : State) : Out := .next (s.atLine w8 (.resetCommand l) (verbReset l))

end Sys2Proof.Machine
end

