-- ==== Sys2Proof/Machine/PartVerbs.lean ====
section
/-! DEFINITION. The verbs of partition windows, but for the debug verbs, `drill` and `lock` (R318 to R335). -/

namespace Sys2Proof.Machine

/-- A slot's letter. -/
def slotName (b : Bool) : List Byte := asc (if b then "b" else "a")

/-- A time of 1 µs to 60 s, in µs (R253, R326). -/
def dlOk (t : Option Nat) : Bool := t.all fun t => decide (1 ≤ t) && decide (t ≤ 60000000)

/-- R320: `flush` and `sat` are 0 or 1. -/
def ncOk (n : NcItems) : Bool := (n.flush.all fun v => decide (v ≤ 1)) && n.sat.all fun v => decide (v ≤ 1)

/-! ## load and swap (R243 to R248, R319) -/

/-- Launches queued or running on a slot (R245, R330). -/
def Partition.bound (q : Partition) (b : Bool) : Nat :=
  (q.queue.filter fun la => la.b == b).length + (match q.run with | some r => b2n (r.la.b == b) | none => 0)

/-- R319: `load` begins: the partition is LOADED now (R292, R408). Of a `load` that is both out of range and aimed at a slot
that a launch is bound to, the range is answered first (assumption 30, DESIGN CHOICE). -/
def verbLoad (l : LineCtx) (p : Part) (b : Bool) (src len : Nat) (s : State) : State :=
  let q := s.part p
  if !s.legal p true true true true then s.ignore p l .state
  else if src % 64 ≠ 0 ∨ len % 64 ≠ 0 ∨ 2 ^ 25 < len ∨ q.slotLo < src + len then s.no p l "range"
  else if q.bound b ≠ 0 then s.no p l "busy"
  else
    let s := s.updPart p fun q => { q with
      slots := q.slots.set (b2n b) { st := .loading }, load := some { ctx := l, b := b, src := src, len := len } }
    (q.clusters.foldl (fun s g => s.updClu g fun k => { k with icache := k.icache.filter fun e => e.1 != b }) s).settle p

def execLoad (l : LineCtx) (p : Part) (b : Bool) (src len : Nat) (s : State) : Out :=
  .next (s.atLine p (.load l p b src len) (verbLoad l p b src len))

/-- R248: where a failure is reported. -/
def VAt.text : VAt → List Byte
  | .header b => asc "h:" ++ dec b
  | .desc k => asc "d:" ++ dec k
  | .stream i o => dec i ++ asc ":" ++ dec o

/-- R243: the copy and its verification have ended. A source line that cannot be read fails the digest (assumption 16,
DEDUCED). -/
def execLoadDone (p : Part) (obs : HwObs) (s : State) : Out :=
  .next (match (s.part p).load with
    | none => s
    | some j =>
      let q := s.part p
      let src := q.daLines (linesOf j.src j.len)
      let held := s.snooped (src ++ q.slotLines j.b j.len)
      if s.dev.dfault.isSome then s
      else if !held.isEmpty then s.biAsk held
      else
        let s := s.observe obs src
        let bytes := (List.range j.len).map fun k => s.rdPa p (j.src + k)
        let bad := src.any fun l => (s.cause l).isSome
        let fail := if bad then some (VAt.header 208, 0x09) else verifyImage bytes q.courts.length j.len
        let s := if bad then s else s.wrPa p (cellsAt (q.slotPa j.b) bytes)
        let s := s.updPart p fun q => { q with
          load := none, slots := q.slots.set (b2n j.b) (if fail.isSome then {} else slotOf bytes j.len) }
        match fail with
        | some (a, c) => s.no p j.ctx "verify" [kv "at" a.text, kv "code" (hex2 c)]
        | none => s.ok p j.ctx)

/-- R247: `swap`. -/
def verbSwap (l : LineCtx) (p : Part) (s : State) : State :=
  let q := s.part p
  if !s.legal p false true true true then s.ignore p l .state
  else if (q.slot (!q.active)).st ≠ .verified then s.no p l "empty"
  else (s.updPart p fun q => { q with active := !q.active }).ok p l [kv "slot" (slotName (!q.active))]

def execSwap (l : LineCtx) (p : Part) (s : State) : Out := .next (s.atLine p (.swap l p) (verbSwap l p))

/-! ## go, wait, sig, halt, abort (R253, R254, R320 to R325) -/

/-- R253, R254, R320, R321: `go`. Of one that fails a range check and names a slot that is not VERIFIED, the range is answered
first (assumption 30, DESIGN CHOICE). -/
def verbGo (l : LineCtx) (p : Part) (img : Option Bool) (args dl : Option Nat) (nc : NcItems) (done : Option Nat)
    (s : State) : State :=
  let q := s.part p
  let a := args.getD 0
  let b := img.getD q.active
  if !s.legal p false true true true then s.ignore p l .state
  else if a % 64 ≠ 0 ∨ q.slotLo ≤ a ∨ !(done.all fun d => d % 32 == 0 && decide (d < q.slotLo)) ∨ !dlOk dl ∨ !ncOk nc then
    s.no p l "range"
  else if (q.slot b).st ≠ .verified then s.no p l "empty"
  else
    let la : Launch :=
      { b := b, args := a, dl := dl.getD (q.pendP.getD q.set).dl, nc := nc, done := done, ctx := l, gated := q.gate
        seq := q.seq + 1 }
    (s.updPart p fun q => { q with queue := q.queue ++ [la], seq := q.seq + 1, gate := false }).ok p l

def execGo (l : LineCtx) (p : Part) (img : Option Bool) (args dl : Option Nat) (nc : NcItems) (done : Option Nat)
    (s : State) : Out :=
  .next (s.atLine p (.go l p img args dl nc done) (verbGo l p img args dl nc done))

/-- R321: `wait` arms the gate. -/
def verbWait (l : LineCtx) (p : Part) (s : State) : State :=
  if !s.legal p false true true true then s.ignore p l .state
  else (s.updPart p fun q => { q with gate := true }).ok p l

def execWait (l : LineCtx) (p : Part) (s : State) : Out := .next (s.atLine p (.wait l p) (verbWait l p))

/-- R321: `sig` adds a ticket. -/
def verbSig (l : LineCtx) (p : Part) (s : State) : State :=
  if !s.legal p false true true true then s.ignore p l .state
  else if (s.part p).tickets ≥ 255 then s.no p l "full"
  else (s.updPart p fun q => { q with tickets := q.tickets + 1 }).ok p l

def execSig (l : LineCtx) (p : Part) (s : State) : Out := .next (s.atLine p (.sig l p) (verbSig l p))

/-- R324: `halt` removes every queued launch; its reply follows the last report. -/
def verbHalt (l : LineCtx) (p : Part) (s : State) : State :=
  if !s.legal p false true true true then s.ignore p l .state
  else
    let n := (s.part p).queue.length
    let s := s.updPart p fun q => { q with
      reports := q.reports ++ q.queue.map fun la => haltReport la 0 "halt"
      queue := [], gate := false, tickets := 0, haltReply := some (l, n) }
    (s.updWin p fun w => { w with busy := some (.halting p) }).pumpFree p

def execHalt (l : LineCtx) (p : Part) (s : State) : Out := .next (s.atLine p (.halt l p) (verbHalt l p))

/-- R325: `abort` faults the partition. -/
def verbAbort (l : LineCtx) (p : Part) (s : State) : State :=
  if !s.legal p false false true true || (s.part p).run.isNone then s.ignore p l .state
  else (s.latch p (errOf 0x0C 0x0B 0 2)).ok p l

def execAbort (l : LineCtx) (p : Part) (s : State) : Out := .next (s.atLine p (.abort l p) (verbAbort l p))

/-! ## set, shard, commit (R290 to R292, R326 to R328) -/

/-- R326: `set` stages context fields and the deadline. -/
def verbSet (l : LineCtx) (p : Part) (nc : Option NcItems) (dl : Option Nat) (s : State) : State :=
  if nc.isNone && dl.isNone then s.ignore p l .missing
  else if !s.legal p true true true true then s.ignore p l .state
  else if !dlOk dl || !nc.all ncOk then s.no p l "range"
  else
    (s.updPart p fun q => { q with stageP :=
      { q.stageP with ctx := q.stageP.ctx.with (nc.getD {}), dl := dl.getD q.stageP.dl } }).ok p l

def execSet (l : LineCtx) (p : Part) (nc : Option NcItems) (dl : Option Nat) (s : State) : Out :=
  .next (s.atLine p (.set l p nc dl) (verbSet l p nc dl))

/-- One shard entry is staged. -/
def State.stageShard (s : State) (p idx : Nat) (e : Option ShardEntry) : State :=
  s.updPart p fun q => { q with stageP := { q.stageP with shards := spSet none q.stageP.shards idx e } }

/-- R327: `shard`. -/
def verbShard (l : LineCtx) (p : Part) (idx : Nat) (g pp c : List Nat) (dev : List (Nat × Nat)) (s : State) : State :=
  let inRange (lo hi : Nat) (xs : List Nat) : Bool := xs.all fun v => decide (lo ≤ v) && decide (v ≤ hi)
  if !s.legal p true true true true then s.ignore p l .state
  else match expandRanges dev with
    | none => s.no p l "range"
    | some ds =>
      if 255 < idx ∨ !inRange 1 0xFFFFFFFF g ∨ !inRange 1 64 pp ∨ !inRange 0 63 c ∨ 64 < ds.length then s.no p l "range"
      else if g.length ≠ pp.length ∨ g.length ≠ c.length ∨ 5 < g.length then s.no p l "rank"
      else (s.stageShard p idx (some { rank := g.length, g := g, p := pp, c := c, dev := ds })).ok p l

def execShard (l : LineCtx) (p : Part) (idx : Nat) (g pp c : List Nat) (dev : List (Nat × Nat)) (s : State) : Out :=
  .next (s.atLine p (.shard l p idx g pp c dev) (verbShard l p idx g pp c dev))

/-- R327: `shard drop`. -/
def verbShardDrop (l : LineCtx) (p : Part) (idx : Nat) (s : State) : State :=
  if !s.legal p true true true true then s.ignore p l .state
  else if idx > 255 then s.no p l "range"
  else (s.stageShard p idx none).ok p l

def execShardDrop (l : LineCtx) (p : Part) (idx : Nat) (s : State) : Out :=
  .next (s.atLine p (.shardDrop l p idx) (verbShardDrop l p idx))

/-- R387: the lowest destination for which a route table is not accepted. -/
def badRoute (rack : Option Nat) (r : RSettings) : Option Nat :=
  let named := r.routes.map (·.1)
  let members := match r.group with | some g => g.members | none => []
  lowest (match rack with
    | none => named ++ members
    | some n => (if named.contains n then [n] else []) ++ members.filter fun m => m != n && !named.contains m)

/-- R328: what `commit` finds wrong, in its order. -/
def commitError (rack : Option Nat) (q : Partition) : Option (String × List (List Byte)) :=
  match q.stageP.shards.find? fun e => match e.2 with | some x => !x.ok rack | none => false with
  | some e => some ("shard", [kn "idx" e.1])
  | none =>
    match badRoute rack q.stageR with
    | some d => some ("route", [kn "dst" d])
    | none =>
      match q.stageR.group with
      | some g => if rack.any g.members.contains then none else some ("group", [kn "id" g.id])
      | none => none

/-- R291, R404: the staged copy becomes the pending set where it changes something; `regroup` says that a group line is among
the changes, though it repeats the effective group. -/
def Partition.committed (q : Partition) : Partition :=
  let newP := q.stageP != q.pendP.getD q.set
  let newR := q.touched || q.stageR != q.pendR.getD q.rally
  { q with
    pendP := if newP then some q.stageP else q.pendP, pendR := if newR then some q.stageR else q.pendR
    regroup := q.regroup || q.touched, touched := false }

/-- R328: `commit`. -/
def verbCommit (l : LineCtx) (p : Part) (s : State) : State :=
  if !s.legal p true true true true then s.ignore p l .state
  else match commitError s.dev.rack (s.part p) with
    | some (why, keys) => s.no p l why keys
    | none => ((s.updPart p (·.committed)).settle p).ok p l

def execCommit (l : LineCtx) (p : Part) (s : State) : Out := .next (s.atLine p (.commit l p) (verbCommit l p))

/-! ## stat and tally (R329 to R331) -/

/-- R329: `stat` without keys. -/
def verbStatPartition (l : LineCtx) (p : Part) (s : State) : State :=
  let q := s.part p
  let run := match q.run with
    | some r => (match r.la.ctx.tag with | some t => dec t | none => asc "-")
    | none => asc "none"
  s.ok p l [kv "state" q.stateName, kn "q" q.queue.length, kv "run" run, kb "gate" q.gate, kn "tk" q.tickets,
    kv "slot" (slotName q.active), kb "lock" q.locked, kb "pend" q.pendR.isSome, kv "ff" (hex2 q.ffCode)]

def execStatPartition (l : LineCtx) (p : Part) (s : State) : Out :=
  .next (s.atLine p (.statPartition l p) (verbStatPartition l p))

/-- A byte string as a value (R278). -/
def pct (b : List Byte) : List Byte := asc "%" ++ hexBytes b

/-- R330: `stat what=slots`; the digest of a slot that is not VERIFIED is zeros (assumption 12, DESIGN CHOICE). -/
def verbStatSlots (l : LineCtx) (p : Part) (s : State) : State :=
  let q := s.part p
  s.replies p l ([false, true].map fun b =>
    let t := q.slot b
    [kv "slot" (slotName b),
     kv "state" (asc (match t.st with | .empty => "empty" | .loading => "loading" | .verified => "verified")),
     kn "bound" (q.bound b),
     kv "digest" (pct (if t.st = .verified then t.digest.take 8 else List.replicate 8 0))]) []

def execStatSlots (l : LineCtx) (p : Part) (s : State) : Out := .next (s.atLine p (.statSlots l p) (verbStatSlots l p))

/-- Jobs that hold a key of a slot (R330). -/
def Partition.keyRefs (q : Partition) (k : Nat) : Nat :=
  (q.jobs.filter fun j => match j.latch with | some (a, _, _) => a == k | none => false).length

/-- R330: `stat what=keys`. -/
def verbStatKeys (l : LineCtx) (p : Part) (s : State) : State :=
  let q := s.part p
  s.replies p l ((List.range 8).map fun k =>
    let e := tget {} q.keys k
    [kn "slot" k, kb "full" e.key.isSome, kn "refs" (q.keyRefs k), kb "erase" (!e.erase.isEmpty)]) []

def execStatKeys (l : LineCtx) (p : Part) (s : State) : Out := .next (s.atLine p (.statKeys l p) (verbStatKeys l p))

/-- Sums over the clusters of a partition (R330). -/
def State.partSum (s : State) (p : Nat) (f : Cluster → Nat) : Nat :=
  ((s.part p).clusters.map fun g => f (s.clu g)).foldl (· + ·) 0

/-- R330: `stat what=counters`; the names of its keys are the model's (assumption 12, DESIGN CHOICE). -/
def verbStatPartCounters (l : LineCtx) (p : Part) (s : State) : State :=
  let q := s.part p
  let w := s.win p
  s.replies p l [[kn "ign" w.ign, kv "why" (hex2 w.ignWhy), kn "lockdrop" q.lockdrop, kn "faults" q.faults, kn "late" q.late,
    kn "suspect" (s.partSum p (·.suspect)), kn "drill" (s.partSum p (·.dRuns.toNat)), kn "fail" (s.partSum p (·.dFails))]] []

def execStatPartCounters (l : LineCtx) (p : Part) (s : State) : Out :=
  .next (s.atLine p (.statPartCounters l p) (verbStatPartCounters l p))

/-- R330: `stat what=shard`. -/
def verbStatShard (l : LineCtx) (p : Part) (idx : Nat) (s : State) : State :=
  let nums (xs : List Nat) : List Byte := commaList (xs.map dec)
  if idx > 255 then s.no p l "range"
  else match spGet none (s.part p).set.shards idx with
    | some e => s.replies p l [[kn "idx" idx, kv "g" (nums e.g), kv "p" (nums e.p), kv "c" (nums e.c), kv "dev" (nums e.dev)]] []
    | none => s.no p l "none"

def execStatShard (l : LineCtx) (p : Part) (idx : Nat) (s : State) : Out :=
  .next (s.atLine p (.statShard l p idx) (verbStatShard l p idx))

/-- The name of a cause of a poison mark (R330). -/
def Cause.text : Cause → List Byte
  | .demand => asc "demand" | .patrol => asc "patrol" | .host => asc "host" | .cache | .held => asc "cache"

/-- R330, R450: `stat what=poison` reports and empties the rewrite log. -/
def verbStatPoison (l : LineCtx) (p : Part) (s : State) : State :=
  let q := s.part p
  let s := s.replies p l (q.log.map fun e =>
    [kv "pa" (hex0x e.pa), kv "da" (hex0x e.da), kv "ch" (nameN "m" e.ch), kv "src" e.cause.text])
    [kn "n" q.log.length, kb "over" q.logOver]
  s.updPart p fun q => { q with log := [], logOver := false }

def execStatPoison (l : LineCtx) (p : Part) (s : State) : Out :=
  .next (s.atLine p (.statPoison l p) (verbStatPoison l p))

/-- A `free` of the partition is under way (R304). -/
def State.freeing (s : State) (p : Nat) : Bool :=
  match (s.win w8).busy with | some (.freeing _ n) => n == p | _ => false

/-- R331: `tally` reports the copy of the last launch that started; during a `free` it is illegal (R304). `tag=-` stands for
a `go` without a tag, `name=-` for a set without one (assumption 12, DESIGN CHOICE). A name of HINTS is shown with its
capitals, as R241 shows it, though R276 has the device write in lower case (assumption 30, DESIGN CHOICE). -/
def verbTally (l : LineCtx) (p : Part) (set : Option Nat) (s : State) : State :=
  let q := s.part p
  if !s.isReady || q.stat == .free || s.freeing p then s.ignore p l .state
  else if set.any fun n => decide (n > 15) then s.no p l "range"
  else match q.copy with
    | none => s.no p l "none"
    | some c =>
      let shown (i : Nat) : Bool :=
        let t := tget {} c.sets i
        match set with
        | some n => n == i
        | none => !(tget [] c.name i).isEmpty || t.sat + t.flush + t.nan != 0
      s.replies p l (((List.range 16).filter shown).map fun i =>
        let t := tget {} c.sets i
        let name := tget [] c.name i
        [kn "set" i, kv "name" (if name.isEmpty then asc "-" else name), kn "sat" t.sat, kn "flush" t.flush, kn "nan" t.nan])
        [kv "tag" (match c.tag with | some t => dec t | none => asc "-"), kn "sum" c.sum]

def execTally (l : LineCtx) (p : Part) (set : Option Nat) (s : State) : Out :=
  .next (s.atLine p (.tally l p set) (verbTally l p set))

/-! ## key and unkey (R332, R333, R429 to R431) -/

/-- R332: `key`. -/
def verbKey (l : LineCtx) (p : Part) (slot : Nat) (wrap : List Byte) (s : State) : State :=
  match (if s.legal p true true true true then (s.part p).session else none) with
  | none => s.ignore p l .state
  | some k =>
    if 7 < slot ∨ wrap.length ≠ 40 then s.no p l "range"
    else match keyUnwrap k.kWrap wrap with
      | none => s.no p l "unwrap"
      | some b =>
        (s.updPart p fun q => { q with
          keys := q.keys.modify slot fun e => { e with key := some b, ctr := 0, gen := e.gen + 1 } }).ok p l [kn "slot" slot]

def execKey (l : LineCtx) (p : Part) (slot : Nat) (wrap : List Byte) (s : State) : Out :=
  .next (s.atLine p (.key l p slot wrap) (verbKey l p slot wrap))

/-- R333: `unkey`. -/
def verbUnkey (l : LineCtx) (p : Part) (slot : Nat) (s : State) : State :=
  if !s.legal p true true true true || !(s.part p).locked then s.ignore p l .state
  else if slot > 7 then s.no p l "range"
  else
    (s.updPart p fun q => { q with keys := q.keys.modify slot fun e =>
      match e.key with
      | none => e
      | some _ =>
        let held := q.jobs.any fun j => match j.latch with | some (a, g, _) => a == slot && g == e.gen | none => false
        { e with key := none, erase := if held then e.erase ++ [e.gen] else e.erase } }).ok p l [kn "slot" slot]

def execUnkey (l : LineCtx) (p : Part) (slot : Nat) (s : State) : Out := .next (s.atLine p (.unkey l p slot) (verbUnkey l p slot))

/-! ## move and fill (R334, R335) -/

/-- R335: a job's range and addresses are accepted. -/
def Partition.jobOk (q : Partition) (kind : Nat) (key : Option Nat) (pa host len : Nat) : Bool :=
  pa % 64 == 0 && len % 64 == 0 && host % 64 == 0 && decide (64 ≤ len) && decide (pa + len ≤ q.size) &&
  (match key with | some k => decide (k ≤ 7) && pa % 4096 == 0 && len % 4096 == 0 | none => true) &&
  (kind == 1 || decide (pa + len ≤ q.slotLo))

/-- Jobs of a partition that have not replied (R335). -/
def Partition.jobCount (q : Partition) : Nat := q.jobs.length + (q.reports.filter fun r => bit r.flags 1).length

/-- R334, R335: a job is checked and submitted. -/
def submitJob (l : LineCtx) (p : Part) (kind : Nat) (key : Option Nat) (pa host len val : Nat) (s : State) : State :=
  if !s.legal p true true true true then s.ignore p l .state
  else if !(s.part p).jobOk kind key pa host len then s.no p l "range"
  else if (s.part p).jobCount ≥ 16 then s.no p l "full"
  else s.submit p l kind key pa host len val

def execMove (l : LineCtx) (p : Part) (out : Bool) (pa host len : Nat) (key : Option Nat) (s : State) : Out :=
  .next (s.atLine p (.move l p out pa host len key) (submitJob l p (b2n out) key pa host len 0))

def execFill (l : LineCtx) (p : Part) (pa len val : Nat) (s : State) : Out :=
  .next (s.atLine p (.fill l p pa len val) (submitJob l p 2 none pa 0 len val))

end Sys2Proof.Machine
end

