-- ==== Sys2Proof/Machine/DebugVerbs.lean ====
section
/-! DEFINITION. The debug verbs, `lock`, and drills (R261 to R265, R316, R336 to R339, R421, R424, R457 to R461). -/

namespace Sys2Proof.Machine

/-! ## Breaks and steps (R261 to R264, R336) -/

/-- R261: the image that a debug line concerns carries DEBUG. -/
def Partition.debugImage (q : Partition) : Bool :=
  match q.run with
  | some r => r.debug
  | none => let t := q.slot q.active; t.st == .verified && t.debug

/-- R261: debug verbs are permitted on a partition. -/
def State.debugPermitted (s : State) (p : Nat) : Bool := s.dbgOk (s.part p) (s.part p).debugImage

/-- A debug verb whose line is well formed: STATE, then DEBUG, then its effect; carrying it out is noted (R417). -/
def debugVerb (l : LineCtx) (p : Part) (state : Bool) (s : State) (body : State → State) : State :=
  if !state then s.ignore p l .state
  else if !s.debugPermitted p then s.ignore p l .debug
  else body (s.updPart p fun q => { q with dbgUsed := true })

/-- R336: a break is armed. Of one that is out of range while four are armed, the range is answered first (assumption 30, DESIGN
CHOICE). -/
def armBreak (l : LineCtx) (p : Part) (ok : Bool) (b : Brk) (s : State) : State :=
  debugVerb l p (s.legal p true true true true) s fun s' =>
    if !ok then s.no p l "range"
    else if (s.part p).breaks.length ≥ 4 then s.no p l "full"
    else (s'.updPart p fun q => { q with breaks := q.breaks ++ [b] }).ok p l

/-- The cluster and stream of a debug line are in range. -/
def State.clOk (s : State) (p cl st : Nat) : Bool := decide (cl < 12 * (s.part p).courts.length) && decide (st ≤ 4)

/-- R336: `break cl= s= n=`. -/
def verbBreakCount (l : LineCtx) (p : Part) (cl st n : Nat) (s : State) : State :=
  armBreak l p (s.clOk p cl st && decide (1 ≤ n) && decide (n < 2 ^ 32)) (.count cl st n) s

def execBreakCount (l : LineCtx) (p : Part) (cl st n : Nat) (s : State) : Out :=
  .next (s.atLine p (.breakCount l p cl st n) (verbBreakCount l p cl st n))

/-- R336: `break tag=`. -/
def verbBreakTag (l : LineCtx) (p : Part) (tag : Nat) (s : State) : State := armBreak l p (decide (tag ≤ 65535)) (.tag tag) s

def execBreakTag (l : LineCtx) (p : Part) (tag : Nat) (s : State) : Out :=
  .next (s.atLine p (.breakTag l p tag) (verbBreakTag l p tag))

/-- R336: `break drop`. -/
def verbBreakDrop (l : LineCtx) (p : Part) (s : State) : State :=
  debugVerb l p (s.legal p true true true true) s fun s => (s.updPart p fun q => { q with breaks := [] }).ok p l

def execBreakDrop (l : LineCtx) (p : Part) (s : State) : Out := .next (s.atLine p (.breakDrop l p) (verbBreakDrop l p))

/-- R263, R264: every stream has stopped issuing; the window reports the break. -/
def execBreakStopped (p : Part) (s : State) : Out :=
  .next (match (s.part p).run with
    | some r =>
      if r.stopping ∧ (s.part p).stat = .up then
        (s.updPart p fun q => { q with run := q.run.map fun r => { r with stop := .stopped none } }).emit p r.la.ctx.uart
          (evLine r.la.ctx [asc "break"])
      else s
    | none => s)

/-- The stop state of the running launch changes. -/
def State.setStop (s : State) (p : Nat) (x : StopSt) : State :=
  s.updPart p fun q => { q with run := q.run.map fun r => { r with stop := x } }

/-- R264: `step`; a step that is still pending gives way to the new one (assumption 21, DESIGN CHOICE). -/
def verbStep (l : LineCtx) (p : Part) (cl st m : Nat) (s : State) : State :=
  debugVerb l p (s.legal p false false false true) s fun s' =>
    if !(s.clOk p cl st && decide (1 ≤ m) && decide (m ≤ 65535)) then s.no p l "range"
    else (s'.setStop p (.stopped (some (cl, st, m)))).ok p l

def execStep (l : LineCtx) (p : Part) (cl st m : Nat) (s : State) : Out :=
  .next (s.atLine p (.step l p cl st m) (verbStep l p cl st m))

/-- R264: `cont`. -/
def verbCont (l : LineCtx) (p : Part) (s : State) : State :=
  debugVerb l p (s.legal p false false false true) s fun s => (s.setStop p .running).ok p l

def execCont (l : LineCtx) (p : Part) (s : State) : Out := .next (s.atLine p (.cont l p) (verbCont l p))

/-! ## peek and poke (R265, R337) -/

/-- R265: the state a debug access needs: stopped, or no launch running. -/
def State.peekState (s : State) (p : Nat) : Bool := s.legal p true true (s.part p).run.isNone true

/-- The size of a kind of register: how many there are, and the bits of one (R337); an event counter has its mode above its
32 bits (R265, assumption 12, DESIGN CHOICE). -/
def dbgSize : DbgTarget → Nat × Nat
  | .sp => (0, 64) | .v => (32, 8192) | .a => (16, 48) | .l => (4, 32) | .e => (8, 41) | .w => (4, 32) | .t => (64, 8)
  | .tally => (16, 96) | .region => (1024, 0) | .q => (8, 1)

/-- R337: a key that a target requires is missing. -/
def dbgMissing (what : DbgTarget) (st reg addr : Option Nat) : Bool :=
  match what with
  | .sp => addr.isNone
  | .a | .l => st.isNone || reg.isNone
  | _ => reg.isNone

/-- R297, R337: the cluster, stream, register and scratchpad address of a debug access are in range, also where the target
does not use them. -/
def State.dbgRange (s : State) (p cl : Nat) (what : DbgTarget) (st reg addr : Option Nat) : Bool :=
  s.clOk p cl (st.getD 0) && (what == .sp || decide (reg.getD 0 < (dbgSize what).1)) && decide (addr.getD 0 < 2 ^ 22)

/-- The mode of an event counter as text (assumption 12, DESIGN CHOICE). -/
def EMode.text : EMode → List Byte
  | .off => asc "off" | .issue n => asc "issue:" ++ dec n | .edge n => asc "edge:" ++ dec n | .cycles => asc "cycles"
  | .stall n => asc "stall:" ++ dec n | .bank => asc "bank"

/-- The state of a region as text (assumption 12, DESIGN CHOICE). -/
def RState.text : RState → List Byte
  | .empty => asc "empty" | .filling => asc "filling" | .full => asc "full" | .draining => asc "draining"

/-- Bytes as data lines of 64 bytes. -/
def dataLines : Nat → List Byte → List (List Byte)
  | 0, _ => []
  | n + 1, b => if b.isEmpty then [] else kv "data" (pct (b.take 64)) :: dataLines n (b.drop 64)

/-- R337: the data lines of a `peek`. -/
def peekLines (k : Cluster) (what : DbgTarget) (st reg addr len : Nat) : List (List (List Byte)) :=
  let val (v : Nat) : List (List Byte) := [kv "val" (hex0x v)]
  match what with
  | .sp =>
    (dataLines 64 ((List.range len).map fun i => spGet 0 k.sp (addr + i))).zipIdx.map fun d =>
      [kv "addr" (hex0x (addr + 64 * d.2)), d.1]
  | .v => (dataLines 16 ((List.range 1024).map fun i => spGet 0 k.vr (1024 * reg + i))).map fun d => [d]
  | .a => [val (tget 0 (k.str st).a reg).toNat]
  | .l => [val (tget 0 (k.str st).l reg).toNat]
  | .e => let c := tget {} k.e reg; [val c.v.toNat ++ [kv "mode" c.mode.text]]
  | .w => [val (tget {} k.w reg).v.toNat]
  | .t => [val (tget 0 k.tokens reg).toNat]
  | .tally => let t := tget {} k.tally reg; [[kn "sat" t.sat, kn "flush" t.flush, kn "nan" t.nan]]
  | .region => let r := spGet {} k.regions reg; [[kv "state" r.st.text, kn "n" r.n]]
  | .q => [val (b2n (k.pred reg))]

/-- Reading scratchpad words for a `peek` may meet errors that are corrected, and counted (R437, R463); how many is free
(assumption 2, DESIGN CHOICE). -/
def State.peekSp (s : State) (g a n : Nat) : State :=
  let ce := ((List.range ((a + n - 1) / 32 + 1 - a / 32)).filter fun i => Config.corrected s.free (a / 32 + i)).length
  (s.updClu g fun k => { k with spce := satAdd 0xFFFFFFFF k.spce ce }).fresh

/-- R337: `peek`, by which no time passes for the counters while no launch runs (R169); `len` is 64 where it is absent
(assumption 12, DESIGN CHOICE). -/
def verbPeek (l : LineCtx) (p : Part) (cl : Nat) (what : DbgTarget) (st reg addr len : Option Nat) (s : State) : State :=
  if dbgMissing what st reg addr then s.ignore p l .missing
  else debugVerb l p (s.peekState p) s fun s' =>
    let a := addr.getD 0
    let n := len.getD 64
    let lenOk := decide (1 ≤ n) && decide (n ≤ 4096) && ((what != .sp && len.isNone) || decide (a + n ≤ 2 ^ 22))
    if !(s.dbgRange p cl what st reg addr && lenOk) then s.no p l "range"
    else
      let g := (s.part p).glob cl
      let s := if (s.part p).run.isSome then s'.passTime g else s'
      let s := if what == .sp then s.peekSp g a n else s
      s.replies p l (peekLines (s.clu g) what (st.getD 0) (reg.getD 0) a n) []

def execPeek (l : LineCtx) (p : Part) (cl : Nat) (what : DbgTarget) (st reg addr len : Option Nat) (s : State) : Out :=
  .next (s.atLine p (.peek l p cl what st reg addr len) (verbPeek l p cl what st reg addr len))

/-- The mode that a `poke` of an event counter sets: bits [34:32] hold 1 + the mode's code of EOP (0 keeps the mode), bits
[40:35] its stream or token (R169, R265; assumption 12, DESIGN CHOICE). -/
def pokeMode (v : Nat) : Option EMode :=
  let arg := bits v 40 35
  match bits v 34 32 with
  | 1 => some .off | 2 => some (.issue arg) | 3 => some (.edge arg) | 4 => some .cycles | 5 => some (.stall arg)
  | 6 => some .bank | _ => none

/-- A value that a `poke` writes to an event counter is in range. -/
def pokeModeOk (v : Nat) : Bool :=
  match bits v 34 32 with
  | 2 | 5 => decide (bits v 40 35 ≤ 4)
  | 3 => true
  | m => m != 7 && bits v 40 35 == 0

/-- R265: what a `poke` writes; a loop counter written makes the stream's fetch take up its issue point (R153). A number goes
into scratchpad as 8 bytes, into a vector register as its low bytes, into a tally set as three counts of 32 bits, sat in the
lowest, then flush, then nan (assumption 12, DESIGN CHOICE). -/
def pokeCluster (k : Cluster) (what : DbgTarget) (st reg addr v : Nat) (data : Option (List Byte)) : Cluster :=
  match what with
  | .sp => { k with sp := (cellsAt addr (data.getD (leBytes 8 v))).foldl (fun m c => spSet 0 m c.1 c.2) k.sp }
  | .v => { k with vr := (cellsAt (1024 * reg) (leBytes 1024 v)).foldl (fun m c => spSet 0 m c.1 c.2) k.vr }
  | .a => k.updStr st fun t => { t with a := t.a.set reg (BitVec.ofNat 48 v) }
  | .l => k.updStr st fun t => { t with l := t.l.set reg (BitVec.ofNat 32 v) }.refetch
  | .e => { k with e := k.e.modify reg fun c => { v := BitVec.ofNat 32 v, mode := (pokeMode v).getD c.mode } }
  | .w => { k with w := k.w.modify reg fun t => { t with v := BitVec.ofNat 32 v } }
  | .t => { k with tokens := k.tokens.set reg (BitVec.ofNat 8 v) }
  | .tally => { k with tally := k.tally.set reg { sat := v % 2 ^ 32, flush := v / 2 ^ 32 % 2 ^ 32, nan := v / 2 ^ 64 % 2 ^ 32 } }
  | .region | .q => k

/-- What the words that a `poke` of scratchpad covers in part meet as they are merged: corrected errors are counted, and at an
uncorrectable one the partition faults as for a read, where it is RUNNING (R437, R438, R442, R463); which they are is free
(assumption 2, DESIGN CHOICE). Whether the bytes may be written. -/
def State.pokeSp (s : State) (p g a n : Nat) : Bool × State :=
  let bytes := (List.range n).map (a + ·)
  let words := ((bytes.map (· / 32)).eraseDups.map (32 * ·)).filter (mergesWord bytes)
  let obs := s.freeSp g words
  let s := if words.isEmpty then s else s.fresh
  match obs.spUe.head? with
  | some u => (false, s.latch p (errOf 0x02 0x02 u.2 1 (g / 12) 0xFF))
  | none => (true, s.spSeen [g] obs)

/-- R265, R337: `poke`. A write that R438 forbids is answered as any other (assumption 12, DESIGN CHOICE). -/
def verbPoke (l : LineCtx) (p : Part) (cl : Nat) (what : DbgTarget) (st reg addr val : Option Nat)
    (data : Option (List Byte)) (s : State) : State :=
  if val.isSome && data.isSome then s.ignore p l .unknownKey
  else if what == .region || what == .q then s.ignore p l .badValue
  else if dbgMissing what st reg addr || (val.isNone && data.isNone) then s.ignore p l .missing
  else debugVerb l p (s.peekState p) s fun s' =>
    let a := addr.getD 0
    let v := val.getD 0
    let n := match data with | some d => d.length | none => 8
    let ok := if what == .sp then decide (1 ≤ n) && decide (n ≤ 64) && decide (a + n ≤ 2 ^ 22) && decide (v < 2 ^ 64)
      else data.isNone && decide (v < 2 ^ (dbgSize what).2) && (what != .e || pokeModeOk v)
    if !(s.dbgRange p cl what st reg addr && ok) then s.no p l "range"
    else
      let g := (s.part p).glob cl
      let (may, s) := if what == .sp then s'.pokeSp p g a n else (true, s')
      let s := if what == .sp && may then s.land (some g) ((List.range n).map (a + ·)) else s
      let s := if may then s.updClu g fun k => pokeCluster k what (st.getD 0) (reg.getD 0) a v data else s
      (if what == .l then s.fetch g (st.getD 0) else s).ok p l

def execPoke (l : LineCtx) (p : Part) (cl : Nat) (what : DbgTarget) (st reg addr val : Option Nat)
    (data : Option (List Byte)) (s : State) : Out :=
  .next (s.atLine p (.poke l p cl what st reg addr val data) (verbPoke l p cl what st reg addr val data))

/-! ## lock (R339, R421, R424) -/

/-- R421: the lock proof of a session. -/
def lockProof (k : Session) (p : Nat) : List Byte := (hmac384 k.kLock (asc "lock" ++ [byteOf p])).take 8

/-- R420: the IDE key of a partition for a generation, direction and sub-stream. -/
def ideKey (prk : List Byte) (p gen dir sub : Nat) : List Byte :=
  hkdfExpand prk (asc "ide" ++ [0, byteOf p] ++ leBytes 4 gen ++ [byteOf dir, byteOf sub]) 32

/-- The place of a key in a slot: its key set, direction and sub-stream. -/
def ideAt (set dir : Bool) (sub : Nat) : Nat := 6 * b2n set + 3 * b2n dir + sub

/-- R424, R425: a locked slot holds the keys of a generation as a key set. -/
def IdeSlot.derived (k : IdeSlot) (prk : List Byte) (p gen : Nat) (set : Bool) : IdeSlot :=
  let new := [false, true].flatMap fun d => (List.range 3).map fun u => (ideAt set d u, ideKey prk p gen (b2n d) u)
  { k with gen := gen, keys := (k.keys.filter fun e => !(new.map (·.1)).contains e.1) ++ new }

/-- R339: `lock`; a proof of another length does not verify. -/
def verbLock (l : LineCtx) (p : Part) (proof : List Byte) (s : State) : State :=
  match (if s.legal p true true false false && !(s.part p).locked then (s.part p).pending else none) with
  | none => s.ignore p l .state
  | some k =>
    if proof = lockProof k p then
      let s := s.updPart p fun q => { q with
        session := some { k with kLock := [] }, pending := none, rxSeq := 0, txSeq := 0, breaks := [] }
      (s.updIde p fun e => { e with secure := false, cur := false, keys := [] }.derived k.prk p 0 false).ok p l
    else (s.updPart p fun q => { q with pending := none }).no p l "proof"

def execLock (l : LineCtx) (p : Part) (proof : List Byte) (s : State) : Out :=
  .next (s.atLine p (.lock l p proof) (verbLock l p proof))

/-! ## Drills (R316, R338, R457 to R461) -/

/-- A pass begins on a court. -/
def State.startPass (s : State) (c : Nat) : State :=
  let s := s.updCourt c fun k => { k with drill := true }
  (List.range 12).foldl (fun s k => s.updClu (12 * c + k) fun e => { e with drillK := 0 }) s

/-- A drill line's pass on a court begins. -/
def DrillJob.begin (j : DrillJob) (c : Nat) : DrillJob := { j with wait := j.wait.filter (· != c), on := j.on ++ [c] }

/-- The oldest drill line that waits for a pass on a court, if any, has it begin, once no pass is under way there: a pass
belongs to one line (R316, R461; assumption 21, DEDUCED). -/
def State.nextPass (s : State) (c : Nat) : State :=
  if (s.court c).drill then s
  else match s.dev.drills.findIdx? fun j => j.wait.contains c with
    | some i => (s.startPass c).updDev fun d => { d with drills := d.drills.modify i fun j => j.begin c }
    | none => s

/-- R316: `drill` on w8. A court that the line repeats is drilled once (assumption 21, DESIGN CHOICE). -/
def verbDrillCourts (l : LineCtx) (courts : List Court) (s : State) : State :=
  let cs := (courts.map (·.val)).eraseDups
  if !s.isReady then s.ignore w8 l .state
  else if cs.any fun c => (s.owner c).isSome then s.ignore w8 l .conflict
  else
    let j : DrillJob := { ctx := l, courts := cs, res := cs.map fun c => (c, 0, 0), wait := cs, on := [] }
    cs.foldl (fun s c => s.nextPass c) (s.updDev fun d => { d with drills := d.drills ++ [j] })

def execDrillCourts (l : LineCtx) (courts : List Court) (s : State) : Out :=
  .next (s.atLine w8 (.drillCourts l courts) (verbDrillCourts l courts))

/-- R338: `drill` on a partition window. -/
def verbDrillPartition (l : LineCtx) (p : Part) (s : State) : State :=
  let q := s.part p
  if !s.legal p true true false false || q.outstanding then s.ignore p l .state
  else
    (q.courts.foldl (fun s c => s.startPass c) s).updPart p fun q => { q with
      drill := some { ctx := l, courts := q.courts, res := q.courts.map (fun c => (c, 0, 0)), wait := [], on := q.courts } }

def execDrillPartition (l : LineCtx) (p : Part) (s : State) : Out :=
  .next (s.atLine p (.drillPartition l p) (verbDrillPartition l p))

/-- R459: the schedule starts a pass on a court that belongs to no partition. -/
def execDrillSchedule (c : Court) (s : State) : Out :=
  .next (if s.isReady ∧ (s.owner c).isNone ∧ !(s.court c).drill then s.startPass c else s)

/-- One run's outcome is counted for the drill whose pass it belongs to. -/
def DrillJob.add (j : DrillJob) (c : Nat) (pass : Bool) : DrillJob :=
  if !j.on.contains c then j else { j with res := j.res.map fun r => if r.1 = c then (c, r.2.1 + b2n pass, r.2.2 + b2n (!pass)) else r }

/-- R458, R460: what a run leaves in a cluster: the regions of the scratchpad that it used are zero (all for the march of
kernel 9, which ones for another is free), registers other than E4 to E7 hold free values, the instruction cache has lost the
program's lines (assumption 2, DESIGN CHOICE). -/
def Cluster.afterRun (k : Cluster) (kernel n : Nat) : Cluster :=
  let f (i : Nat) : Nat := Config.leftover n i
  { k with
    sp := spDrop (fun a => kernel == 9 || Config.drillUses kernel (a / 4096)) k.sp
    icache := []
    vr := (List.range 32768).foldl (fun m i => spSet 0 m i (byteOf (f (4096 + i)))) []
    streams := k.streams.zipIdx.map fun t => { t.1 with
      a := (List.range 16).map fun i => BitVec.ofNat 48 (f (16 * t.2 + i))
      l := (List.range 4).map fun i => BitVec.ofNat 32 (f (128 + 4 * t.2 + i)) }
    tokens := (List.range 64).map fun i => BitVec.ofNat 8 (f (256 + i))
    e := ((List.range 4).map fun i => { v := BitVec.ofNat 32 (f (512 + i)) }) ++ k.e.drop 4
    w := (List.range 4).map fun i => { v := BitVec.ofNat 32 (f (520 + i)) }
    tally := (List.range 16).map fun i =>
      { sat := f (600 + 3 * i) % 2 ^ 32, flush := f (601 + 3 * i) % 2 ^ 32, nan := f (602 + 3 * i) % 2 ^ 32 } }

/-- A pass has ended on a court. -/
def State.passOver (s : State) (c : Nat) : State :=
  let ended (j : DrillJob) : DrillJob := { j with on := j.on.filter (· != c) }
  let s := (s.updCourt c fun k => { k with drill := false }).updDev fun d => { d with drills := d.drills.map ended }
  match s.owner c with
  | some p => s.updPart p fun q => { q with drill := q.drill.map ended }
  | none => s

/-- R440, R458: a run passes when its digest is the ROM's and no detector has reported an error that was not corrected. -/
def drillPassed (pass : Bool) (obs : HwObs) : Bool := pass && !obs.suspect && !obs.parity && obs.spUe.isEmpty

/-- R459 to R461: a kernel ends on a cluster of a court that drills; errors corrected in the scratchpads of the court are
counted (R463). What a run leaves in a FREE court is not kept, as `part` scrubs it (R303). -/
def execDrillKernelEnd (g : Clu) (pass : Bool) (s : State) (obs : HwObs := {}) : Out :=
  .next (
    let pass := drillPassed pass obs
    let c := g.val / 12
    let kernel := (s.clu g).drillK
    if !(s.court c).drill || kernel ≥ 12 || s.dev.dfault.isSome then s
    else
      let own := s.ownerG g
      let s := s.updClu g fun k =>
        let k := if own.isSome then k.afterRun kernel s.free else k
        { k with
          dRuns := k.dRuns + 1, drillK := kernel + 1
          dFails := if pass then k.dFails else satAdd 0xFFFFFFFF k.dFails 1
          dLast := if pass then k.dLast else kernel
          dValid := k.dValid || !pass }
      let s := (obs.spCe.filter fun i => i / 12 == c).foldl
        (fun s i => s.updClu i fun k => { k with spce := satAdd 0xFFFFFFFF k.spce 1 }) s.fresh
      let s := match own with
        | some p => s.updPart p fun q => { q with drill := q.drill.map fun j => j.add c pass }
        | none =>
          let s := s.updDev fun d => { d with drills := d.drills.map fun j => j.add c pass }
          if pass then s
          else s.event (evLine {} [asc "drill", nameN "c" c, kn "cl" (g.val % 12), kn "kernel" kernel])
      if (List.range 12).all fun k => (s.clu (12 * c + k)).drillK ≥ 12 then (s.passOver c).nextPass c else s)

/-- R316, R338: a pass that a line asked for has ended on its courts; the line is answered. -/
def execDrillPassDone (w : Win) (s : State) : Out :=
  .next (
    let ended (j : DrillJob) : Bool := j.wait.isEmpty && j.on.isEmpty
    if s.dev.dfault.isSome then s
    else if w.val = 8 then
      match s.dev.drills.findIdx? ended with
      | some i =>
        (match s.dev.drills[i]? with
         | some j =>
           (s.updDev fun d => { d with drills := d.drills.eraseIdx i }).replies 8 j.ctx
             (j.res.map fun r => [nameN "c" r.1, kn "pass" r.2.1, kn "fail" r.2.2]) []
         | none => s)
      | none => s
    else match (s.part w).drill with
      | some j =>
        if ended j then
          let sum (f : Nat × Nat × Nat → Nat) : Nat := (j.res.map f).foldl (· + ·) 0
          (s.updPart w fun q => { q with drill := none }).ok w j.ctx [kn "pass" (sum (·.2.1)), kn "fail" (sum (·.2.2))]
        else s
      | none => s)

end Sys2Proof.Machine
end

