-- ==== Sys2Proof/Machine/Tenancy.lean ====
section
/-! DEFINITION. Attestation reports, sessions and firmware (R310 to R312, R414 to R423, R472, R478). -/

namespace Sys2Proof.Machine

/-! ## The attestation report (R416 to R418) -/

/-- PRODUCT of R416. -/
def State.product (s : State) : List Byte := asc (if s.fuses.grade = 1 then "VX96-150" else "VX96-175")

/-- The parts of the running bundle: version, its three images, security version, raise flag. -/
def Bank.parts (b : Bank) : Nat × Nat × Nat × List Byte × List Byte × List Byte × Nat × Bool :=
  (Config.parseBundle b.bundle).getD (0, 0, 0, [], [], [], 0, false)

/-- FWVER of R416. -/
def State.fwVer (s : State) : List Byte :=
  let (a, b, c, _) := s.running.parts
  [byteOf a, byteOf b, byteOf c, byteOf (b2n s.dev.bank)]

/-- DROM, DVER, DDRAM and DLINK (R416). -/
def State.dRom (_ : State) : List Byte := (List.range 48).map Config.romDigest
def State.dVer (s : State) : List Byte := sha384 s.running.parts.2.2.2.1
def State.dDram (s : State) : List Byte := sha384 s.running.parts.2.2.2.2.1
def State.dLink (s : State) : List Byte := sha384 s.running.parts.2.2.2.2.2.1

/-- FUSES of R418. -/
def State.fuseBytes (s : State) : List Byte :=
  let f := s.fuses
  leBytes 8 (f.grade % 4 + b2n f.debug * 4 + b2n f.jtag * 8 + f.rev % 256 * 256)

/-- DEBUG of R418. -/
def State.debugBytes (s : State) : List Byte :=
  leBytes 8 (b2n s.dev.jtagSeen +
    ((List.range 8).map fun p => b2n (s.debugPermitted p) * 2 ^ (8 + p)).foldl (· + ·) 0)

/-- The code of a slot's state (R417). -/
def SlotSt.code : SlotSt → Nat
  | .empty => 0 | .loading => 1 | .verified => 2

/-- The bits of a partition's courts. -/
def Partition.courtBits (q : Partition) : Nat := (q.courts.map fun c => 2 ^ c).foldl (· + ·) 0

/-- One partition entry of 112 bytes (R417). -/
def Partition.entry (q : Partition) : List Byte :=
  if q.stat = .free then List.replicate 112 0
  else
    let a := q.slot false
    let b := q.slot true
    let dbg (t : Slot) : Nat := b2n (t.st == .verified && t.debug)
    let dig (t : Slot) : List Byte := if t.st = .verified then t.sha else List.replicate 48 0
    [byteOf q.state, byteOf q.courtBits,
     byteOf (b2n q.locked + b2n q.il * 2 + b2n q.active * 4 + b2n q.pending.isSome * 8 + b2n q.isStopped * 16),
     byteOf (q.mhz / 50), byteOf a.st.code, byteOf b.st.code,
     byteOf (dbg a + dbg b * 2 + b2n q.dbgUsed * 4 + b2n (!q.breaks.isEmpty) * 8)] ++
    List.replicate 9 0 ++ dig a ++ dig b

/-- PARTS of R416. -/
def State.partsBytes (s : State) : List Byte := (List.range 8).flatMap fun p => (s.part p).entry

/-- Bytes 0 to 1247 of a report (R416). -/
def State.reportBody (s : State) (nonce epub : List Byte) : List Byte :=
  asc "EMXA" ++ leBytes 2 0x0100 ++ leBytes 2 1344 ++ s.product ++ [0xA1, 0] ++ leBytes 2 s.fuses.cohort ++ s.fwVer ++
  leBytes 8 s.dev.reports ++ nonce ++ s.dRom ++ s.dVer ++ s.dDram ++ s.dLink ++ s.fuseBytes ++ s.debugBytes ++
  List.replicate 16 0 ++ s.partsBytes ++ epub ++ List.replicate 15 0

/-- A private key or nonce of the management island, 1 to n − 1 (assumption 5, DESIGN CHOICE). -/
def State.secret (s : State) (k : Nat) : Nat := Config.random (s.free + k) % (n384 - 1) + 1

/-- R310: `attest` is taken. -/
def verbAttest (l : LineCtx) (nonce : List Byte) (s : State) : State :=
  if !s.isReady then s.ignore w8 l .state
  else if nonce.length ≠ 32 then s.no w8 l "range"
  else s.updDev fun d => { d with attests := d.attests ++ [{ ctx := l, nonce := nonce }] }

def execAttest (l : LineCtx) (nonce : List Byte) (s : State) : Out :=
  .next (s.atLine w8 (.attest l nonce) (verbAttest l nonce))

/-- The data lines of a report (R310). -/
def reportLines (r : List Byte) : List (List (List Byte)) :=
  (List.range 21).map fun i => [kn "off" (64 * i), kv "data" (asc "%" ++ hexGroups 32 ((r.drop (64 * i)).take 64))]

/-- R310, R416, R419: the report of the oldest `attest` line is built, with a fresh ephemeral key, and sent. -/
def execAttestReportDone (s : State) : Out :=
  .next (match s.dev.attests with
    | [] => s
    | j :: rest =>
      if s.dev.dfault.isSome then s
      else
        let d := s.secret 0
        let s := s.updDev fun v => { v with reports := v.reports + 1, attests := rest }
        let body := s.reportBody j.nonce (ecCompress (ecPublic d))
        let report := body ++ ecdsaSign Config.cohortKey (s.secret 1) (sha384 body)
        let s := { s.updDev fun v => { v with ephem := some (d, sha384 report) } with free := s.free + 2 }
        s.replies w8 j.ctx (reportLines report) [kn "len" 1344])

/-! ## Sessions (R311, R420) -/

/-- R420: the keys of a session of partition p. -/
def sessionOf (z salt : List Byte) (p : Nat) : Session :=
  let prk := hkdfExtract salt z
  let key (label : String) (len : Nat) : List Byte := hkdfExpand prk (asc label ++ [0, byteOf p]) len
  { prk := prk, kIn := key "line in" 48, kOut := key "line out" 48, kLock := key "lock" 48, kWrap := key "key wrap" 32 }

/-- R311: `session`. -/
def verbSession (l : LineCtx) (p : Part) (pub : List Byte) (s : State) : State :=
  let q := s.part p
  if !(s.isReady && (q.state == 1 || q.state == 2) && !q.locked) then s.ignore w8 l .state
  else if pub.length ≠ 49 then s.no w8 l "range"
  else match s.dev.ephem with
    | none => s.no w8 l "stale"
    | some (d, salt) =>
      match (ecDecompress pub).bind (ecdh d) with
      | none => s.no w8 l "range"
      | some z =>
        ((s.updDev fun v => { v with ephem := none }).updPart p fun q => { q with pending := some (sessionOf z salt p) }).ok
          w8 l [nameN "p" p]

def execSession (l : LineCtx) (p : Part) (pub : List Byte) (s : State) : Out :=
  .next (s.atLine w8 (.session l p pub) (verbSession l p pub))

/-! ## Firmware (R312, R472, R478) -/

/-- R472: a bundle verifies: its header and length, its security version, its signature under the key whose digest the fuses
hold. -/
def State.bundleOk (s : State) (b : List Byte) : Bool :=
  let key := Config.bundleKey b
  decide (b.length ≤ 2 ^ 23) &&
  (match Config.parseBundle b with
   | some (_, _, _, _, _, _, sec, _) => decide (s.fuses.minSec ≤ sec)
   | none => false) &&
  sha384 key == s.fuses.fwKey && ecdsaVerify key (sha384 (Config.bundleBody b)) (Config.bundleSig b)

/-- The bank of flash with a letter. -/
def State.bankOf (s : State) (b : Bool) : Bank := tget (Bank.shipped false) s.flash (b2n b)

/-- R312: `fw stat`. -/
def verbFwStat (l : LineCtx) (s : State) : State :=
  if !s.isReady then s.ignore w8 l .state
  else
    s.replies w8 l ([false, true].map fun b =>
      let k := s.bankOf b
      [kv "bank" (slotName b), kv "ver" (versionText k), kv "state" (asc (if k.valid then "valid" else "empty")),
       kb "next" k.next, kb "run" (s.dev.bank == b)]) []

def execFwStat (l : LineCtx) (s : State) : Out := .next (s.atLine w8 (.fwStat l) (verbFwStat l))

/-- The management core reads lines of device memory: what the detectors meet is free (R341, R342, assumption 2, DESIGN
CHOICE). -/
def State.coreRead (s : State) (lines : List Nat) : State :=
  (s.observe (s.freeObs lines) lines).fresh

/-- R478, steps 1 and 2: the bank that is not running loses its valid flag and next mark, which then stands on the running
bank (R479), and the bundle is on its way into it. -/
def State.startFlash (s : State) (l : LineCtx) (b : List Byte) : State :=
  let other := !s.dev.bank
  let s := { s with flash := [false, true].map fun k =>
    if k == other then { s.bankOf k with valid := false, next := false, bundle := b } else { s.bankOf k with next := true } }
  (s.updDev fun d => { d with fw := some { ctx := l, bank := other, bundle := b } }).updWin w8 fun w =>
    { w with busy := some .flashing }

/-- R478, steps 3 to 5: the bundle is verified in place, the bank becomes valid, takes the next mark and has no attempts. -/
def State.flashDone (s : State) : State :=
  match s.dev.fw with
  | some j =>
    let s := (s.updDev fun d => { d with fw := none }).updWin w8 fun w => { w with busy := none }
    if !s.bundleOk (s.bankOf j.bank).bundle then s.no w8 j.ctx "verify"
    else
      ({ s with flash := [false, true].map fun k =>
          if k == j.bank then { s.bankOf k with valid := true, next := true, attempts := 0 }
          else { s.bankOf k with next := false } }).ok w8 j.ctx
  | none => s

/-- R312, R478: `fw write` reads its source and verifies it before anything of the flash changes; then the write begins. A
source line that cannot be read fails the verification. -/
def verbFwWrite (l : LineCtx) (src len : Nat) (s : State) : State :=
  if !s.isReady then s.ignore w8 l .state
  else if s.srcTaken src len then s.ignore w8 l .conflict
  else if !fwRangeOk src len then s.no w8 l "range"
  else
    let s := s.coreRead (linesOf src len)
    let b := (List.range len).map fun k => s.rdDa (src + k)
    if b.isEmpty || ((linesOf src len).any fun a => (s.cause a).isSome) || !s.bundleOk b then s.no w8 l "verify"
    else s.startFlash l b

def execFwWrite (l : LineCtx) (src len : Nat) (s : State) : Out :=
  .next (s.atLine w8 (.fwWrite l src len) (verbFwWrite l src len))

end Sys2Proof.Machine
end

