-- ==== Sys2Proof/Machine/Boot.lean ====
section
/-! DEFINITION. Power, reset, boot and the board (R464 to R484, R489 to R500), thermal samples and patrol (R344, R480,
R481). -/

namespace Sys2Proof.Machine

/-! ## Resets (R467, R468, R477) -/

/-- The device after a device reset, with the given sources asserted: what R468 keeps, the board, the flash, the fuses and
the other end's CMD_RTS_N stay, a write of the flash is cut off (R479), all else is as after reset. Device memory is zeroed
later, during boot (R345). -/
def State.deviceReset (s : State) (srcs : List RstSource) : State :=
  let s := s.cutFlash
  let d := s.dev
  { pending := s.pending, free := s.free, out := s.out, fuses := s.fuses, flash := s.flash, running := Bank.none
    dev := { resets := srcs, stage := 0, reports := d.reports, dfCount := d.dfCount, trips := d.trips
             lastDf := d.lastDf, jtagSeen := d.jtagSeen, abortN := d.abortN, patrol := d.patrol }
    uart := { rts := s.uart.rts, cts := false }
    dram := s.dram, poison := s.poison, board := s.board }

/-- A source of R467 is asserted. -/
def State.assert (s : State) (r : RstSource) : State :=
  s.deviceReset (if s.dev.resets.contains r then s.dev.resets else s.dev.resets ++ [r])

/-- A source is released; boot begins at stage 1 when it was the last (R467). -/
def State.release (s : State) (r : RstSource) : State :=
  if !s.dev.resets.contains r then s
  else
    let left := s.dev.resets.filter (· != r)
    let s := s.updDev fun d => { d with resets := left }
    if left.isEmpty then (s.updDev fun d => { d with stage := 1 }).updUart fun u => { u with cts := true } else s

/-- Power leaves the device (R466): everything in it but flash and fuses is lost, the TAP too; power-on reset is asserted,
beside RESET_N where that pin is low. PERST_N does not reset a device whose link has not reached DL_Up since (R467). -/
def State.powerLost (s : State) : State :=
  let keep := RstSource.power :: s.dev.resets.filter fun r => r == .resetN
  { s.deviceReset keep with
    dev := { resets := keep, stage := 0 }, dram := [], poison := []
    board := { s.board with linkSeen := false, tap := {} } }

/-- R317: the device resets 1 µs after the reply to a `reset` has left its transport. -/
def execResetCommandFire (s : State) : Out :=
  .next (if s.dev.resetIn.any fun r => r.2 == 0 then s.assert .resetN else s)

/-- R467: RESET_N is low for `ns` nanoseconds; pulses shorter than 1 µs are ignored. -/
def execResetN (ns : Nat) (s : State) : Out := .next (if ns ≥ 1000 then s.assert .resetN else s)

/-- The board treats PERST_N as asserted (R492): connector A's is low or not driven, or cabled connector B's is low. -/
def Board.perst (b : Board) : Bool := b.perstA || !b.wiring.a || (b.wiring.b && b.perstB)

/-- R467, R492: PERST_N of connector A or, where `b`, of connector B is asserted. A connector that is not cabled is not heard,
and a link that has never reached DL_Up does not reset the device; it stops training. -/
def execPerstN (b : Bool) (s : State) : Out :=
  .next (
    if !(if b then s.board.wiring.b else s.board.wiring.a) then s
    else
      let s := s.updBoard fun k => if b then { k with perstB := true } else { k with perstA := true }
      if s.board.linkSeen then s.assert (if b then .perstB else .perstA) else s.updHost fun h => { h with training := false })

/-- R467: hot reset or Link Disable is received on the link. -/
def execHotReset (s : State) : Out := .next (if s.host.dlUp then s.assert .hot else s)

/-- R467, R493: the link passes from DL_Up to DL_Down. Where that is for the loss of the host's REFCLK, it happens in
common-clock mode only, and ends training too. -/
def execDlDown (s : State) (refclk : Bool := false) : Out :=
  .next (
    let s := if refclk then s.updBoard fun b => { b with refclk := false } else s
    if refclk && s.board.sris then s
    else if s.host.dlUp then s.assert .dl
    else if refclk then s.updHost fun h => { h with training := false } else s)

/-- R467, R492, R493: a source other than power-on reset is released. The release of PERST_N, the later one where both
connectors are cabled, chooses the clocking mode by whether the host's REFCLK is there. -/
def execResetRelease (src : RstSource) (s : State) (refclk : Bool := true) : Out :=
  .next (
    let pin (f : Board → Board) : State :=
      (s.updBoard fun b => { f b with refclk := refclk }).updBoard fun b => if b.perst then b else { b with sris := !b.refclk }
    match src with
    | .power => s
    | .perstA => if s.board.wiring.a then (pin fun b => { b with perstA := false }).release .perstA else s
    | .perstB => if s.board.wiring.b then (pin fun b => { b with perstB := false }).release .perstB else s
    | r => s.release r)

/-! ## The board's power (R464 to R466, R489, R490) -/

/-- Standby power is there, from the management header or from the input (R464, R497). -/
def Board.standby (b : Board) : Bool := b.wiring.hdr || decide (0 < b.mv)

/-- The sequencer enables the next rail, the rails before it being good; it stands at the last (R464). -/
def Board.raise (b : Board) : Board := { b with rails := min 8 (b.rails + 1) }

/-- The sequencer disables the last rail that is good; VSTBY stays while standby power is there (R464, R466). -/
def Board.lower (b : Board) : Board := { b with rails := max (b2n b.standby) (min 8 b.rails - 1) }

/-- The rails come up in order under power-on reset (R464). -/
def State.railsUp (s : State) : State := (s.updBoard fun b => (List.range 8).foldl (fun b _ => b.raise) b).powerLost

/-- Power-on reset is asserted, then the rails go down in reverse order (R466). -/
def State.railsDown (s : State) : State := s.powerLost.updBoard fun b => (List.range 8).foldl (fun b _ => b.lower) b

/-- The input voltage moves without crossing a threshold: the meters follow it, and standby power with it (R464, R489, R498). A
value on the other side of a threshold is no such move. -/
def State.inputAt (s : State) (mv : Nat) : State :=
  let b := s.board
  let stays := if b.inRange then decide (41000 ≤ mv) && decide (mv ≤ 60000)
    else if b.overVolt then decide (59000 ≤ mv) else decide (mv < 44000)
  if stays then s.updBoard fun b => let b := { b with mv := mv }; { b with rails := max b.rails (b2n b.standby) } else s

/-- R464, R489: the input reaches the on threshold, with the host cables as they were connected without it. -/
def execPowerOn (mv : Nat) (s : State) (wiring : Wiring := {}) : Out :=
  .next (
    let b := s.board
    if b.inRange || b.overVolt || mv < 44000 || mv > 60000 then s.inputAt mv
    else
      let s := s.updBoard fun b => { b with mv := mv, inRange := true, wiring := wiring }
      if b.railFlt.isSome then s else s.railsUp)

/-- R465: every rail has been good for 2 ms. -/
def execPowerOnResetRelease (s : State) : Out := .next (if s.board.railsGood then s.release .power else s)

/-- R466, R489, R490: the input falls below the off threshold, or rises above 60 V. The fall ends a rail fault and the
trip bit of BOARDSTAT; `hdr` says whether the header supplies standby power. -/
def execPowerOff (mv : Nat) (s : State) (hdr : Bool := false) : Out :=
  .next (
    if mv < 41000 then
      (s.updBoard fun b => { b with
        mv := mv, inRange := false, overVolt := false, railFlt := none, tripSeen := false
        wiring := { b.wiring with hdr := hdr } }).railsDown
    else if mv > 60000 then
      (s.updBoard fun b => { b with mv := mv, inRange := false, overVolt := true }).railsDown
    else s.inputAt mv)

/-- R489: after an overvoltage off the input falls below 59.0 V. -/
def execOvervoltageRestart (mv : Nat) (s : State) : Out :=
  .next (
    let b := s.board
    if !b.overVolt || mv ≥ 59000 || mv < 41000 then s.inputAt mv
    else
      let s := s.updBoard fun b => { b with mv := mv, inRange := true, overVolt := false }
      if b.railFlt.isSome then s else s.railsUp)

/-- R490: a rail leaves its limits for more than 50 µs. -/
def execRailFault (rail : Fin 8) (s : State) : Out :=
  .next (if s.board.railsGood then (s.updBoard fun b => { b with railFlt := some rail }).railsDown else s)

/-- The 7-bit address of the board's SMBus endpoint (R498). -/
def smbAddr : Nat := 0x5A

/-- The PEC of SMBus 3.0: the CRC-8 of polynomial 0x07 over the bytes of a transfer, addresses with their read bit (R498;
PRESUMED from SMBus 3.0; assumption 28). -/
def smbPec (l : List Byte) : Byte :=
  l.foldl (fun c b => (List.range 8).foldl (fun c _ => if c.msb then (c <<< 1) ^^^ 0x07#8 else c <<< 1) (c ^^^ b)) 0#8

/-- R490, R498: SMBus RESTART clears a rail fault; the rails rise again where the input is in range. A write whose PEC is wrong
is not taken. -/
def execRestart (v : Byte) (s : State) (pec : Option Byte := none) : Out :=
  .next (
    if pec.any fun c => c != smbPec [byteOf (2 * smbAddr), 0x20#8, v] then s
    else if v = 0xA5 ∧ s.board.railFlt.isSome ∧ s.board.standby then
      let s := s.updBoard fun b => { b with railFlt := none }
      if s.board.inRange then s.railsUp else s
    else s)

/-! ## Boot (R470 to R476, R484) -/

/-- One try of R473: the bank's attempt count rises and its bundle is verified. -/
def State.tryBank (s : State) (b : Bool) : Bool × State :=
  let k := s.bankOf b
  let s := { s with flash := s.flash.modify (b2n b) fun k => { k with attempts := k.attempts + 1 } }
  (k.valid && s.bundleOk k.bundle, s)

/-- R473: the bank that stage 2 takes first. -/
def State.firstBank (s : State) : Bool :=
  let next := (s.bankOf true).next && !(s.bankOf false).next
  if (s.bankOf next).attempts ≥ 3 then !next else next

/-- R471, R473, R474: stage 2. -/
def State.stage2 (s : State) : State :=
  let boots (s : State) (b : Bool) : State :=
    let t := s.updDev fun d => { d with stage := 3, memInfo := true, bank := b }
    { t with running := s.bankOf b }
  let b := s.firstBank
  match s.tryBank b with
  | (true, s) => boots s b
  | (false, s) =>
    match s.tryBank (!b) with
    | (true, s) => boots s (!b)
    | (false, s) => s.updDev fun d => { d with bootErr := 1 }

/-- R477: the state at ready: what is not in its table or kept by R468 stays, the link's training, sensor readings, running
firmware and SPDM responder among it; all else is as after reset, also where the host wrote it before (assumption 22,
DEDUCED). -/
def State.atReady (s : State) : State :=
  let d := s.dev
  { pending := s.pending, free := s.free, out := s.out, fuses := s.fuses, flash := s.flash, running := s.running
    dev := { stage := 6, ready := true, temps := d.temps, bank := d.bank, memInfo := d.memInfo, memAct := true,
             reports := d.reports, dfCount := d.dfCount, trips := d.trips, lastDf := d.lastDf, jtagSeen := d.jtagSeen,
             abortN := d.abortN, patrol := d.patrol }
    uart := { s.uart with baud := 115200, newBaud := none, echo := false }
    host := { training := s.host.training, dlUp := s.host.dlUp, width := s.host.width, rate := s.host.rate, cxl := s.host.cxl,
              bme := s.host.bme, viralEn := s.host.viralEn
              mbox := s.host.mbox, aerEn := s.host.aerEn, aerUnc := s.host.aerUnc, aerPtr := s.host.aerPtr }
    spdm := s.spdm, board := s.board }

/-- R470, R473, R475, R476: stage 6 ends with the ready line, which no MSI-X message accompanies. -/
def State.becomeReady (s : State) : State :=
  let sec := s.running.parts.2.2.2.2.2.2.1
  let raise := s.running.parts.2.2.2.2.2.2.2
  let s := { s.atReady with
    flash := s.flash.modify (b2n s.dev.bank) fun k => { k with attempts := 0 }
    fuses := if raise && decide (s.fuses.raises < 63) && decide (s.fuses.minSec < sec) then
        { s.fuses with minSec := sec, raises := s.fuses.raises + 1 } else s.fuses }
  let line := okLine {} [kv "part" s.partName, asc "step=a1", kv "fw" (versionText s.running), asc "rack=none", asc "ready=1",
    asc "df=0x00"]
  (s.emit w8 false line).emit w8 true line

/-- The highest junction reading is at or above 100 °C (R484). -/
def State.tooHot (s : State) : Bool := s.dev.temps.any fun t => match t with | some v => decide (v ≥ 100) | none => false

/-- R470, R474, R484: a boot stage completes and the next begins; what it meets is in `obs`. -/
def execBootStageAdvance (obs : BootObs) (s : State) : Out :=
  .next (
    let d := s.dev
    if !d.resets.isEmpty || d.dfault.isSome || d.ready || d.bootErr == 1 || d.bootErr == 2 then s
    else match obs.cause with
      | some c => if 1 ≤ c ∧ c ≤ 8 ∧ d.stage ≥ 1 then s.deviceFault c else s
      | none =>
        match d.stage with
        | 1 => if s.tooHot then s.updDev fun d => { d with bootErr := 3 }
          else s.updDev fun d => { d with bootErr := 0, stage := 2 }
        | 2 => s.stage2
        | 3 => s.updDev fun d => { d with stage := 4 }
        | 4 =>
          (match obs.chan with
           | some m => s.updDev fun d => { d with bootErr := 2, beChan := m }
           | none => s.updDev fun d => { d with stage := 5 })
        | 5 =>
          let t := s.updDev fun d => { d with stage := 6 }
          { t with dram := [], poison := [] }
        | 6 => s.becomeReady
        | _ => s)

/-! ## The host link's training (R467, R471, R515) -/

/-- The host link has a clock and its pins: REFCLK or SRIS mode, and no EXTEST (R493, R500). -/
def State.linkAlive (s : State) : Bool := (s.board.refclk || s.board.sris) && !s.extest

/-- R471, R491 to R493: training starts after stage 2 and the release of PERST_N, on connector A. -/
def execHostLinkTraining (s : State) : Out :=
  .next (if s.dev.stage ≥ 3 ∧ s.dev.resets.isEmpty ∧ !s.board.perst ∧ !s.host.dlUp ∧ s.linkAlive then
      s.updHost fun h => { h with training := true } else s)

/-- The widths to which the link trains: at most 8 lanes with connector A alone (R346, R491). -/
def Board.widths (b : Board) : List Nat := if b.wiring.b then [1, 2, 4, 8, 16] else [1, 2, 4, 8]

/-- R467, R515: the link reaches DL_Up at a width and a rate of R346 and R515. -/
def execDlUp (width rate : Nat) (cxl : Bool) (s : State) : Out :=
  .next (
    if s.host.training ∧ s.linkAlive ∧ s.board.widths.contains width ∧ 1 ≤ rate ∧ rate ≤ 6 then
      (s.updHost fun h => { h with training := false, dlUp := true, width := width, rate := rate, cxl := cxl }).updBoard
        fun b => { b with linkSeen := true }
    else s)

/-! ## Cages and JTAG (R494 to R496, R499, R500) -/

/-- A cage changes. -/
def State.updCage (s : State) (k : Nat) (f : Cage → Cage) : State := s.updBoard fun b => { b with cages := b.cages.modify k f }

/-- Frames stop passing at a port: it goes down, faults its partition where that is RUNNING, and trains again (R376, R496). -/
def State.portOff (s : State) (x : Nat) : State := if (s.port x).st = .up then s.linkDown x false true else s

/-- R495: a module that draws more than 1.5 W trips its cage until it is removed; the port of the cage (R494) is down. -/
def execCageTrip (k : PortNo) (mw : Nat) (s : State) : Out :=
  .next (if mw > 1500 ∧ (tget {} s.board.cages k).present then (s.updCage k fun c => { c with tripped := true }).portOff k else s)

/-- R494 to R496: a module is plugged into cage k, which may be a passive copper cable, or removed, which takes port Xk down. -/
def execCableChange (k : PortNo) (copper : Option Bool) (s : State) : Out :=
  .next (match copper with
    | some m => s.updCage k fun c => { present := true, copper := m, tripped := c.tripped && c.present }
    | none => (s.updCage k fun _ => {}).portOff k)

/-- The cell of the boundary register that drives an output pin under EXTEST: what it has loaded, which is free before that
(R500; assumption 28, DESIGN CHOICE). -/
def State.cell (s : State) (pin : Nat) : Option Bool :=
  let i := Config.boundaryCell pin
  if s.extest then some ((s.board.tap.load[i]?).getD (Config.boundaryInit i)) else none

/-- FAULT_N, open drain: pulled low during a device fault or a rail fault (R454, R490); nothing is pulled without standby
power (R497). Under EXTEST the device's part of it follows the boundary register (R500). -/
def State.faultN (s : State) : Bool :=
  !s.board.standby || ((s.cell 0).getD s.dev.dfault.isNone && s.board.railFlt.isNone)

/-- CMD_CTS_N, asserted (low) where true; high-impedance, none, without standby power (R274, R497). Under EXTEST it follows the
boundary register, and so does CMD_TXD, whose level is then the register's (R500). -/
def State.ctsPin (s : State) : Option Bool := if s.board.standby then some (((s.cell 1).map not).getD s.uart.cts) else none
def State.txdPin (s : State) : Option Bool := s.cell 2

/-- The next state of the TAP at a rising TCK with TMS as given (R500; PRESUMED from IEEE 1149.1; assumption 28). -/
def TapState.next (t : TapState) (tms : Bool) : TapState :=
  match t with
  | .testLogicReset => if tms then .testLogicReset else .runTestIdle
  | .runTestIdle | .updateDr | .updateIr => if tms then .selectDr else .runTestIdle
  | .selectDr => if tms then .selectIr else .captureDr
  | .captureDr | .shiftDr => if tms then .exit1Dr else .shiftDr
  | .exit1Dr => if tms then .updateDr else .pauseDr
  | .pauseDr => if tms then .exit2Dr else .pauseDr
  | .exit2Dr => if tms then .updateDr else .shiftDr
  | .selectIr => if tms then .testLogicReset else .captureIr
  | .captureIr | .shiftIr => if tms then .exit1Ir else .shiftIr
  | .exit1Ir => if tms then .updateIr else .pauseIr
  | .pauseIr => if tms then .exit2Ir else .pauseIr
  | .exit2Ir => if tms then .updateIr else .shiftIr

/-- The registers between TDI and TDO. -/
inductive TapReg where
  | bypass | boundary
  deriving DecidableEq, Repr

/-- The register that an instruction selects: the boundary register for SAMPLE, PRELOAD and EXTEST, else bypass, for reserved
codes too (R500). -/
def tapReg : TapIr → TapReg
  | .bypass | .other _ => .bypass
  | .sample | .preload | .extest => .boundary

/-- An instruction that loads the boundary register's cells in Update-DR (R500; that SAMPLE does not: PRESUMED from IEEE 1149.1;
assumption 28). -/
def tapLoads : TapIr → Bool
  | .preload | .extest => true
  | .bypass | .sample | .other _ => false

/-- A bit enters a shift stage at TDI and one leaves it at TDO. -/
def shiftIn (l : List Bool) (tdi : Bool) : List Bool := (l ++ [tdi]).drop 1

/-- What Capture-DR takes into the boundary register: the levels of the pins, of which the model knows FAULT_N and CMD_CTS_N;
the others, and the register's length, are free (R500; assumption 28, DESIGN CHOICE). -/
def State.pinLevels (s : State) : List Bool :=
  (List.range Config.boundaryLength).map fun i =>
    if i = Config.boundaryCell 0 then s.faultN
    else if i = Config.boundaryCell 1 then !(s.ctsPin.getD false)
    else Config.pinLevel s.free i

/-- What Capture-IR takes into the instruction register: 1 next to TDO, then 0, the rest and the length free (R500; PRESUMED
from IEEE 1149.1; assumption 28). -/
def irCaptured : List Bool := (List.range Config.irLength).map fun i => if i < 2 then i == 0 else Config.irCapture i

/-- What the registers of the TAP do at a rising TCK, by the state it stands in (R500; PRESUMED from IEEE 1149.1; assumption
28). -/
def State.tapData (s : State) (tdi : Bool) : State :=
  let set (f : Tap → Tap) : State := s.updBoard fun b => { b with tap := f b.tap }
  let reg := tapReg (s.board.tap.ir.getD .bypass)
  match s.board.tap.st, reg with
  | .captureDr, .bypass => set fun t => { t with byp := false }
  | .captureDr, .boundary => (set fun t => { t with bsr := s.pinLevels }).fresh
  | .shiftDr, .bypass => set fun t => { t with byp := tdi }
  | .shiftDr, .boundary => set fun t => { t with bsr := shiftIn t.bsr tdi }
  | .captureIr, _ => set fun t => { t with irSh := irCaptured }
  | .shiftIr, _ => set fun t => { t with irSh := shiftIn t.irSh tdi }
  | _, _ => s

/-- The TAP moves to a state: in Update-IR the instruction that was shifted in takes effect, in Test-Logic-Reset bypass does; in
Update-DR the cells are loaded (R500). -/
def Tap.move (t : Tap) (ir : TapIr) (st : TapState) : Tap :=
  { t with
    st := st
    ir := match st with
      | .testLogicReset => none
      | .updateIr => some ir
      | _ => some (t.ir.getD .bypass)
    load := if st == .updateDr && tapLoads (t.ir.getD .bypass) then t.bsr else t.load }

/-- The bit on TDO, which is driven in Shift-DR and Shift-IR only. -/
def Tap.tdo (t : Tap) : Option Bool :=
  match t.st with
  | .shiftIr => t.irSh.head?
  | .shiftDr => (match tapReg (t.ir.getD .bypass) with | .bypass => some t.byp | .boundary => t.bsr.head?)
  | _ => none

/-- A port that no longer has its pins: what is up goes down, what trains stops, and each trains again later (R376, R500). -/
def State.portHeld (s : State) (x : Nat) : State := if (s.port x).st = .training then s.train x else s.portOff x

/-- Under EXTEST the host link and the rally ports carry nothing: they go down (R500). -/
def State.pinsHeld (s : State) : State :=
  if !s.extest then s
  else
    let s := (List.range 8).foldl (fun s x => s.portHeld x) s
    if s.host.dlUp then s.assert .dl else s.updHost fun h => { h with training := false }

/-- One TCK within the TAP: its registers, its next state, at once Test-Logic-Reset where TRST_N is asserted, the bit on TDO.
Leaving Test-Logic-Reset sets JTAGSEEN (R418, R500). -/
def State.tapClock (s : State) (ir : TapIr) (c : TapClk) : State :=
  let st := if c.trst then .testLogicReset else s.board.tap.st.next c.tms
  let s := if c.trst then s else s.tapData c.tdi
  let tap := s.board.tap.move ir st
  { s with
    board := { s.board with tap := tap }
    dev := { s.dev with jtagSeen := s.dev.jtagSeen || st != .testLogicReset }
    out := s.out ++ (tap.tdo.map Output.tdo).toList }

/-- One TCK, after which EXTEST holds the pins (R500). -/
def State.tck (s : State) (ir : TapIr) (c : TapClk) : State := (s.tapClock ir c).pinsHeld

/-- R499, R500: clocks of the TAP, which only a part with JTAGF 1 has out of Test-Logic-Reset; `ir` is the instruction whose
code is shifted in, which Update-IR makes the current one (R500 names no codes; assumption 28, DESIGN CHOICE). Without clocks
the TAP leaves Test-Logic-Reset and holds that instruction in Run-Test/Idle. -/
def execJtagTapActive (s : State) (ir : TapIr := .bypass) (clocks : List TapClk := []) : Out :=
  .next (
    if !s.fuses.jtag || !s.board.railsGood then s
    else if clocks.isEmpty then
      ((s.updBoard fun b => { b with tap := { b.tap with st := .runTestIdle, ir := some ir } }).updDev fun d =>
        { d with jtagSeen := true }).pinsHeld
    else clocks.foldl (fun s c => s.tck ir c) s)

/-! ## Temperature and patrol (R344, R480, R481) -/

/-- R484: while boot stands at stage 1 its hold, with boot error 3, follows the readings. -/
def State.hold100 (s : State) : State :=
  if s.dev.stage = 1 then
    s.updDev fun d => { d with bootErr :=
      if s.tooHot then (if d.dfault.isNone then 3 else d.bootErr) else if d.bootErr = 3 then 0 else d.bootErr }
  else s

/-- R480, R481, R484: the nine sensors are read; at 110 °C the trip acts, during a device fault only on its count. -/
def execThermalSample (temps : List (BitVec 8)) (s : State) : Out :=
  .next (
    if s.dev.stage = 0 ∨ temps.length ≠ 9 then s
    else
      let s := (s.updDev fun d => { d with temps := temps.map fun t => some t.toInt }).hold100
      if temps.any fun t => decide (t.toInt ≥ 110) then
        ((s.updDev fun d => { d with trips := satAdd 0xFFFF d.trips 1 }).updBoard fun b => { b with tripSeen := true }).deviceFault 5
      else s)

/-- R344: patrol reads a line, in whichever state the device is, corrects it, or poisons it and counts it at every pass. -/
def execPatrolRead (da : Nat) (obs : HwObs) (s : State) : Out :=
  .next (
    if !s.board.railsGood || da ≥ 8 * courtBytes then s
    else
      let line := da / 64
      let ch := chanOf (64 * line)
      let ue := (obs.dramUe.map (· / 64)).contains line || (match s.cause line with | some .held => false | c => c.isSome)
      let ce := (obs.dramCe.map (· / 64)).contains line
      let s := s.updDev fun d => { d with patrol := line }
      let s := if ce then s.updChan ch fun c => { c with ce := satAdd 0xFFFFFFFF c.ce 1 } else s
      if ue then (s.mark line .patrol).updChan ch fun c => { c with pue := satAdd 0xFFFFFFFF c.pue 1 } else s)

/-! ## What goes on by itself (R438, R478) -/

/-- R438: court cache lines that hold poison are written back at an eviction, which may have come by now. -/
def State.evictPoison (s : State) : State :=
  if s.poison.all fun e => e.2 != some .held then s
  else
    (s.poison.foldl (fun s e =>
      if e.2 == some .held && Config.evicted s.free e.1 then
        ({ s with poison := spSet none s.poison e.1 (some .cache) } : State).tableAdd e.1
      else s) s).fresh

/-- Time passes while no command waits: the flash is written, court caches evict lines (assumption 26, DESIGN CHOICE). -/
def State.tick (s : State) : State := s.flashDone.evictPoison

end Sys2Proof.Machine
end

