-- ==== Sys2Proof/Machine/Grammar.lean ====
section
/-! DEFINITION. The grammar of command lines (R275 to R278, R284, R297): value kinds, tokens, and the verbs with their
targets and keys. -/

namespace Sys2Proof.Machine

/-! ## Characters -/

def isDigit (b : Byte) : Bool := decide (48 ≤ b.toNat) && decide (b.toNat ≤ 57)
/-- A letter in lower case; other bytes are unchanged (R276). -/
def lowerByte (b : Byte) : Byte := if 65 ≤ b.toNat ∧ b.toNat ≤ 90 then b + 32#8 else b
def isLetter (b : Byte) : Bool := let c := (lowerByte b).toNat; decide (97 ≤ c) && decide (c ≤ 122)
def isSpace (b : Byte) : Bool := b == 32#8 || b == 9#8
/-- The value of a hex digit. -/
def hexVal (b : Byte) : Option Nat :=
  let c := (lowerByte b).toNat
  if 48 ≤ c ∧ c ≤ 57 then some (c - 48) else if 97 ≤ c ∧ c ≤ 102 then some (c - 87) else none

/-- A text split at a byte. -/
def splitAt (sep : Byte) : List Byte → List (List Byte)
  | [] => [[]]
  | b :: r =>
    match splitAt sep r with
    | [] => [[b]]
    | h :: t => if b = sep then [] :: h :: t else (b :: h) :: t

/-! ## Value kinds (R278) -/

/-- Digits of a base, with single underscores between digits: R278 says that underscores may stand between digits, and the model
takes two in a row for none such, in a byte string too (assumption 30, DESIGN CHOICE). -/
def digitsOf (base : Nat) : List Byte → Option Nat
  | [] => none
  | l =>
    (splitAt 95#8 l).foldl (fun acc part =>
      if part.isEmpty then none
      else part.foldl (fun a b => match a, hexVal b with
        | some n, some v => if v < base then some (n * base + v) else none
        | _, _ => none) acc) (some 0)

/-- A number. -/
def parseNumber (l : List Byte) : Option Nat :=
  let n := match l with
    | a :: b :: r => if a = 48#8 ∧ lowerByte b = 120#8 then digitsOf 16 r else digitsOf 10 l
    | _ => digitsOf 10 l
  n.filter fun v => decide (v < 2 ^ 64)

/-- A size: a number with an optional suffix k, m or g. -/
def parseSize (l : List Byte) : Option Nat :=
  let mult := match l.getLast? with
    | some b => (match (lowerByte b).toNat with | 107 => 2 ^ 10 | 109 => 2 ^ 20 | 103 => 2 ^ 30 | _ => 1)
    | none => 1
  if mult = 1 then parseNumber l
  else ((parseNumber l.dropLast).map (· * mult)).filter fun v => decide (v < 2 ^ 64)

/-- A time, rounded up to whole µs, the resolution of every key that takes one. -/
def parseTime (l : List Byte) : Option Nat :=
  let u := (l.drop (l.length - 2)).map lowerByte
  let ns := if u = asc "ns" then 1 else if u = asc "us" then 1000 else if u = asc "ms" then 1000000 else 0
  if ns = 0 then none else (parseNumber (l.take (l.length - 2))).map fun v => ceilDiv (v * ns) 1000

/-- A name of a list: its place. -/
def parseName (names : List String) (l : List Byte) : Option Nat := names.findIdx? fun n => asc n == l.map lowerByte

/-- Pairs of hex digits with single underscores between pairs: the nibble read, and whether an underscore may not stand
here. -/
def hexPairs : Option Nat → Bool → List Byte → Option (List Byte)
  | none, us, [] => if us then none else some []
  | some _, _, [] => none
  | none, us, b :: r =>
    if b = 95#8 then (if us then none else hexPairs none true r)
    else match hexVal b with | some x => hexPairs (some x) false r | none => none
  | some x, _, b :: r =>
    match hexVal b with | some y => (hexPairs none false r).map fun z => byteOf (16 * x + y) :: z | none => none

/-- A byte string. -/
def parseBytes (l : List Byte) : Option (List Byte) :=
  match l with | p :: r => if p = 37#8 then (if r.isEmpty then some [] else hexPairs none true r) else none | [] => none

/-- All of a list, or none. -/
def allSome {α : Type} : List (Option α) → Option (List α)
  | [] => some []
  | none :: _ => none
  | some a :: r => (allSome r).map (a :: ·)

/-- A list of numbers. -/
def parseNums (l : List Byte) : Option (List Nat) := allSome ((splitAt 44#8 l).map parseNumber)

/-- A list of numbers and ranges a-b (R297). -/
def parseRanges (l : List Byte) : Option (List (Nat × Nat)) :=
  allSome ((splitAt 44#8 l).map fun it => match splitAt 45#8 it with
    | [a] => (parseNumber a).map fun v => (v, v)
    | [a, b] => (match parseNumber a, parseNumber b with | some x, some y => some (x, y) | _, _ => none)
    | _ => none)

/-- One item of `nc=` joins the items before it; a repeated or unknown one is refused (R320). -/
def ncItem (n : NcItems) (it : List Byte) : Option NcItems :=
  match splitAt 58#8 it with
  | [k, v] =>
    (match parseName ["flush", "sat", "nanmm", "round", "seed"] k with
     | some 0 => if n.flush.isSome then none else (parseNumber v).map fun x => { n with flush := some x }
     | some 1 => if n.sat.isSome then none else (parseNumber v).map fun x => { n with sat := some x }
     | some 2 => if n.nanmm.isSome then none else (parseName ["ignore", "propagate"] v).map fun x => { n with nanmm := some (x == 1) }
     | some 3 =>
       if n.round.isSome then none
       else (parseName ["rne", "rtz", "rsto"] v).map fun x =>
         { n with round := some (match x with | 0 => .rne | 1 => .rtz | _ => .rsto) }
     | some 4 => if n.seed.isSome then none else (parseNumber v).map fun x => { n with seed := some x }
     | _ => none)
  | _ => none

def parseNc (l : List Byte) : Option NcItems :=
  (splitAt 44#8 l).foldl (fun n it => match n with | some x => ncItem x it | none => none) (some {})

/-- The kinds of keys and targets. -/
inductive Kind where
  | num | size | time | numNone | bytes | nums | ranges | nc | courts
  | name (l : List String)
  deriving DecidableEq, Repr

/-- A value read: a number (a name as its place), `none`, bytes, numbers, ranges, context items. -/
inductive Val where
  | n (v : Nat)
  | nothing
  | b (v : List Byte)
  | l (v : List Nat)
  | r (v : List (Nat × Nat))
  | c (v : NcItems)
  deriving DecidableEq, Repr

def courtNames : List String := ["c0", "c1", "c2", "c3", "c4", "c5", "c6", "c7"]
def partNames : List String := ["p0", "p1", "p2", "p3", "p4", "p5", "p6", "p7"]
def portNames : List String := ["x0", "x1", "x2", "x3", "x4", "x5", "x6", "x7"]

def Kind.parse (k : Kind) (t : List Byte) : Option Val :=
  match k with
  | .num => (parseNumber t).map .n
  | .size => (parseSize t).map .n
  | .time => (parseTime t).map .n
  | .numNone => if t.map lowerByte = asc "none" then some .nothing else (parseNumber t).map .n
  | .bytes => (parseBytes t).map .b
  | .nums => (parseNums t).map .l
  | .ranges => (parseRanges t).map .r
  | .nc => (parseNc t).map .c
  | .courts => (allSome ((splitAt 44#8 t).map (parseName courtNames))).map .l
  | .name l => (parseName l t).map .n

/-! ## Tokens (R276, R277) -/

/-- A line in its parts. -/
structure Toks where
  tag    : Option Nat
  verb   : List Byte
  target : Option (List Byte)
  keys   : List (List Byte × List Byte)
  deriving DecidableEq, Repr

/-- A verb or key: a letter, then letters and digits. -/
def isWord (l : List Byte) : Bool :=
  match l with | a :: r => isLetter a && r.all fun b => isLetter b || isDigit b | [] => false

/-- The tokens of a line without its MAC suffix and comment. -/
def tokens (l : List Byte) : List (List Byte) :=
  ((splitAt 32#8 (l.map fun b => if isSpace b then 32#8 else b)).filter fun t => !t.isEmpty)

/-- `key=value`. -/
def keyOf (t : List Byte) : Option (List Byte × List Byte) :=
  let k := t.takeWhile (· != 61#8)
  if k.length < t.length ∧ isWord k then some (k.map lowerByte, t.drop (k.length + 1)) else none

/-- Verb, target and keys of a line whose tag is read. -/
def splitVerb (tag : Option Nat) : List (List Byte) → Option Toks
  | [] => none
  | v :: r =>
    if !isWord v then none
    else
      let (target, r) := match r with
        | t :: r' => if t.contains 61#8 then (none, r) else (some (t.map lowerByte), r')
        | [] => (none, [])
      (allSome (r.map keyOf)).map fun ks => { tag := tag, verb := v.map lowerByte, target := target, keys := ks }

/-- R276, R277: the parts of a line; MALFORMED, or BAD_VALUE for a tag above 65535. -/
def splitLine (l : List Byte) : Except Why Toks :=
  let fit (tag : Option Nat) (ts : List (List Byte)) : Except Why Toks :=
    match splitVerb tag ts with | some t => .ok t | none => .error .malformed
  match tokens l with
  | [] => .error .malformed
  | t :: r =>
    match t with
    | a :: num =>
      if a = 64#8 then
        (let digits := (match num with | x :: y :: h => if x = 48#8 ∧ lowerByte y = 120#8 then digitsOf 16 h else digitsOf 10 num
                                       | _ => digitsOf 10 num)
         match digits with
         | none => .error .malformed
         | some n =>
           match fit (some n) r with
           | .error e => .error e
           | .ok x => if n ≤ 65535 then .ok x else .error .badValue)
      else fit none (t :: r)
    | [] => .error .malformed

/-! ## Verbs (R297, R299) -/

/-- The verbs of both kinds of window. -/
inductive Verb where
  | hello | part | free | clock | link | route | group | attest | session | fw | statD | temp | echo | drillD | reset
  | load | swap | go | wait | sig | halt | abort | set | shard | commit | statP | tally | key | unkey | move | fill | brk | step
  | cont | peek | poke | drillP | lock
  deriving DecidableEq, Repr

def deviceVerbs : List (String × Verb) :=
  [("hello", .hello), ("part", .part), ("free", .free), ("clock", .clock), ("link", .link), ("route", .route),
   ("group", .group), ("attest", .attest), ("session", .session), ("fw", .fw), ("stat", .statD), ("temp", .temp),
   ("echo", .echo), ("drill", .drillD), ("reset", .reset)]

def partitionVerbs : List (String × Verb) :=
  [("load", .load), ("swap", .swap), ("go", .go), ("wait", .wait), ("sig", .sig), ("halt", .halt), ("abort", .abort),
   ("set", .set), ("shard", .shard), ("commit", .commit), ("stat", .statP), ("tally", .tally), ("key", .key),
   ("unkey", .unkey), ("move", .move), ("fill", .fill), ("break", .brk), ("step", .step), ("cont", .cont), ("peek", .peek),
   ("poke", .poke), ("drill", .drillP), ("lock", .lock)]

def verbIn (l : List (String × Verb)) (t : List Byte) : Option Verb := (l.find? fun e => asc e.1 == t).map (·.2)

/-- What a verb takes: the names of its target and whether it is required, its keys, the keys it requires. -/
structure VerbSpec where
  targets : Option (List String) := none
  treq    : Bool := false
  keys    : List (String × Kind) := []
  req     : List String := []

def slotNames : List String := ["a", "b"]
def whatNames : List String := ["sp", "v", "a", "l", "e", "w", "t", "tally", "region", "q"]

/-- The syntax lines and key tables of R302 to R339. -/
def Verb.spec : Verb → VerbSpec
  | .hello => { keys := [("baud", .num)] }
  | .part => { targets := some partNames, treq := true, keys := [("courts", .courts), ("il", .name ["off", "on"])], req := ["courts"] }
  | .free => { targets := some partNames, treq := true }
  | .clock => { targets := some partNames, treq := true, keys := [("mhz", .num)], req := ["mhz"] }
  | .link => { targets := some portNames, keys := [("op", .name ["up", "down", "retrain"]), ("rack", .numNone)] }
  | .route =>
    { targets := some partNames, treq := true, keys := [("dst", .num), ("port", .name (portNames ++ ["none"]))]
      req := ["dst", "port"] }
  | .group =>
    { targets := some partNames, treq := true, keys := [("id", .numNone), ("members", .ranges), ("rto", .time)], req := ["id"] }
  | .attest => { keys := [("nonce", .bytes)], req := ["nonce"] }
  | .session => { targets := some partNames, treq := true, keys := [("pub", .bytes)], req := ["pub"] }
  | .fw => { targets := some ["stat", "write"], treq := true, keys := [("src", .num), ("len", .size)] }
  | .statD => { keys := [("what", .name ["parts", "courts", "counters"])] }
  | .temp => {}
  | .echo => { targets := some ["off", "on"], treq := true }
  | .drillD => { keys := [("courts", .courts)], req := ["courts"] }
  | .reset => {}
  | .load => { targets := some slotNames, treq := true, keys := [("src", .num), ("len", .size)], req := ["src", "len"] }
  | .swap | .wait | .sig | .halt | .abort | .commit | .cont | .drillP => {}
  | .go => { keys := [("img", .name slotNames), ("args", .num), ("dl", .time), ("nc", .nc), ("done", .num)] }
  | .set => { keys := [("nc", .nc), ("dl", .time)] }
  | .shard =>
    { targets := some ["drop"], keys := [("idx", .num), ("g", .nums), ("p", .nums), ("c", .nums), ("dev", .ranges)]
      req := ["idx"] }
  | .statP => { keys := [("what", .name ["slots", "keys", "counters", "shard", "poison"]), ("idx", .num)] }
  | .tally => { keys := [("set", .num)] }
  | .key => { keys := [("slot", .num), ("wrap", .bytes)], req := ["slot", "wrap"] }
  | .unkey => { keys := [("slot", .num)], req := ["slot"] }
  | .move =>
    { keys := [("dir", .name ["in", "out"]), ("pa", .num), ("host", .num), ("len", .size), ("key", .num)]
      req := ["dir", "pa", "host", "len"] }
  | .fill => { keys := [("pa", .num), ("len", .size), ("val", .num)], req := ["pa", "len"] }
  | .brk => { targets := some ["drop"], keys := [("cl", .num), ("s", .num), ("n", .num), ("tag", .num)] }
  | .step => { keys := [("cl", .num), ("s", .num), ("n", .num)], req := ["cl", "s", "n"] }
  | .peek =>
    { keys := [("cl", .num), ("what", .name whatNames), ("s", .num), ("reg", .num), ("addr", .num), ("len", .size)]
      req := ["cl", "what"] }
  | .poke =>
    { keys := [("cl", .num), ("what", .name (whatNames.take 8)), ("s", .num), ("reg", .num), ("addr", .num), ("val", .num),
               ("data", .bytes)]
      req := ["cl", "what"] }
  | .lock => { keys := [("proof", .bytes)], req := ["proof"] }

/-- The keys of a line: those that parsed. -/
abbrev Vals := List (String × Val)

def Vals.get (v : Vals) (k : String) : Option Val := (v.find? fun e => e.1 == k).map (·.2)
def Vals.has (v : Vals) (k : String) : Bool := (v.get k).isSome
def Vals.num (v : Vals) (k : String) : Option Nat := match v.get k with | some (.n x) => some x | _ => none
def Vals.numD (v : Vals) (k : String) : Nat := (v.num k).getD 0
def Vals.bytes (v : Vals) (k : String) : Option (List Byte) := match v.get k with | some (.b x) => some x | _ => none
def Vals.list (v : Vals) (k : String) : List Nat := match v.get k with | some (.l x) => x | _ => []
def Vals.ranges (v : Vals) (k : String) : Option (List (Nat × Nat)) := match v.get k with | some (.r x) => some x | _ => none
def Vals.nc (v : Vals) (k : String) : Option NcItems := match v.get k with | some (.c x) => some x | _ => none

/-- A key of the line, whether its value parsed or not. -/
def Toks.given (t : Toks) (k : String) : Bool := t.keys.any fun e => e.1 == asc k

/-- What depends on the form of a verb: keys that one form takes and another does not, and keys that a form requires. A target
or `what=` that is missing or names nothing of its list settles no form, and asks for none of a form's keys. Keys or targets
of two alternatives of one syntax line in the same line are UNKNOWN_KEY (DEDUCED, assumption 13). -/
def formErrors (v : Verb) (t : Toks) (target : Option Nat) (vals : Vals) : List Why :=
  let g := t.given
  let need (ks : List String) : List Why := if ks.all g then [] else [.missing]
  let only (ks : List String) : List Why := if t.keys.all fun e => ks.any fun k => asc k == e.1 then [] else [.unknownKey]
  match v with
  | .link =>
    if g "rack" then (if t.target.isSome || g "op" then [.unknownKey] else [])
    else if g "op" && t.target.isNone then [.missing] else []
  | .group => if vals.has "id" && vals.get "id" != some .nothing then need ["members"] else []
  | .fw => (match target with | some 1 => need ["src", "len"] | some _ => only [] | none => [])
  | .shard => if target.isSome then only ["idx"] else if t.target.isSome then [] else need ["g", "p", "c", "dev"]
  | .brk =>
    if target.isSome then only [] else if t.target.isSome then [] else if g "tag" then only ["tag"] else need ["cl", "s", "n"]
  | .set => if g "nc" || g "dl" then [] else [.missing]
  | .statP =>
    if vals.num "what" = some 3 then need ["idx"]
    else if g "idx" && (vals.has "what" || !g "what") then [.unknownKey] else []
  | .peek | .poke =>
    let w := vals.num "what"
    (if w = some 0 then need ["addr"] else if w = some 2 || w = some 3 then need ["s", "reg"] else need ["reg"]) ++
    (if v == .poke then
       (if g "val" && g "data" then [.unknownKey] else if g "val" || g "data" then [] else [.missing])
     else [])
  | _ => []

/-- The lowest reason of R284. -/
def lowestWhy (l : List Why) : Option Why :=
  l.foldl (fun b w => match b with | some a => if w.code < a.code then some w else some a | none => some w) none

/-- R297: target and keys of a verb, or the lowest reason for which the line is ignored. -/
def readKeys (v : Verb) (t : Toks) : Except Why (Option Nat × Vals) :=
  let sp := v.spec
  let target : Option Nat × List Why := match t.target, sp.targets with
    | none, _ => (none, if sp.treq then [.missing] else [])
    | some _, none => (none, [.unknownKey])
    | some x, some names => (match parseName names x with | some n => (some n, []) | none => (none, [.badValue]))
  let one (e : List Byte × List Byte) : Option (String × Val) × List Why :=
    match sp.keys.find? fun k => asc k.1 == e.1 with
    | none => (none, [.unknownKey])
    | some (n, k) => (match k.parse e.2 with | some x => (some (n, x), []) | none => (none, [.badValue]))
  let read := t.keys.map one
  let vals : Vals := read.filterMap (·.1)
  let dup := if (t.keys.map (·.1)).eraseDups.length = t.keys.length then [] else [Why.dupKey]
  let miss := if sp.req.all t.given then [] else [Why.missing]
  match lowestWhy (target.2 ++ read.flatMap (·.2) ++ dup ++ miss ++ formErrors v t target.1 vals) with
  | some w => .error w
  | none => .ok (target.1, vals)

/-- The targets of `peek` and `poke` in the order of `whatNames`. -/
def dbgTargets : List DbgTarget := [.sp, .v, .a, .l, .e, .w, .t, .tally, .region, .q]

/-- The command a line spells, once its keys are read. -/
def buildVerb (v : Verb) (l : LineCtx) (w : Fin 8) (tn : Option Nat) (k : Vals) : Instr :=
  let t := tn.getD 0
  let p : Fin 8 := Fin.ofNat 8 t
  let courts (ns : List Nat) : List Court := ns.map (Fin.ofNat 8)
  match v with
  | .hello => .hello l (k.num "baud")
  | .part => .part l p (courts (k.list "courts")) (k.numD "il" == 1)
  | .free => .free l p
  | .clock => .clock l p (k.numD "mhz")
  | .link =>
    if k.has "rack" then .linkRack l (k.num "rack")
    else match k.num "op" with
      | some 0 => .linkOpUp l p
      | some 1 => .linkOpDown l p
      | some _ => .linkOpRetrain l p
      | none => .linkReport l (tn.map (Fin.ofNat 8))
  | .route => .route l p (k.numD "dst") (if k.numD "port" = 8 then none else some (Fin.ofNat 8 (k.numD "port")))
  | .group => .group l p (k.num "id") (k.ranges "members") (k.num "rto")
  | .attest => .attest l ((k.bytes "nonce").getD [])
  | .session => .session l p ((k.bytes "pub").getD [])
  | .fw => if t = 1 then .fwWrite l (k.numD "src") (k.numD "len") else .fwStat l
  | .statD =>
    (match k.num "what" with
     | none => .statDevice l
     | some 0 => .statParts l
     | some 1 => .statCourts l
     | some _ => .statDeviceCounters l)
  | .temp => .temp l
  | .echo => .echo l (t == 1)
  | .drillD => .drillCourts l (courts (k.list "courts"))
  | .reset => .resetCommand l
  | .load => .load l w (t == 1) (k.numD "src") (k.numD "len")
  | .swap => .swap l w
  | .go => .go l w ((k.num "img").map (· == 1)) (k.num "args") (k.num "dl") ((k.nc "nc").getD {}) (k.num "done")
  | .wait => .wait l w
  | .sig => .sig l w
  | .halt => .halt l w
  | .abort => .abort l w
  | .set => .set l w (k.nc "nc") (k.num "dl")
  | .shard =>
    if tn.isSome then .shardDrop l w (k.numD "idx")
    else .shard l w (k.numD "idx") (k.list "g") (k.list "p") (k.list "c") ((k.ranges "dev").getD [])
  | .commit => .commit l w
  | .statP =>
    (match k.num "what" with
     | none => .statPartition l w
     | some 0 => .statSlots l w
     | some 1 => .statKeys l w
     | some 2 => .statPartCounters l w
     | some 3 => .statShard l w (k.numD "idx")
     | some _ => .statPoison l w)
  | .tally => .tally l w (k.num "set")
  | .key => .key l w (k.numD "slot") ((k.bytes "wrap").getD [])
  | .unkey => .unkey l w (k.numD "slot")
  | .move => .move l w (k.numD "dir" == 1) (k.numD "pa") (k.numD "host") (k.numD "len") (k.num "key")
  | .fill => .fill l w (k.numD "pa") (k.numD "len") (k.numD "val")
  | .brk =>
    if tn.isSome then .breakDrop l w
    else if k.has "tag" then .breakTag l w (k.numD "tag")
    else .breakCount l w (k.numD "cl") (k.numD "s") (k.numD "n")
  | .step => .step l w (k.numD "cl") (k.numD "s") (k.numD "n")
  | .cont => .cont l w
  | .peek =>
    .peek l w (k.numD "cl") (tget .sp dbgTargets (k.numD "what")) (k.num "s") (k.num "reg") (k.num "addr") (k.num "len")
  | .poke =>
    .poke l w (k.numD "cl") (tget .sp dbgTargets (k.numD "what")) (k.num "s") (k.num "reg") (k.num "addr") (k.num "val")
      (k.bytes "data")
  | .drillP => .drillPartition l w
  | .lock => .lock l w ((k.bytes "proof").getD [])

/-- R276, R284, R297: the command that the body of a line spells on window w, or why the line is ignored. -/
def parseBody (w : Nat) (uart : Bool) (num : Nat) (body : List Byte) : Except Why Instr :=
  match splitLine body with
  | .error .malformed => .error .malformed
  | .error _ =>
    -- a tag above 65535: the lowest reason among it and the rest of the line
    let rest := body.dropWhile isSpace |>.dropWhile fun b => !isSpace b
    (match splitLine rest with
     | .error e => .error e
     | .ok t =>
       let mine := verbIn (if w < 8 then partitionVerbs else deviceVerbs) t.verb
       let other := verbIn (if w < 8 then deviceVerbs else partitionVerbs) t.verb
       match mine, other with
       | none, none => .error .unknownVerb
       | none, some _ => .error .wrongWindow
       | some v, _ => (match readKeys v t with
         | .error e => .error (if e.code < Why.badValue.code then e else .badValue)
         | .ok _ => .error .badValue))
  | .ok t =>
    match verbIn (if w < 8 then partitionVerbs else deviceVerbs) t.verb with
    | none => .error (if (verbIn (if w < 8 then deviceVerbs else partitionVerbs) t.verb).isSome then .wrongWindow else .unknownVerb)
    | some v =>
      match readKeys v t with
      | .error e => .error e
      | .ok (tn, ks) => .ok (buildVerb v { tag := t.tag, uart := uart, num := num } (Fin.ofNat 8 w) tn ks)

end Sys2Proof.Machine
end

