-- ==== Sys2Proof/Machine/Lines.lean ====
section
/-! DEFINITION. Windows and the UART: bytes in, lines through the parser, replies out (R267 to R274, R283 to R289, R294 to
R296, R507, R508, R519). -/

namespace Sys2Proof.Machine

/-- The state of an outcome of this block. -/
def outOf (s : State) : Out → State
  | .next t => t
  | _ => s

/-- The verb that a line spells takes effect. -/
def runVerb (i : Instr) (s : State) : State :=
  outOf s (match i with
    | .hello l b => execHello l b s
    | .part l p c il e => execPart l p c il s e
    | .free l p e => execFree l p s e
    | .clock l p m => execClock l p m s
    | .linkReport l x => execLinkReport l x s
    | .linkOpUp l x => execLinkOpUp l x s
    | .linkOpDown l x => execLinkOpDown l x s
    | .linkOpRetrain l x => execLinkOpRetrain l x s
    | .linkRack l n => execLinkRack l n s
    | .route l p d x => execRoute l p d x s
    | .group l p i m r => execGroup l p i m r s
    | .attest l n => execAttest l n s
    | .session l p k => execSession l p k s
    | .fwStat l => execFwStat l s
    | .fwWrite l a n => execFwWrite l a n s
    | .statDevice l => execStatDevice l s
    | .statParts l => execStatParts l s
    | .statCourts l => execStatCourts l s
    | .statDeviceCounters l => execStatDeviceCounters l s
    | .temp l => execTemp l s
    | .echo l o => execEcho l o s
    | .drillCourts l c => execDrillCourts l c s
    | .resetCommand l => execResetCommand l s
    | .load l p b a n => execLoad l p b a n s
    | .swap l p => execSwap l p s
    | .go l p i a d n w => execGo l p i a d n w s
    | .wait l p => execWait l p s
    | .sig l p => execSig l p s
    | .halt l p => execHalt l p s
    | .abort l p => execAbort l p s
    | .set l p n d => execSet l p n d s
    | .shard l p i g q c d => execShard l p i g q c d s
    | .shardDrop l p i => execShardDrop l p i s
    | .commit l p => execCommit l p s
    | .statPartition l p => execStatPartition l p s
    | .statSlots l p => execStatSlots l p s
    | .statKeys l p => execStatKeys l p s
    | .statPartCounters l p => execStatPartCounters l p s
    | .statShard l p i => execStatShard l p i s
    | .statPoison l p => execStatPoison l p s
    | .tally l p n => execTally l p n s
    | .key l p k w => execKey l p k w s
    | .unkey l p k => execUnkey l p k s
    | .move l p o a h n k => execMove l p o a h n k s
    | .fill l p a n v => execFill l p a n v s
    | .breakCount l p c t n => execBreakCount l p c t n s
    | .breakTag l p t => execBreakTag l p t s
    | .breakDrop l p => execBreakDrop l p s
    | .step l p c t m => execStep l p c t m s
    | .cont l p => execCont l p s
    | .peek l p c x t r a n => execPeek l p c x t r a n s
    | .poke l p c x t r a v d => execPoke l p c x t r a v d s
    | .drillPartition l p => execDrillPartition l p s
    | .lock l p x => execLock l p x s
    | _ => .next s)

/-- A `part` or `free` with the error that its scrub meets, where one does (R434); any other command as it is. -/
def scrubbing (scrubError : Bool) : Instr → Instr
  | .part l p c il e => .part l p c il (e || scrubError)
  | .free l p e => .free l p (e || scrubError)
  | i => i

/-! ## One line (R272, R275 to R277, R284, R294, R295) -/

/-- The body of a line and the 8 bytes of its MAC suffix, where it has one (R276, R294). -/
def splitMac (b : List Byte) : List Byte × Option (List Byte) :=
  let n := b.length
  let tail := b.drop (n - 18)
  match tail with
  | a :: c :: hex =>
    if n ≥ 18 ∧ isSpace a ∧ c = 126#8 ∧ hex.all fun x => (hexVal x).isSome then
      (b.take (n - 18), hexPairs none true hex)
    else (b, none)
  | _ => (b, none)

/-- A host-link line begins with a prefix (R272). -/
def hasPrefix (b : List Byte) : Bool :=
  match b with
  | a :: d :: c :: _ => a == 112#8 && decide (48 ≤ d.toNat) && decide (d.toNat ≤ 55) && c == 58#8
  | _ => false

/-- A line holds a byte outside R275. -/
def hasBadChar (b : List Byte) : Bool := b.any fun x => !((decide (32 ≤ x.toNat) && decide (x.toNat ≤ 126)) || x == 9#8)

/-- What the bytes of a line break by themselves (R272, R275): its length with its LF, its characters, a prefix on the host
link. -/
def RawLine.breaks (r : RawLine) : List Why :=
  (if r.bytes.length ≥ 200 then [Why.tooLong] else []) ++ (if hasBadChar r.bytes then [.badChar] else []) ++
  (if !r.uart && hasPrefix r.bytes then [.pfx] else [])

/-- The bytes of a line's body before its comment. -/
def lineText (body : List Byte) : List Byte := body.takeWhile (· != 35#8)

/-- A null line: only spaces or only a comment, with no MAC suffix (R277). -/
def RawLine.null (r : RawLine) (body : List Byte) (mac : Bool) : Bool :=
  !mac && !r.ovf && (lineText body).all isSpace && r.breaks.isEmpty

/-- A line carried out, kept or ignored once its MAC is settled: OVERRUN is decided first, then STRAY_MAC, beside which
nothing is examined, then the lowest reason; a prefix leaves nothing to parse (assumption 13, DEDUCED). `mac` says that the
line carries a MAC suffix, which has verified where the window is locked. -/
def State.judge (s : State) (w : Nat) (r : RawLine) (body : List Byte) (mac locked : Bool) (scrubError : Bool := false) : State :=
  let l : LineCtx := { uart := r.uart, num := r.num }
  let text := lineText body
  if r.ovf then s.ignore w l .overrun
  else if mac && !locked then s.ignore w l .strayMac
  else if r.null body mac then s
  else match lowestWhy r.breaks with
    | some e =>
      if r.breaks.contains .pfx || text.all isSpace then s.ignore w l e
      else (match parseBody w r.uart r.num text with
        | .error d => s.ignore w l (if d.code < e.code then d else e)
        | .ok _ => s.ignore w l e)
    | none => match parseBody w r.uart r.num text with
      | .error e => s.ignore w l e
      | .ok i => runVerb (scrubbing scrubError i) s

/-- R295: the MAC of a line of a locked window is checked; every line that verifies advances the line sequence number. -/
def State.takeLine (s : State) (w : Nat) (r : RawLine) (scrubError : Bool := false) : State :=
  let (body, mac) := splitMac r.bytes
  match s.winKey w with
  | none => s.judge w r body mac.isSome false scrubError
  | some k =>
    if r.null body mac.isSome then s
    else if mac == some ((hmac384 k.kIn (leBytes 8 (s.part w).rxSeq ++ body)).take 8) then
      (s.updPart w fun q => { q with rxSeq := q.rxSeq + 1 }).judge w r body true true scrubError
    else s.ignore w { uart := r.uart, num := r.num } .badMac

/-- The bytes of an input FIFO's items, without CR (R275). -/
def fifoBytes (l : List FifoItem) : List Byte :=
  l.filterMap fun i => match i with | .byte b => if b = 13#8 then none else some b | .overrun => none

/-- The number of bytes that a FIFO holds. -/
def fifoCount (l : List FifoItem) : Nat :=
  (l.filter fun i => match i with | .byte _ => true | .overrun => false).length

def isOverrun (i : FifoItem) : Bool := i == .overrun

/-- R273, R276, R286: the parser consumes a line: that of the UART's assembler, else one of the FIFO up to its LF. A line
without its LF is kept as far as it has come (R289). -/
def State.nextRaw (s : State) (w : Nat) : Option RawLine × State :=
  let q := s.win w
  match q.uline with
  | some r => (some r, s.updWin w fun q => { q with uline := none })
  | none =>
    let head := q.fifo.takeWhile (· != .byte 10#8)
    let rest := q.fifo.drop head.length
    let bytes := q.asm ++ fifoBytes head
    let lost := q.asmOver || head.any isOverrun
    match rest with
    | [] => (none, s.updWin w fun q => { q with fifo := [], asm := bytes, asmOver := lost })
    | _ :: r =>
      (some { bytes := bytes, ovf := lost }, s.updWin w fun q => { q with fifo := r, asm := [], asmOver := false })

/-- R276, R284, R286 to R288: one line through the parser of window w. A parser that is stopped, behind a holding Verelle line,
for want of reply space or in a relock, consumes the next line up to its LF and keeps it, as R288 says, where R283, R287 and R36
speak of consuming nothing (assumption 30, DEDUCED). -/
def execLineParse (w : Win) (s : State) (scrubError : Bool := false) : Out :=
  .next (
    if (s.win w).held.isSome || s.mute then s
    else match s.nextRaw w with
      | (none, s) => s
      | (some r, s) =>
        if s.stopped w then s.updWin w fun q => { q with held := some (.raw r) } else s.takeLine w r scrubError)

/-- R288: the line that a stopped parser keeps takes effect once nothing stops it. -/
def execParserResume (w : Win) (s : State) (scrubError : Bool := false) : Out :=
  .next (
    if s.stopped w || s.mute then s
    else match (s.win w).held with
      | none => s
      | some (.raw r) => (s.updWin w fun q => { q with held := none }).takeLine w r scrubError
      | some (.cmd i) =>
        if s.waitsFor i then s else runVerb (scrubbing scrubError i) (s.updWin w fun q => { q with held := none }))

/-- R283: once 256 bytes are free, the lines lost are reported; on w8 with vector 0 (R373). Those of the UART are reported by
a line of w8, without a prefix (assumption 30, DESIGN CHOICE). During a device fault no event line is written to a
partition's window (R454). -/
def execEvLost (w : Option Win) (s : State) : Out :=
  let line (n : Nat) : List Byte := evLine {} [asc "lost", kn "n" n]
  .next (if s.dev.dead then s else match w with
    | some w =>
      let q := s.win w
      if q.lost = 0 ∨ 4096 < q.reply.length + 256 ∨ (w.val < 8 ∧ s.dev.dfault.isSome) then s
      else
        let s := (s.updWin w fun q => { q with lost := 0 }).emit w false (line q.lost)
        if w.val = 8 then s.msix 0 else s
    | none =>
      if s.uart.lost = 0 ∨ 4096 < s.uart.tx.length + 256 then s
      else (s.updUart fun u => { u with lost := 0 }).emit 8 true (line s.uart.lost))

/-! ## The window registers (R267 to R269, R505, R507, R508, R519) -/

/-- A request to the page of window w is served as R506 states; while the partition is locked only its own stream's (R519).
-/
def State.pageOpen (s : State) (w : Nat) (sid : Sid) : Bool :=
  decide (w = 8) || !(s.part w).locked || s.onStream sid w

/-- R267, R507: a host write at an offset of CMDIN, on any stream (R519): the bytes that its byte enables name are appended in
ascending address order. -/
def execCmdinWrite (w : Win) (sid : Sid) (data : List (Option Byte)) (s : State) (off : Nat := 0) : Out :=
  let _ := sid
  let bytes := data.filterMap id
  .next (
    if !s.host.dlUp || bytes.isEmpty || off + data.length > 64 then s
    else s.updWin w fun q =>
      if fifoCount q.fifo + bytes.length ≤ 4096 then { q with fifo := q.fifo ++ bytes.map .byte }
      else { q with fifo := q.fifo ++ [.overrun] })

/-- WINCREDIT (R268). -/
def Window.credit (q : Window) : Nat := 4096 - fifoCount q.fifo

/-- The bytes of each reply to `reset` that are still to leave, once n bytes have left a transport (R317). -/
def Device.replyLeft (d : Device) (uart : Bool) (n : Nat) : Device :=
  { d with resetIn := d.resetIn.map fun r => if r.1 == uart then (uart, r.2 - n) else r }

/-- R269, R507: a host read of `n` bytes at an offset of REPLYOUT; one that starts elsewhere than at its beginning returns
zeros, wherever it ends. -/
def execReplyoutRead (w : Win) (sid : Sid) (off n : Nat) (s : State) : Out :=
  .next (
    if !s.host.dlUp || n = 0 || n > 64 || off < 0x40 || off ≥ 0x80 then s
    else if off != 0x40 || !s.pageOpen w sid then s.send (.data (List.replicate n 0) false)
    else
      let b := (s.win w).reply
      let s := if w.val = 8 then s.updDev fun d => d.replyLeft false n else s
      (s.updWin w fun q => { q with reply := q.reply.drop n }).send
        (.data (b.take n ++ List.replicate (n - (b.take n).length) 0) false))

/-- R507, R508: a write of WINCTL; setting RIE while the reply buffer holds bytes sends one message. -/
def execWinctlWrite (w : Win) (sid : Sid) (v : Word) (s : State) : Out :=
  .next (
    if !s.host.dlUp || !s.pageOpen w sid then s
    else
      let q := s.win w
      let on := v.toNat % 2 == 1
      let s := s.updWin w fun q => { q with rie := on }
      if on && !q.rie && !q.reply.isEmpty then s.msix (17 + w) else s)

/-- R505: a write to a read-only or reserved place, or of another form, is ignored. -/
def execRegisterWriteIgnored (off : Nat) (data : List Byte) (s : State) : Out :=
  let _ := (off, data)
  .next s

/-! ## The UART (R271 to R274, R285) -/

/-- The line in the assembler is complete. -/
def Uart.full (u : Uart) : Bool := u.asm.getLast? == some 10#8

/-- The assembler takes bytes from the FIFO up to and including an LF (R273). -/
def Uart.assemble (u : Uart) : Uart :=
  if u.full then u
  else
    let head := u.rx.takeWhile (· != .byte 10#8)
    let rest := u.rx.drop head.length
    { u with
      asm := u.asm ++ fifoBytes head ++ (if rest.isEmpty then [] else [10#8])
      asmOver := u.asmOver || head.any isOverrun
      rx := rest.drop 1 }

/-- CMD_CTS_N by the fill of the FIFO (R274). -/
def Uart.flow (u : Uart) : Uart :=
  let n := fifoCount u.rx
  { u with cts := if n ≥ 768 then false else if n < 256 then true else u.cts }

/-- The last byte of the line that is being typed is removed (R285). -/
def Uart.erase (u : Uart) : Uart :=
  if u.rx.isEmpty && !u.full then { u with asm := u.asm.dropLast }
  else match u.rx.getLast? with
    | some (.byte b) => if b = 10#8 then u else { u with rx := u.rx.dropLast }
    | _ => u

/-- R274, R285: a byte arrives on CMD_RXD. -/
def execUartByteReceive (b : Byte) (s : State) : Out :=
  .next (
    if s.dev.stage = 0 then s
    else
      let del := s.uart.echo && (b == 8#8 || b == 127#8)
      let s := if s.uart.echo then
          s.uartEcho (if del then [8#8, 32#8, 8#8] else if b = 10#8 then [13#8, 10#8] else [b])
        else s
      s.updUart fun u =>
        if del then u.erase.flow
        else if fifoCount u.rx ≥ 1024 then { u with rx := u.rx ++ [.overrun] }
        else (Uart.assemble { u with rx := u.rx ++ [FifoItem.byte b] }).flow)

/-- Where a UART line goes, with its prefix removed; none for a prefix of another form (R272). -/
def uartTarget (b : List Byte) : Option (Nat × List Byte) :=
  match b with
  | a :: d :: c :: r =>
    if a = 112#8 ∧ c = 58#8 then
      if 48 ≤ d.toNat ∧ d.toNat ≤ 55 then some (d.toNat - 48, r.dropWhile isSpace) else none
    else some (8, b)
  | _ => some (8, b)

/-- A window stands at a line boundary and is not stopped (R273). -/
def State.boundary (s : State) (w : Nat) : Bool :=
  let q := s.win w
  q.held.isNone && q.uline.isNone && q.asm.isEmpty && !q.asmOver && !s.stopped w

/-- R272, R273: the assembled line goes to its window, or is ignored and counted in w8. -/
def execUartLineHandoff (s : State) : Out :=
  .next (
    let u := s.uart
    if !u.full || s.mute then s
    else
      let num := u.lines + 1
      let next (s : State) : State :=
        s.updUart fun u => ({ u with asm := [], asmOver := false, lines := num }.assemble).flow
      let l : LineCtx := { uart := true, num := num }
      if u.asmOver then (next s).ignore 8 l .overrun
      else match uartTarget u.asm.dropLast with
        | none =>
          let r : RawLine := { bytes := u.asm.dropLast, uart := true }
          (next s).ignore 8 l (if (splitMac r.bytes).2.isSome then .strayMac else (lowestWhy (.pfx :: r.breaks)).getD .pfx)
        | some (w, b) =>
          if s.boundary w then
            (next s).updWin w fun q => { q with uline := some { bytes := b, uart := true, num := num } }
          else s)

/-- R274: the other end asserts or deasserts CMD_RTS_N. -/
def execCmdRtsN (asserted : Bool) (s : State) : Out :=
  .next (
    let s := s.updUart fun u => { u with rts := asserted }
    if asserted && !s.uart.tx.isEmpty then
      ((s.txd s.uart.tx).updUart fun u => { u with tx := [] }).updDev fun d => d.replyLeft true s.uart.tx.length
    else s)

end Sys2Proof.Machine
end

