-- ==== Sys2Proof/Machine/HostLink.lean ====
section
/-! DEFINITION. The host link: completion-ring controls, MSI-X, Function Level Reset, the HDM decoder, CXL.mem and BAR4
accesses, back-invalidation responses, IDE stream slots (R346 to R360, R371 to R373, R424, R425, R469, R511, R520). -/

namespace Sys2Proof.Machine

/-! ## Completion-ring controls (R371, R372, R511, R519) -/

/-- A change of the ring registers of a page that the host may write. -/
def State.ringWrite (s : State) (p : Nat) (sid : Sid) (f : Partition → Partition) : State :=
  if !s.host.dlUp || !s.pageOpen p sid then s else s.updPart p f

/-- R511: RINGBASE, either half or both; bits 11 to 0 are reserved. -/
def execRingbaseWrite (p : Part) (sid : Sid) (lo hi : Option Word) (s : State) : Out :=
  .next (s.ringWrite p sid fun q =>
    if q.ringEn then q
    else
      let l := (lo.map BitVec.toNat).getD (q.ringBase.toNat % 2 ^ 32)
      let h := (hi.map BitVec.toNat).getD (q.ringBase.toNat / 2 ^ 32)
      { q with ringBase := BitVec.ofNat 64 (h * 2 ^ 32 + l / 4096 * 4096) })

/-- The sizes that RINGSIZE takes (R511). -/
def ringSizeOk (n : Nat) : Bool := decide (7 ≤ n) && decide (n ≤ 16)

/-- R511: RINGSIZE, field LOG2. -/
def execRingsizeWrite (p : Part) (sid : Sid) (v : Word) (s : State) : Out :=
  .next (s.ringWrite p sid fun q =>
    if q.ringEn || !ringSizeOk (v.toNat % 32) then q else { q with ringLog2 := v.toNat % 32 })

/-- R511: RINGCTL with EN 1. -/
def execRingEnable (p : Part) (sid : Sid) (cie : Bool) (s : State) : Out :=
  .next (s.ringWrite p sid fun q =>
    if q.ringEn then { q with ringCie := cie }
    else if !ringSizeOk q.ringLog2 then q
    else { q with ringEn := true, ringCie := cie, prod := 0, cons := 0 })

/-- R511: RINGCTL with EN 0: nothing waits for the ring any more. -/
def execRingDisable (p : Part) (sid : Sid) (cie : Bool) (s : State) : Out :=
  .next (if !s.host.dlUp || !s.pageOpen p sid then s
    else (s.updPart p fun q => { q with ringEn := false, ringCie := cie }).pumpFree p)

/-- R511: RINGCTL with EN as it is. -/
def execRingCieWrite (p : Part) (sid : Sid) (cie : Bool) (s : State) : Out :=
  .next (s.ringWrite p sid fun q => { q with ringCie := cie })

/-- R372, R511: RINGCONS; a wait on a full ring may end. -/
def execRingconsWrite (p : Part) (sid : Sid) (v : Word) (s : State) : Out :=
  .next (if !s.host.dlUp || !s.pageOpen p sid then s else (s.updPart p fun q => { q with cons := v }).pumpFree p)

/-- R372: the device writes what waits for the ring, as far as it has room. -/
def execRingEntryWrite (p : Part) (s : State) (obs : HwObs := {}) : Out := .next (s.pump p obs)

/-! ## MSI-X and the function (R368, R373, R469) -/

/-- The pending message of a vector is sent where it may be. -/
def State.msixFlush (s : State) (v : Nat) : State :=
  if s.host.msixEn && s.host.bme && !tget true s.host.masks v && tget false s.host.pend v then
    (s.updHost fun h => { h with pend := h.pend.set v false }).send (.msix v (tget (0, 0) s.host.table v))
  else s

/-- R373, R514, R518: a vector's table entry is written, address, data and mask where given, with the function's MSI-X enable as
written; unmasked, it sends the message that is pending. -/
def execMsixUnmask (v : Fin 32) (en : Bool) (s : State) (entry : Option (BitVec 64 × Word) := none)
    (mask : Option Bool := some false) : Out :=
  .next (if !s.host.dlUp then s
    else (s.updHost fun h => { h with
      masks := match mask with | some m => h.masks.set v m | none => h.masks
      msixEn := en
      table := match entry with | some e => h.table.set v e | none => h.table }).msixFlush v)

/-- The host's writes of AER: whether messages are enabled, and the status bits that it clears by writing 1 (R346; assumption
29, PRESUMED). -/
def HostLink.setAer (h : HostLink) (w : Option (Bool × Word)) : HostLink :=
  match w with
  | some (en, clear) => { h with aerEn := en, aerUnc := h.aerUnc &&& ~~~clear }
  | none => h

/-- R368: Bus Master Enable is set: pending messages and waiting reports leave. The host may enable viral, and write the
registers of AER, with it (R346). -/
def execBusMasterEnableSet (s : State) (viral : Bool := false) (aer : Option (Bool × Word) := none) : Out :=
  .next (if !s.host.dlUp then s
    else
      let s := (List.range 32).foldl (fun s v => s.msixFlush v)
        (s.updHost fun h => ({ h with bme := true, viralEn := h.viralEn || viral } : HostLink).setAer aer)
      (List.range 8).foldl (fun s p => s.pumpFree p) s)

/-- R469: a Function Level Reset. Running jobs that use the host end with HOST_ERROR. -/
def execFunctionLevelReset (s : State) : Out :=
  .next (if !s.host.dlUp then s
    else
      let s := s.updHost fun h => { h with
        bme := false, msixEn := false, viralEn := false, aerEn := false, masks := ({} : HostLink).masks, pend := ({} : HostLink).pend
        table := ({} : HostLink).table }
      let s := { s with parts := s.parts.map fun q => { q with ringEn := false } }
      (List.range 8).foldl (fun s p =>
        (((s.part p).jobs.filter fun j => j.kind != 2 && j.status.isNone).foldl (fun s j => s.abandon p j 4) s).pumpFree p) s)

/-! ## The HDM decoder (R348) -/

/-- The size that the decoder accepts: 24 GiB. -/
def hdmBytes : Nat := 0x600000000

def execHdmDecoderCommit (base size ways : Nat) (bi : Bool) (s : State) : Out :=
  .next (
    if !s.host.dlUp || !s.host.cxl then s
    else
      let ok : Bool := size == hdmBytes && base % 2 ^ 28 == 0 && ways == 1 && bi
      s.updHost fun h => { h with
        hdm := if ok then some base else none, hdmErr := !ok, biEn := bi, hdmSet := (base, size, ways) })

/-- The device address of a host physical address that the decoder covers (R348). -/
def State.decoded (s : State) (hpa : Nat) : Option Nat :=
  match s.host.hdm with
  | some b => if b ≤ hpa ∧ hpa < b + hdmBytes then some (hpa - b) else none
  | none => none

/-! ## Host access by court state (R352, R353, R471) -/

/-- A request reaches the memory of a court: its partition is none, or neither RESETTING nor locked to another stream. -/
def State.hostMay (s : State) (sid : Sid) (da : Nat) : Bool :=
  match s.owner (da / courtBytes) with
  | none => true
  | some p => (s.part p).stat != .resetting && (!(s.part p).locked || s.onStream sid p)

/-- A line of image slot memory (R242, R244). -/
def State.inSlot (s : State) (da : Nat) : Bool :=
  match s.owner (da / courtBytes) with
  | none => false
  | some p => decide ((s.part p).slotLo ≤ (s.part p).paOf da)

/-- A dropped or ignored host write is counted in the partition of the court (R244, R352). -/
def State.countDrop (s : State) (da : Nat) : State :=
  match s.owner (da / courtBytes) with
  | none => s
  | some p => s.updPart p fun q => { q with lockdrop := satAdd 0xFFFFFFFF q.lockdrop 1 }

/-- A host read of bytes of one line that may be read: a poisoned line gives no bytes (R341, R342). -/
def State.readOut (s : State) (da n : Nat) (obs : HwObs) : State :=
  let s := s.observe obs [da / 64]
  if (s.cause (da / 64)).isSome then s.send (.data [] true)
  else s.send (.data ((List.range n).map fun k => s.rdDa (da + k)) false)

/-- A host write of bytes of one line that may be written (R342, R343). -/
def State.writeIn (s : State) (line : Nat) (cells : List Host.Cell) (poison : Bool) (obs : HwObs) : State :=
  if cells.isEmpty then s
  else
    let s := if cells.length = 64 then s else s.observe obs [line]
    if poison then s.markHost line else s.wrDa cells

/-! ## CXL.mem (R348 to R352) -/

/-- The snoop filter of a court is full, and a line is not in it (R350). -/
def CourtSt.mustEvict (c : CourtSt) (line : Nat) : Option Nat :=
  if c.snoop.contains line || c.snoop.length < 524288 then none else c.snoop.head?

/-- R348 to R350, R352, R471: a host read of the line at `hpa`; `cache` lets the host keep it. -/
def execCxlMemRead (hpa : Nat) (sid : Sid) (cache : Bool) (obs : HwObs) (s : State) : Out :=
  .next (
    if !s.host.dlUp || !s.host.cxl then s
    else match s.decoded hpa with
      | none => s.send .noMemory
      | some a =>
        let line := a / 64
        let c := a / courtBytes
        if !s.dev.ready || !s.hostMay sid a then s.send (.data [] true)
        else if !cache then s.readOut (64 * line) 64 obs
        else match (s.court c).mustEvict line with
          | some old => s.biAsk [old]
          | none =>
            (s.updCourt c fun k => if k.snoop.contains line then k else { k with snoop := k.snoop ++ [line] }).readOut
              (64 * line) 64 obs)

/-- The bytes that a mask enables. -/
def enabled (a : Nat) (data : List Byte) (mask : Nat) : List Host.Cell :=
  (cellsAt a data).filter fun c => bit mask (c.1 - a)

/-- R342, R343, R352, R244, R471: a host write of the enabled bytes of the line at `hpa`. -/
def execCxlMemWrite (hpa : Nat) (sid : Sid) (data : List Byte) (enable : Nat) (poison : Bool) (obs : HwObs) (s : State) :
    Out :=
  .next (
    if !s.host.dlUp || !s.host.cxl || data.length != 64 then s
    else match s.decoded hpa with
      | none => s.send .noMemory
      | some a =>
        let line := a / 64
        if !s.dev.ready then s
        else if !s.hostMay sid a || s.inSlot a then s.countDrop a
        else s.writeIn line (enabled (64 * line) data enable) poison obs)

/-- R349: the host answers a back-invalidation; data is that of a line it held modified, which is written as a host write is
(R244). -/
def execBirsp (da : Nat) (data : Option (List Byte)) (s : State) : Out :=
  .next (
    let line := da / 64
    if !s.host.biSent.contains line then s
    else
      let s := s.updHost fun h => { h with biSent := h.biSent.filter (· != line) }
      let s := s.updCourt (64 * line / courtBytes) fun c => { c with snoop := c.snoop.filter (· != line) }
      match data with
      | none => s
      | some d =>
        if d.length ≠ 64 then s
        else if s.inSlot (64 * line) then s.countDrop (64 * line)
        else s.wrDa (cellsAt (64 * line) d))

/-! ## BAR4 (R41, R355, R520) -/

/-- A request of PCIe that BAR4 takes: 1 to 4096 bytes of one 4 KiB page. -/
def bar4Ok (off n : Nat) : Bool :=
  decide (1 ≤ n) && decide (n ≤ 4096) && decide (off % 4096 + n ≤ 4096) && decide (off + n ≤ 2 ^ 35)

/-- The parts of an access, divided at 64-byte boundaries: address and length. -/
def parts64 (off n : Nat) : List (Nat × Nat) :=
  (linesOf off n).map fun l => (max off (64 * l), min (off + n) (64 * l + 64) - max off (64 * l))

/-- R520: a BAR4 read; each part at 64-byte boundaries is served on its own. -/
def execBar4Read (off n : Nat) (sid : Sid) (obs : HwObs) (s : State) : Out :=
  .next (
    if !s.host.dlUp || s.host.cxl || !bar4Ok off n then s
    else (parts64 off n).foldl (fun s e =>
      if !s.dev.ready then s.send (.data [] true)
      else if hdmBytes ≤ e.1 then s.send (.data (List.replicate e.2 0) false)
      else if !s.hostMay sid e.1 then s.send (.data [] true)
      else s.readOut e.1 e.2 obs) s)

/-- The bytes of a BAR4 write that its byte enables name; `holes` are the others, counted from its first byte. -/
def bar4Cells (off : Nat) (data : List Byte) (holes : List Nat) : List Host.Cell :=
  (cellsAt off data).filter fun c => !holes.contains (c.1 - off)

/-- R520: a BAR4 write; one that is dropped or ignored, in whole or in part, counts once. AER reports a write with EP (R346). -/
def execBar4Write (off : Nat) (data : List Byte) (sid : Sid) (ep : Bool) (obs : HwObs) (s : State) (holes : List Nat := []) :
    Out :=
  .next (
    if !s.host.dlUp || s.host.cxl || !bar4Ok off data.length then s
    else
    let s := if ep then s.aer aerPoison else s
    if !s.dev.ready || decide (hdmBytes ≤ off) then s
    else if !s.hostMay sid off then s.countDrop off
    else
      let cells := bar4Cells off data holes
      let ps := (parts64 off data.length).filter fun e => cells.any fun c => c.1 / 64 == e.1 / 64
      let s := if ps.any (fun e => s.inSlot e.1) then s.countDrop off else s
      ps.foldl (fun s e =>
        if s.inSlot e.1 then s
        else s.writeIn (e.1 / 64) (cells.filter fun c => c.1 / 64 == e.1 / 64) ep obs) s)

/-! ## IDE stream slots (R353, R354, R424, R425) -/

/-- Slot k belongs to a locked partition (R424). -/
def State.slotLocked (s : State) (k : Fin 9) : Bool := decide (k.val < 8) && (s.part k).locked

/-- A slot leaves the secure state: its keys go, and a locked slot's generation rises (R354, R425). -/
def IdeSlot.leave (e : IdeSlot) (locked : Bool) : IdeSlot :=
  { e with secure := false, keys := [], gen := if locked then e.gen + 1 else e.gen }

/-- R354, R463: an integrity check fails on a stream; AER reports it (R346). -/
def execIdeIntegrityFailure (k : Fin 9) (s : State) : Out :=
  .next (if !(s.ideSlot k).secure then s
    else (s.updIde k fun e => { e.leave (s.slotLocked k) with fails := satAdd 0xFFFF e.fails 1 }).aer aerIde)

/-- The DOE mailbox has a response ready (R373, R426). -/
def State.spdmReply (s : State) (r : SpdmRsp) : State := (s.send (.spdm r)).msix 26

/-- The DOE mailbox is served: the link answers, and the management core runs Verelle (R454, R470). -/
def State.doeOpen (s : State) : Bool := s.host.dlUp && s.dev.dfault.isNone && decide (s.dev.stage ≥ 3)

/-- A message inside an SPDM session: answered with an error where the session is not established (R426). -/
def State.inSession (s : State) (sess : Fin 2) (f : State → State) : State :=
  if !s.doeOpen then s
  else if tget 0 s.spdm.sess sess ≠ 2 then s.spdmReply .invalid
  else f s

/-- R424: KEY_PROG writes one key of a slot, unless the slot belongs to a locked partition. -/
def State.keyProg (s : State) (k : Fin 9) (set dir : Bool) (sub : Fin 3) (key : List Byte) : State :=
  if s.slotLocked k || key.length != 32 then s.spdmReply (.ideKm false)
  else
    let i := ideAt set dir sub
    (s.updIde k fun e => { e with keys := e.keys.filter (·.1 != i) ++ [(i, key)] }).spdmReply (.ideKm true)

/-- All six keys of a key set are there. -/
def IdeSlot.hasSet (e : IdeSlot) (set : Bool) : Bool :=
  [false, true].all fun d => (List.range 3).all fun u => e.keys.any fun k => k.1 == ideAt set d u

/-- R424, R425: K_SET_GO; a locked slot that has left the secure state takes the derived keys of its generation. -/
def State.ideGo (s : State) (k : Fin 9) (set : Bool) : State :=
  let e := s.ideSlot k
  if e.hasSet set then (s.updIde k fun e => { e with secure := true, cur := set }).spdmReply (.ideKm true)
  else match (if s.slotLocked k && e.keys.isEmpty then (s.part k).session else none) with
    | some z => (s.updIde k fun e => { e.derived z.prk k e.gen set with secure := true, cur := set }).spdmReply (.ideKm true)
    | none => s.spdmReply (.ideKm false)

/-- R425: K_SET_STOP of the key set in use takes the slot out of the secure state; of the other set, it drops its keys. -/
def State.ideStop (s : State) (k : Fin 9) (set : Bool) : State :=
  let e := s.ideSlot k
  if e.secure && e.cur == set then (s.updIde k fun e => e.leave (s.slotLocked k)).spdmReply (.ideKm true)
  else if s.slotLocked k then s.spdmReply (.ideKm true)
  else (s.updIde k fun e => { e with keys := e.keys.filter fun x => (decide (x.1 < 6)) == set }).spdmReply (.ideKm true)

def execIdeKmKeyProg (sess : Fin 2) (k : Fin 9) (set : Bool) (dir : Bool) (sub : Fin 3) (key : List Byte) (s : State) :
    Out := .next (s.inSession sess fun s => s.keyProg k set dir sub key)

def execKSetGo (sess : Fin 2) (k : Fin 9) (set : Bool) (s : State) : Out :=
  .next (s.inSession sess fun s => s.ideGo k set)

def execKSetStop (sess : Fin 2) (k : Fin 9) (set : Bool) (s : State) : Out :=
  .next (s.inSession sess fun s => s.ideStop k set)

end Sys2Proof.Machine
end

