-- ==== Sys2Proof/Machine/Spdm.lean ====
section
/-! DEFINITION. The SPDM 1.2 responder of the DOE mailbox and the memory device mailbox (R346, R414, R426 to R428).
Responses are given by their content; what the spec takes from the SPDM and CXL specifications without stating it, a
transcript, a MAC, the return of a mandatory command, is free (assumption 7, DESIGN CHOICE). -/

namespace Sys2Proof.Machine

/-- A change of the responder. -/
def State.updSpdm (s : State) (f : Spdm → Spdm) : State := { s with spdm := f s.spdm }

/-- A signature by the cohort key over the transcript of a request, with a fresh nonce (R426, assumption 7, DESIGN CHOICE). -/
def State.spdmSign (s : State) (kind : Nat) (req : List Byte) : List Byte × State :=
  (ecdsaSign Config.cohortKey (s.secret 0) (Config.spdmTranscript s.free kind req), s.fresh)

/-- A request after negotiation: an error response comes before it. -/
def State.negotiated (s : State) (f : State → State) : State :=
  if !s.doeOpen then s else if !s.spdm.algs then s.spdmReply .invalid else f s

/-- R426: GET_VERSION begins anew and ends every session. -/
def execGetVersion (s : State) : Out :=
  .next (if !s.doeOpen then s
    else ({ s with spdm := { version := true } } : State).spdmReply .version)

def execGetCapabilities (s : State) : Out :=
  .next (if !s.doeOpen then s
    else if !s.spdm.version then s.spdmReply .invalid
    else (s.updSpdm fun d => { d with caps := true }).spdmReply .capabilities)

/-- R426: nothing but P-384, SHA-384 and AES-256-GCM is offered. -/
def execNegotiateAlgorithms (p384 sha384 gcm : Bool) (s : State) : Out :=
  .next (if !s.doeOpen then s
    else if !s.spdm.caps || !(p384 && sha384 && gcm) then s.spdmReply .invalid
    else (s.updSpdm fun d => { d with algs := true }).spdmReply .algorithms)

def execGetDigests (s : State) : Out :=
  .next (s.negotiated fun s => s.spdmReply (.digests (sha384 Config.certChain)))

/-- R414, R426: slot 0 only. -/
def execGetCertificate (slot off len : Nat) (s : State) : Out :=
  .next (s.negotiated fun s =>
    if slot ≠ 0 then s.spdmReply .invalid else s.spdmReply (.certificate ((Config.certChain.drop off).take len)))

def execChallenge (slot : Nat) (nonce : List Byte) (s : State) : Out :=
  .next (s.negotiated fun s =>
    if slot ≠ 0 ∨ nonce.length ≠ 32 then s.spdmReply .invalid
    else
      let r := s.spdmSign 0 nonce
      r.2.spdmReply (.challengeAuth r.1))

/-- R427: the measurement blocks, each of the same bytes as the report field named. -/
def State.measure (s : State) : List (Nat × List Byte) :=
  [(1, s.dRom), (2, s.dVer), (3, s.dDram), (4, s.dLink),
   (5, s.product ++ [0xA1] ++ leBytes 2 s.fuses.cohort ++ s.fwVer ++ s.fuseBytes ++ s.debugBytes), (6, s.partsBytes)]

/-- R427: GET_MEASUREMENTS of one block, of none (index 0, their number), or of all (index 255). -/
def execGetMeasurements (index : Nat) (sign : Bool) (nonce : List Byte) (s : State) : Out :=
  .next (s.negotiated fun s =>
    if (6 < index ∧ index ≠ 255) ∨ (sign ∧ nonce.length ≠ 32) then s.spdmReply .invalid
    else
      let blocks := s.measure.filter fun b => index == 255 || b.1 == index
      if sign then
        let r := s.spdmSign 1 nonce
        r.2.spdmReply (.measurements blocks r.1)
      else s.spdmReply (.measurements blocks []))

/-! ## Sessions (R426) -/

/-- A session changes. -/
def Spdm.setSess (d : Spdm) (i st : Nat) (secret : List Byte) : Spdm :=
  { d with sess := d.sess.set i st, secrets := d.secrets.set i secret, updates := d.updates.set i 0 }

/-- R426: KEY_EXCHANGE opens the handshake of a free session, of which there are two. -/
def execKeyExchange (pub : List Byte) (s : State) : Out :=
  .next (s.negotiated fun s =>
    match s.spdm.sess.idxOf? 0, ecdh (s.secret 1) pub with
    | some i, some z =>
      let own := ecPublic (s.secret 1)
      let r := s.spdmSign 2 pub
      ((r.2.updSpdm fun d => d.setSess i 1 z).fresh).spdmReply (.keyExchange i own r.1)
    | _, _ => s.spdmReply .invalid)

/-- R426: FINISH ends a handshake: the session is established, or ends where the MAC fails. -/
def execFinish (sess : Fin 2) (mac : List Byte) (s : State) : Out :=
  .next (s.negotiated fun s =>
    if tget 0 s.spdm.sess sess ≠ 1 then s.spdmReply .invalid
    else if Config.spdmFinishOk (tget [] s.spdm.secrets sess) mac then
      (s.updSpdm fun d => { d with sess := d.sess.set sess 2 }).spdmReply .finish
    else (s.updSpdm fun d => d.setSess sess 0 []).spdmReply .invalid)

def execHeartbeat (sess : Fin 2) (s : State) : Out :=
  .next (s.inSession sess fun s => s.spdmReply .heartbeatAck)

def execKeyUpdate (sess : Fin 2) (s : State) : Out :=
  .next (s.inSession sess fun s =>
    (s.updSpdm fun d => { d with updates := d.updates.modify sess (· + 1) }).spdmReply .keyUpdateAck)

def execEndSession (sess : Fin 2) (s : State) : Out :=
  .next (s.inSession sess fun s => (s.updSpdm fun d => d.setSess sess 0 []).spdmReply .endSessionAck)

/-- The error code UnsupportedRequest of SPDM 1.2. -/
def unsupportedRequest : Nat := 7

/-- R426, R428: a VENDOR_DEFINED_REQUEST carries IDE_KM and nothing else. -/
def execVendorDefinedRequest (sess : Fin 2) (m : Option IdeKm) (s : State) : Out :=
  .next (s.inSession sess fun s =>
    match m with
    | some (.keyProg k set dir sub key) => s.keyProg k set dir sub key
    | some (.setGo k set) => s.ideGo k set
    | some (.setStop k set) => s.ideStop k set
    | none => s.spdmReply (.unsupported unsupportedRequest))

/-- R426: any other request. -/
def execSpdmUnsupportedRequest (code : Nat) (s : State) : Out :=
  let _ := code
  .next (if !s.doeOpen then s else s.spdmReply (.unsupported unsupportedRequest))

/-! ## The memory device mailbox (R346, R504) -/

/-- The return code Unsupported of a memory device mailbox (PRESUMED from CXL 3.1; assumption 29). -/
def mailboxUnsupported : Nat := 0x03

/-- The opcodes of poison injection and the poison list: Get Poison List, Inject Poison, Clear Poison, Get Scan Media
Capabilities, Scan Media, Get Scan Media Results (PRESUMED from CXL 3.1; assumption 29). -/
def poisonOpcodes : List Nat := [0x4300, 0x4301, 0x4302, 0x4303, 0x4304, 0x4305]

/-- R346: the mandatory commands return what the CXL specification says, all others Unsupported, poison injection and the
poison list among them. -/
def execMailboxCommand (opcode : Nat) (s : State) : Out :=
  .next (
    let reply (s : State) (code : Nat) (b : List Byte) : State :=
      (s.updHost fun h => { h with mbox := some (opcode, code, b) }).send (.mailbox code b)
    if !s.host.dlUp || !s.host.cxl then s
    else if Config.mailboxMandatory opcode && !poisonOpcodes.contains opcode then
      (reply s 0 (Config.mailboxReturn opcode s.free)).fresh
    else reply s mailboxUnsupported [])

end Sys2Proof.Machine
end

