-- ==== Sys2Proof/Machine/Registers.lean ====
section
/-! DEFINITION. What a read of a host-visible register returns, as functions of the state: BAR0's window pages and device
page (R504 to R519) and the board's SMBus registers (R498). Reads of these registers have no effect (R505), so no command
stands for them; REPLYOUT alone is read by a command. -/

namespace Sys2Proof.Machine

/-! ## Window pages (R506 to R513, R519) -/

/-- The code of IGNWHY stands in the window; WINCREDIT is R268's. -/
def State.windowWord (s : State) (w off : Nat) : Nat :=
  let q := s.win w
  if off = 0x80 then q.credit
  else if off = 0x84 then b2n q.rie
  else if off = 0x88 then q.ign
  else if off = 0x8C then q.ignWhy
  else 0

/-- STATE, LOCK, COURTS and MHZ of PSTATE0 (R509, R514). -/
def Partition.fourFields (q : Partition) : Nat :=
  q.state + 8 * b2n q.locked + 2 ^ 16 * q.courtBits + 2 ^ 24 * (if q.stat = .free then 0 else q.mhz / 50)

/-- PSTATE0 (R509). -/
def Partition.pstate0 (q : Partition) : Nat :=
  q.fourFields + 2 ^ 4 * b2n q.isStopped + 2 ^ 5 * b2n q.gate + 2 ^ 6 * b2n q.pendR.isSome + 2 ^ 7 * b2n q.active +
  2 ^ 8 * (q.slot false).st.code + 2 ^ 10 * (q.slot true).st.code + 2 ^ 30 * b2n q.il

/-- PSTATE1 (R509). -/
def Partition.pstate1 (q : Partition) : Nat :=
  q.tickets + 2 ^ 8 * q.queue.length + 2 ^ 15 * b2n q.run.isSome +
  2 ^ 16 * (match q.run with | some r => r.la.ctx.tag.getD 0 | none => 0)

/-- DRILLCNT of a cluster, word by word (R514). -/
def Cluster.drillWord (k : Cluster) (i : Nat) : Nat :=
  match i with
  | 0 => k.dRuns.toNat
  | 1 => k.dFails
  | 2 => b2n k.dValid * 2 ^ 31 + k.dLast
  | _ => 0

/-- TALLY (R512). -/
def Partition.tallyWord (q : Partition) (i j : Nat) : Nat :=
  match q.copy with
  | none => 0
  | some c =>
    let t : TallySet := tget {} c.sets i
    match j with | 0 => t.sat | 1 => t.flush | 2 => t.nan | _ => 0

/-- TALLYINFO, TALLYSEQ and TALLYSUM (R512). -/
def Partition.tallyInfo (q : Partition) (i : Nat) : Nat :=
  match q.copy with
  | none => 0
  | some c => match i with | 0 => 2 ^ 31 + c.tag.getD 0 | 1 => c.seq % 2 ^ 32 | _ => c.sum

/-- A word of the page of a partition's window, unhidden (R506). -/
def State.partWord (s : State) (p off : Nat) : Nat :=
  let q := s.part p
  let n := 12 * q.courts.length
  if off < 0x100 then s.windowWord p off
  else if off = 0x100 then q.pstate0
  else if off = 0x104 then q.pstate1
  else if 0x120 ≤ off ∧ off < 0x138 then (tget 0 q.ffrec ((off - 0x120) / 4)).toNat
  else if off = 0x138 then q.faults + 2 ^ 16 * q.late
  else if off = 0x13C then q.lockdrop
  else if off = 0x180 then q.ringBase.toNat % 2 ^ 32
  else if off = 0x184 then q.ringBase.toNat / 2 ^ 32
  else if off = 0x188 then q.ringLog2
  else if off = 0x18C then b2n q.ringEn + 2 * b2n q.ringCie
  else if off = 0x190 then q.prod.toNat
  else if off = 0x194 then q.cons.toNat
  else if 0x200 ≤ off ∧ off < 0x300 then q.tallyWord ((off - 0x200) / 16) (off % 16 / 4)
  else if 0x300 ≤ off ∧ off < 0x30C then q.tallyInfo ((off - 0x300) / 4)
  else if 0x400 ≤ off ∧ off < 0x580 then
    let j := (off - 0x400) / 4
    if j < n then (s.clu (q.glob j)).suspect else 0
  else if 0x600 ≤ off ∧ off < 0xC00 then
    let j := (off - 0x600) / 16
    if j < n then (s.clu (q.glob j)).drillWord (off % 16 / 4) else 0
  else 0

/-- A word of page N as a request on a stream reads it (R519). -/
def State.pageWord (s : State) (w : Nat) (sid : Sid) (off : Nat) : Nat :=
  if w = 8 then (if off < 0x90 then s.windowWord 8 off else 0)
  else if s.pageOpen w sid then s.partWord w off
  else if off = 0x80 then s.windowWord w off
  else if off = 0x100 then (s.part w).fourFields
  else 0

/-! ## The device page (R514 to R517) -/

/-- DEVSTAT0 (R515). -/
def State.devstat0 (s : State) : Nat :=
  let d := s.dev
  b2n d.ready * 2 ^ 31 + b2n d.dfault.isSome * 2 ^ 30 + b2n s.host.cxl * 2 ^ 29 + d.dfault.getD 0 * 2 ^ 16 +
  (if d.bootErr = 2 then d.beChan else 0) * 2 ^ 12 + d.stage * 2 ^ 8 + d.bootErr

/-- DEVSTAT1 (R515). -/
def State.devstat1 (s : State) : Nat :=
  b2n s.dev.rack.isSome * 2 ^ 23 + s.dev.rack.getD 0 * 2 ^ 16 + s.host.rate * 2 ^ 8 + s.host.width

/-- A reading as a byte; 0x80 for a sensor not read yet (R516). -/
def tempByte (t : Option Int) : Nat := match t with | some v => toCode 8 v | none => 0x80

/-- The highest reading (R516); 0x80 while no sensor has been read. -/
def State.tempTop (s : State) : Nat :=
  match s.dev.temps.filterMap id with
  | [] => 0x80
  | t :: r => toCode 8 (r.foldl max t)

/-- A word of an entry of the MSI-X table: address, data, vector control with the mask bit (R514, R518; the layout of an entry
PRESUMED from PCIe; assumption 29). -/
def HostLink.msixWord (h : HostLink) (v j : Nat) : Nat :=
  let e : BitVec 64 × Word := tget (0, 0) h.table v
  match j with
  | 0 => e.1.toNat % 2 ^ 32
  | 1 => e.1.toNat / 2 ^ 32
  | 2 => e.2.toNat
  | _ => b2n (tget true h.masks v)

/-- A word of the device page (R514). -/
def State.devWord (s : State) (off : Nat) : Nat :=
  let t (i : Nat) : Nat := tempByte (tget none s.dev.temps i)
  if off = 0 then s.devstat0
  else if off = 4 then s.devstat1
  else if off = 0x10 then t 0 + t 1 * 2 ^ 8 + t 2 * 2 ^ 16 + t 3 * 2 ^ 24
  else if off = 0x14 then t 4 + t 5 * 2 ^ 8 + t 6 * 2 ^ 16 + t 7 * 2 ^ 24
  else if off = 0x18 then t 8 + s.tempTop * 2 ^ 8
  else if off = 0x20 then s.dev.dfCount + s.dev.trips * 2 ^ 16
  else if off = 0x24 then s.dev.lastDf
  else if 0x40 ≤ off ∧ off < 0x60 then (s.part ((off - 0x40) / 4)).fourFields
  else if 0x1000 ≤ off ∧ off < 0x1180 then (s.clu ((off - 0x1000) / 4)).suspect
  else if 0x1200 ≤ off ∧ off < 0x1800 then (s.clu ((off - 0x1200) / 16)).drillWord (off % 16 / 4)
  else if 0x1800 ≤ off ∧ off < 0x1980 then (s.clu ((off - 0x1800) / 4)).spce
  else if 0x1A00 ≤ off ∧ off < 0x1B80 then (s.clu ((off - 0x1A00) / 4)).refetch
  else if 0x1C00 ≤ off ∧ off < 0x1C40 then
    let c := s.court ((off - 0x1C00) / 8)
    if off % 8 = 0 then c.ccce else c.ccue
  else if 0x1C40 ≤ off ∧ off < 0x1D40 then
    let m := s.chan ((off - 0x1C40) / 16)
    match off % 16 / 4 with
    | 0 => m.ce | 1 => m.due | 2 => m.pue | _ => m.table.length + b2n m.ovf * 2 ^ 31
  else if 0x1D40 ≤ off ∧ off < 0x1DC0 then
    let x := s.port ((off - 0x1D40) / 16)
    match off % 16 / 4 with | 0 => x.crc | 1 => x.replays | 2 => x.drops | _ => 0
  else if 0x1DC0 ≤ off ∧ off < 0x1DE4 then (s.ideSlot ((off - 0x1DC0) / 4)).fails
  else if 0x8000 ≤ off ∧ off < 0x8200 then s.host.msixWord ((off - 0x8000) / 16) (off % 16 / 4)
  else if off = 0x9000 then
    (s.host.pend.zipIdx.map fun b => b2n b.1 * 2 ^ b.2).foldl (· + ·) 0
  else 0

/-! ## Pages 11 and 12 and the configuration space (R346, R348, R471, R504) -/

/-- The code of a number of interleave ways in an HDM decoder (PRESUMED from CXL 3.1; assumption 29). -/
def waysCode (n : Nat) : Nat :=
  match n with
  | 1 => 0 | 2 => 1 | 4 => 2 | 8 => 3 | 16 => 4 | 3 => 8 | 6 => 9 | 12 => 10 | _ => 15

/-- A word of the CXL component registers (page 11): the capability array at 0x1000 with the HDM decoder, the IDE and the BI
decoder capability, and the HDM decoder's and BI decoder's registers; the HDM decoder is enabled while it is committed, and
not at ready (R477; layout PRESUMED from CXL 3.1; assumption 29). -/
def State.compWord (s : State) (off : Nat) : Nat :=
  let h := s.host
  let (base, size, ways) := h.hdmSet
  let hdr (id ptr : Nat) : Nat := id + 2 ^ 16 + ptr * 2 ^ 20
  match off with
  | 0x1000 => 1 + 2 ^ 16 + 2 ^ 20 + 3 * 2 ^ 24
  | 0x1004 => hdr 5 0x100
  | 0x1008 => hdr 7 0x200
  | 0x100C => hdr 12 0x300
  | 0x1104 => 2 * b2n h.hdm.isSome
  | 0x1110 => base % 2 ^ 32 / 2 ^ 28 * 2 ^ 28
  | 0x1114 => base / 2 ^ 32 % 2 ^ 32
  | 0x1118 => size % 2 ^ 32 / 2 ^ 28 * 2 ^ 28
  | 0x111C => size / 2 ^ 32 % 2 ^ 32
  | 0x1120 => waysCode ways * 2 ^ 4 + b2n (h.hdm.isSome || h.hdmErr) * 2 ^ 9 + b2n h.hdm.isSome * 2 ^ 10 +
      b2n h.hdmErr * 2 ^ 11 + b2n h.biEn * 2 ^ 13
  | 0x1200 => 1
  | 0x1304 => 2 * b2n h.biEn
  | _ => 0

/-- A word of the CXL memory device registers (page 12): the capability array with device status, mailbox and memory device
status, and the mailbox with its last command, return code and payload, ready while commands are served (layout and versions
PRESUMED from CXL 3.1; assumption 29). -/
def State.memDevWord (s : State) (off : Nat) : Nat :=
  let (op, code, b) := s.host.mbox.getD (0, 0, [])
  match off with
  | 0x00 => 2 ^ 16 + 2 ^ 24
  | 0x04 => 3
  | 0x10 => 1 + 2 * 2 ^ 16
  | 0x14 => 0x100
  | 0x18 => 8
  | 0x20 => 2 + 2 ^ 16
  | 0x24 => 0x200
  | 0x28 => 0x820
  | 0x30 => 0x4000 + 2 ^ 16
  | 0x34 => 0xC00
  | 0x38 => 8
  | 0x200 => 11
  | 0x208 => op % 2 ^ 16 + b.length % 2 ^ 16 * 2 ^ 16
  | 0x20C => b.length / 2 ^ 16 % 2 ^ 5
  | 0x214 => code % 2 ^ 16
  | 0xC00 => 4 * b2n s.dev.memInfo + 2 ^ 4 * b2n (s.host.dlUp && s.host.cxl)
  | _ => if 0x220 ≤ off ∧ off < 0xA20 then leNat ((b.drop (off - 0x220)).take 4) else 0

/-- The CXL DVSEC's memory bits: Memory_Info_Valid, Memory_Active, Memory_Active_Timeout in seconds (R471). -/
def State.memoryStatus (s : State) : Bool × Bool × Nat := (s.dev.memInfo, s.dev.memAct, 4)

/-- BAR0: its size, 64-bit, prefetchable (R504). -/
def bar0Form : Nat × Bool × Bool := (2 ^ 20, true, false)

/-- BAR4's size: 32 GiB in the fallback, absent in CXL mode (R355, R520). -/
def State.bar4Size (s : State) : Nat := if s.host.cxl then 0 else 2 ^ 35

/-- BAR4's type: 64-bit, prefetchable (R520). -/
def bar4Type : Bool × Bool := (true, true)

/-- The MSI-X capability: the entries of the table less 1, the Table Offset and the PBA Offset, each with its BAR (R518). -/
def msixCapability : Nat × (Nat × Nat) × (Nat × Nat) := (31, (0, 0x98000), (0, 0x99000))

/-- A word of the AER capability: header, uncorrectable error status, mask and severity, correctable error status and mask,
first error pointer (R346; layout and the registers that no command writes PRESUMED from PCIe 6.0; assumption 29). -/
def State.aerWord (s : State) (off : Nat) : Nat :=
  match off with
  | 0x00 => 1 + 2 ^ 17
  | 0x04 => s.host.aerUnc.toNat
  | 0x08 => 2 ^ 22
  | 0x0C => 0x462030
  | 0x10 => 0
  | 0x14 => 0xE000
  | 0x18 => if s.host.aerUnc = 0 then 0 else s.host.aerPtr
  | _ => 0

/-- The register blocks that the Register Locator DVSEC names: their kind (1 component registers, 3 memory device registers:
PRESUMED from CXL 3.1; assumption 29), BAR and offset (R504). -/
def registerLocator : List (Nat × Nat × Nat) := [(1, 0, 0xB0000), (3, 0, 0xC0000)]

/-- The data object protocols that DOE Discovery answers for an index, with the next index: vendor and protocol number of
Discovery, CMA/SPDM and secured CMA/SPDM, over which IDE_KM is carried (R346, R428; numbers PRESUMED from PCIe 6.0;
assumption 29). -/
def doeDiscovery (index : Nat) : Option (Nat × Nat × Nat) :=
  if index < 3 then some (1, index, (index + 1) % 3) else none

/-- The features of R346: whether each is implemented. -/
def hostFeatures : List (String × Bool) :=
  [("CXL.io", true), ("CXL.mem", true), ("CXL.cache", false), ("HDM-DB", true), ("mailbox", true), ("poison", true),
   ("viral", true), ("selective IDE", true), ("link IDE", false), ("DOE", true), ("MSI-X", true), ("MSI", false),
   ("INTx", false)] ++
  [("ATS", false), ("PRI", false), ("PASID", false), ("AER", true), ("dynamic capacity", false), ("memory pooling", false),
   ("memory sharing", false), ("Global Persistent Flush", false), ("CXL Reset", false)]

/-! ## BAR0 as a whole (R504, R505) -/

/-- What an aligned 32-bit word of BAR0 holds for a request on a stream, CMDIN and REPLYOUT apart (R504). -/
def State.bar0Word (s : State) (sid : Sid) (off : Nat) : Nat :=
  let page := off / 65536
  if page ≤ 8 then s.pageWord page sid (off % 65536)
  else if page = 9 then s.devWord (off % 65536)
  else if page = 11 ∧ s.host.cxl then s.compWord (off % 65536)
  else if page = 12 ∧ s.host.cxl then s.memDevWord (off % 65536)
  else 0

/-- The form of a register read: whole words, up to 64 bytes that do not cross a 64-byte boundary; smaller and unaligned reads
are of another form (R505, 19_registers.md:315). Pages 11 and 12 take any bytes of one such line, as CXL has it (assumption
29, PRESUMED). -/
def barForm (off n : Nat) : Bool :=
  decide (1 ≤ n) && decide (n ≤ 64) && decide (off % 64 + n ≤ 64) &&
  (off / 65536 == 11 || off / 65536 == 12 || (off % 4 == 0 && n % 4 == 0))

/-- What a read of `n` bytes at an offset of BAR0 returns, from one instant, REPLYOUT apart; zeros for another form (R505). -/
def State.bar0Read (s : State) (sid : Sid) (off n : Nat) : List Byte :=
  if barForm off n then
    (List.range n).map fun i => byteOf (s.bar0Word sid ((off + i) / 4 * 4) / 2 ^ (8 * ((off + i) % 4)))
  else List.replicate n 0

/-! ## The board's SMBus registers and header outputs (R487, R490, R497, R498) -/

/-- BOARDSTAT. -/
def State.boardstat (s : State) : Nat :=
  let b := s.board
  b2n b.standby + 2 * b2n b.inRange + 4 * b2n b.railsGood + 8 * b2n s.dev.ready + 16 * b2n s.dev.dfault.isSome +
  32 * b2n b.railFlt.isSome + 64 * (match b.railFlt with | some r => r | none => 0) + 512 * b2n b.tripSeen

/-- CAGES. -/
def State.cagesWord (s : State) : Nat :=
  (s.board.cages.zipIdx.map fun c => b2n c.1.present * 2 ^ c.2 + b2n c.1.tripped * 2 ^ (8 + c.2)).foldl (· + ·) 0

/-- TJMAX; what it shows before the sensors are first read is not stated. -/
def State.tjmax (s : State) : Nat :=
  if !s.board.railsGood then 0x7FFF
  else match s.dev.temps.filterMap id with
    | [] => 0x7FFF
    | t :: r => toCode 16 (r.foldl max t)

/-- VIN in units of 10 mV, free within 1 % of the input (R498; assumption 28, DESIGN CHOICE). -/
def State.vin (s : State) : Nat :=
  let mv := s.board.mv
  max (ceilDiv (mv * 99) 1000) (min (mv * 101 / 1000) (Config.meter s.free 0))

/-- IIN in units of 10 mA and TIN in units of 0.5 °C, which are free (R498; assumption 28, DESIGN CHOICE). -/
def State.iin (s : State) : Nat := Config.meter s.free 1 % 2 ^ 16
def State.tin (s : State) : Nat := Config.meter s.free 3 % 2 ^ 16

/-- PIN in units of 0.1 W: the product of VIN and IIN, rounded to nearest (R498). -/
def State.pin (s : State) : Nat := (s.vin * s.iin + 500) / 1000 % 2 ^ 16

/-- The bytes of the SMBus register of a command code, none for an unlisted or a write-only one (R498). -/
def State.smbusReg (s : State) (code : Nat) : List Byte :=
  match code with
  | 0x00 => asc "EMX-VB96"
  | 0x01 => [0x02]
  | 0x02 => leBytes 2 s.boardstat
  | 0x03 => leBytes 2 s.cagesWord
  | 0x10 => leBytes 2 s.vin
  | 0x11 => leBytes 2 s.iin
  | 0x12 => leBytes 2 s.pin
  | 0x13 => leBytes 2 s.tin
  | 0x14 => leBytes 2 s.tjmax
  | _ => []

/-- A read over SMBus at a 7-bit address, of the n bytes of its protocol, 1 for a byte, 2 for a word, 8 for ID: the register's
bytes, 0x00 beyond them, and with `pec` the PEC of the whole transfer. Nothing answers at another address than 0x5A or without
standby power (R487, R498). -/
def State.smbusRead (s : State) (addr code n : Nat) (pec : Bool := false) : Option (List Byte) :=
  if !s.board.standby || addr != smbAddr then none
  else
    let b := (s.smbusReg code ++ List.replicate n 0).take n
    some (b ++ if pec then [smbPec ([byteOf (2 * smbAddr), byteOf code, byteOf (2 * smbAddr + 1)] ++ b)] else [])

/-- SMB_ALERT_N, open drain: pulled low while a bit of BOARDSTAT's alert set is 1 (R498). -/
def State.alertN (s : State) : Bool :=
  !s.board.standby || (s.dev.dfault.isNone && s.board.railFlt.isNone && !s.board.tripSeen)

end Sys2Proof.Machine
end

