-- ==== Sys2Proof/Machine/VectorOps.lean ====
section
/-! DEFINITION. The vector engine: CHAIN, CONST and VMOV (R206 to R212). -/

namespace Sys2Proof.Machine

/-! ## Registers and streams (R70, R71, R197) -/

/-- The content of a lane that holds a code: INT8 is sign-extended to 16 bits (R71). -/
def laneOf (f : Fmt) (c : Nat) : Nat := if f = .int8 then toCode 16 (signed 8 c) else c

/-- Byte of lane i of register r (R70). -/
def laneAt (wide : Bool) (r i : Nat) : Nat := 1024 * r + (if wide then 4 * i else 2 * i)

/-- A lane of a register file. -/
def readLane (vr : Mem) (wide : Bool) (r i : Nat) : Nat :=
  leNat ((List.range (if wide then 4 else 2)).map fun k => spGet 0 vr (laneAt wide r i + k))

/-- Lanes 0 to n − 1 of a register written. -/
def writeLanes (vr : Mem) (wide : Bool) (r : Nat) (vals : List Nat) : Mem :=
  vals.zipIdx.foldl (fun m v =>
    (cellsAt (laneAt wide r v.2) (leBytes (if wide then 4 else 2) v.1)).foldl (fun m c => spSet 0 m c.1 c.2) m) vr

/-- Where a stream or the destination of a CHAIN, or the range of a VMOV, starts in the scratchpad (R195, R199). -/
def LW.regionAt (w : LW) (k line : Nat) : Nat := ((w.decl k).map (·.first * 4096)).getD 0 + 64 * line

/-- A run of elements in the scratchpad as an operand. -/
def runArg (base fmt n : Nat) : Arg :=
  { d := { rclus := 0, space := 1, base := base, shard := noShard, u1 := 0, u0 := 0, t1 := 0, t0 := 0, rank := 1, layout := 0,
           fmt := fmt, d := [n, 0, 0, 0, 0], s := [0, 0, 0, 0, 0], sbase := 0, zeros := true },
    eb := base, o := ⟨0, 31, 1, false, false, 10⟩ }

/-- An operation on registers and regions, with the sources it reads in the own scratchpad. -/
def withRegions (s : State) (g : Nat) (op : Op) (obs : HwObs) (srcs dsts : LW → List Arg)
    (f : Head → State → State) : State :=
  withHead s g 1 op fun h =>
    let s := s.spSeen [g] obs
    match readErr s h g 1 obs ((srcs h.lw).map Arg.whole) with
    | some e => s.latch h.p e
    | none =>
      match destErr s h g 1 obs (dsts h.lw) with
      | some e => s.latch h.p e
      | none =>
        let u := s.suspect h.p g obs.suspect
        (f h u).remember u h.p g 1 ((dsts h.lw).map Arg.full)

/-! ## CHAIN (R206, R207, R209) -/

/-- The stream operands that a CHAIN reads. -/
def chainSrcs (w : LW) : List Arg :=
  (if w.readsStream 0x20 then [runArg (w.regionAt 10 (w.f 1 31 23)) (w.f 0 31 28) (w.f 0 19 0)] else []) ++
  (if w.readsStream 0x21 then [runArg (w.regionAt 11 (w.f 1 22 14)) (w.f 0 27 24) (w.f 0 19 0)] else [])

/-- The destination that a CHAIN writes. -/
def chainDsts (w : LW) : List Arg :=
  if w.has 12 then [runArg (w.regionAt 12 (w.f 1 13 5)) (w.f 0 23 20) (w.f 0 19 0)] else []

/-- R206: the pass width. -/
def chainWidth (w : LW) : Nat :=
  let wide (c : Nat) : Bool := ((Fmt.ofCode c).map Fmt.wide).getD false
  let ops := w.uops.filter fun q => q.u != 0x3F
  if (w.readsStream 0x20 && wide (w.f 0 31 28)) || (w.readsStream 0x21 && wide (w.f 0 27 24)) ||
     (w.has 12 && wide (w.f 0 23 20)) || ops.any (fun q => wide q.fmt || (q.u == 0x20 && wide (q.b % 16))) then 256 else 512

/-- Elements j × W to j × W + n − 1 of a stream. -/
def streamEls (sp : Mem) (a : Arg) (first n : Nat) : List Nat :=
  let b := a.d.bw
  (List.range n).map fun i => leNat ((List.range b).map fun k => spGet 0 sp (a.eb + (first + i) * b + k))

/-- What a pass carries from one micro-operation to the next: the state (for its draws), the context, the registers written
so far with their formats and lanes (newest first), the counts of each lane. -/
structure PassSt where
  s    : State
  x    : ACtx
  wr   : List (Nat × Fmt × List Nat)
  cnts : List Cnt

/-- The lane i of a selector as it stands in the pass: a register written earlier in it, or as held before it, or a stream
element (R197, R207). -/
def PassSt.lane (c : PassSt) (vr : Mem) (av bv : List Nat) (sel i : Nat) (wide : Bool) : Nat :=
  if sel = 0x20 then tget 0 av i
  else if sel = 0x21 then tget 0 bv i
  else match c.wr.find? fun e => e.1 == sel with
    | some e => tget 0 e.2.2 i
    | none => readLane vr wide sel i

/-- One micro-operation of a pass over its n active lanes (R207, R210). -/
def microStep (h : Head) (g w n : Nat) (vr : Mem) (av bv : List Nat) (c : PassSt) (q : Uop) : PassSt :=
  if q.u = 0x3F then { c with x := applyNco c.x (bits q.raw 23 16) }
  else match Fmt.ofCode q.fmt with
    | none => c
    | some f =>
      let sf := if q.u = 0x20 then q.src.getD f else f
      let (ds, s) := c.s.draws h.p g 1 w n (c.x.eff.round == .rsto && uopDraws q.u f sf)
      let val (sel : Nat) (k : Fmt) (i : Nat) : Nat := c.lane vr av bv sel i k.wide % 2 ^ k.width
      let res := (List.range n).map fun i =>
        microOp c.x q.u f sf (if q.u = 0x0A then c.lane vr av bv q.a i f.wide else val q.a sf i) (val q.b f i) (val q.c f i)
          (tget 0 ds i)
      let o := uopOut q.u f
      { s := s, x := c.x, wr := (q.dst, o, res.map fun r => laneOf o r.code) :: c.wr,
        cnts := (c.cnts.zip res).map fun p => p.1.or p.2.cnt }

/-- Pass j of a CHAIN (R206, R207). -/
def chainPass (h : Head) (g w : Nat) (s : State) (j : Nat) : State :=
  let lw := h.lw
  let n := min w (lw.f 0 19 0 - j * w)
  let k := s.clu g
  let els (sel fmt base : Nat) : List Nat :=
    if lw.readsStream sel then streamEls k.sp (runArg base fmt 0) (j * w) n else []
  let av := els 0x20 (lw.f 0 31 28) (lw.regionAt 10 (lw.f 1 31 23))
  let bv := els 0x21 (lw.f 0 27 24) (lw.regionAt 11 (lw.f 1 22 14))
  let c := lw.uops.foldl (microStep h g w n k.vr av bv)
    { s := s, x := h.run.actx, wr := [], cnts := List.replicate n {} }
  let s := c.s.updClu g fun k => { k with vr := c.wr.reverse.foldl (fun m e => writeLanes m e.2.1.wide e.1 e.2.2) k.vr }
  match (if lw.has 12 then Fmt.ofCode (lw.f 0 23 20) else none) with
  | none => s.count g lw.tally c.cnts
  | some fd =>
    let out := lw.f 1 4 0
    let sf := ((c.wr.find? fun e => e.1 == out).map (·.2.1)).getD fd
    let (ds, s) := s.draws h.p g 1 w n (c.x.eff.round == .rsto && convDraws sf fd)
    let res := (List.range n).map fun i =>
      convert c.x sf fd (c.lane k.vr av bv out i sf.wide % 2 ^ sf.width) (tget 0 ds i)
    let at0 := lw.regionAt 12 (lw.f 1 13 5)
    let cells := res.zipIdx.flatMap fun r => cellsAt (at0 + (j * w + r.2) * fd.bytes) (leBytes fd.bytes r.1.code)
    (s.updClu g fun k => { k with sp := cells.foldl (fun m c => spSet 0 m c.1 c.2) k.sp }).count g lw.tally
      ((c.cnts.zip res).map fun p => p.1.or p.2.cnt)

/-- R206, R207: every pass of a CHAIN, then its issue. -/
def chainBody (g : Nat) (h : Head) (s : State) : State :=
  let w := chainWidth h.lw
  issueCommon ((List.range (ceilDiv (h.lw.f 0 19 0) w)).foldl (chainPass h g w) s) h g 1 .nothing

/-- R206 to R210: CHAIN. -/
def execChain (g : Clu) (obs : HwObs) (s : State) : Out := .next (withRegions s g .chain obs chainSrcs chainDsts (chainBody g))

/-! ## CONST and VMOV (R212) -/

/-- The code a CONST writes. -/
def constCode (t : StreamSt) (w : LW) (f : Fmt) : Nat :=
  (if w.b 0 22 then (tget 0 t.a (w.f 0 21 18)).toNat else tget 0 w.slots 1) % 2 ^ f.width

/-- A code in every lane of a register. -/
def fillReg (vr : Mem) (f : Fmt) (r c : Nat) : Mem :=
  writeLanes vr f.wide r (List.replicate (if f.wide then 256 else 512) (laneOf f c))

/-- R212: what CONST does. -/
def constBody (g : Nat) (h : Head) (s : State) : State :=
  match Fmt.ofCode (h.lw.f 0 26 23) with
  | some f =>
    issueCommon (s.updClu g fun k => { k with vr := fillReg k.vr f (h.lw.f 0 31 27) (constCode (k.str 1) h.lw f) }) h g 1 .nothing
  | none => s

/-- R212: CONST. -/
def execConst (g : Clu) (obs : HwObs) (s : State) : Out := .next (withRegions s g .const obs (fun _ => []) (fun _ => []) (constBody g))

/-- The element that a broadcasting VMOV reads. -/
def vmovEl (w : LW) : Arg :=
  let fmt := w.f 0 24 21
  runArg (w.regionAt 10 (w.f 0 20 11) + w.f 0 10 0 * ((Fmt.ofCode fmt).map Fmt.bytes).getD 0) fmt 1

/-- The scratchpad a VMOV reads: 16 lines, or one element. -/
def vmovSrcs (w : LW) : List Arg :=
  match w.f 0 31 30 with
  | 0 => [runArg (w.regionAt 10 (w.f 0 20 11)) 10 1024]
  | 1 => []
  | _ => [vmovEl w]

/-- The scratchpad a VMOV writes: 16 lines. -/
def vmovDsts (w : LW) : List Arg := if w.f 0 31 30 = 1 then [runArg (w.regionAt 12 (w.f 0 20 11)) 10 1024] else []

/-- Bytes copied from one sparse memory to another. -/
def copyBytes (src dst : Mem) (a b n : Nat) : Mem :=
  (List.range n).foldl (fun m k => spSet 0 m (b + k) (spGet 0 src (a + k))) dst

/-- R212: what VMOV does. -/
def vmovBody (g : Nat) (h : Head) (s : State) : State :=
  let w := h.lw
  let r := w.f 0 29 25
  let line := w.f 0 20 11
  issueCommon (s.updClu g fun k =>
    match w.f 0 31 30 with
    | 0 => { k with vr := copyBytes k.sp k.vr (w.regionAt 10 line) (1024 * r) 1024 }
    | 1 => { k with sp := copyBytes k.vr k.sp (1024 * r) (w.regionAt 12 line) 1024 }
    | _ =>
      match Fmt.ofCode (w.f 0 24 21) with
      | some f => { k with vr := fillReg k.vr f r ((streamEls k.sp (vmovEl w) 0 1).headD 0) }
      | none => k) h g 1 .nothing

/-- R212: VMOV. -/
def execVmov (g : Clu) (obs : HwObs) (s : State) : Out := .next (withRegions s g .vmov obs vmovSrcs vmovDsts (vmovBody g))

end Sys2Proof.Machine
end

