-- ==== Sys2Proof/Machine/Dispatch.lean ====
section
/-! DEFINITION. The effect of every command: one arm for every constructor, each a call of one meaning. -/

namespace Sys2Proof.Machine

def exec (i : Instr) (s : State) : Host.Outcome State Fault Refusal :=
  match i with
  | .hello l baud => Sys2Proof.Machine.execHello l baud s
  | .uartBaudSwitch => Sys2Proof.Machine.execUartBaudSwitch s
  | .part l p courts il e => Sys2Proof.Machine.execPart l p courts il s e
  | .free l p e => Sys2Proof.Machine.execFree l p s e
  | .freeDone p => Sys2Proof.Machine.execFreeDone p s
  | .clock l p mhz => Sys2Proof.Machine.execClock l p mhz s
  | .relockDone p => Sys2Proof.Machine.execRelockDone p s
  | .linkReport l x => Sys2Proof.Machine.execLinkReport l x s
  | .linkOpUp l x => Sys2Proof.Machine.execLinkOpUp l x s
  | .linkOpDown l x => Sys2Proof.Machine.execLinkOpDown l x s
  | .linkOpRetrain l x => Sys2Proof.Machine.execLinkOpRetrain l x s
  | .linkRack l n => Sys2Proof.Machine.execLinkRack l n s
  | .route l p dst x => Sys2Proof.Machine.execRoute l p dst x s
  | .group l p id members rto => Sys2Proof.Machine.execGroup l p id members rto s
  | .attest l nonce => Sys2Proof.Machine.execAttest l nonce s
  | .attestReportDone => Sys2Proof.Machine.execAttestReportDone s
  | .session l p pub => Sys2Proof.Machine.execSession l p pub s
  | .fwStat l => Sys2Proof.Machine.execFwStat l s
  | .fwWrite l src len => Sys2Proof.Machine.execFwWrite l src len s
  | .statDevice l => Sys2Proof.Machine.execStatDevice l s
  | .statParts l => Sys2Proof.Machine.execStatParts l s
  | .statCourts l => Sys2Proof.Machine.execStatCourts l s
  | .statDeviceCounters l => Sys2Proof.Machine.execStatDeviceCounters l s
  | .temp l => Sys2Proof.Machine.execTemp l s
  | .echo l on => Sys2Proof.Machine.execEcho l on s
  | .drillCourts l courts => Sys2Proof.Machine.execDrillCourts l courts s
  | .drillPassDone w => Sys2Proof.Machine.execDrillPassDone w s
  | .resetCommand l => Sys2Proof.Machine.execResetCommand l s
  | .resetCommandFire => Sys2Proof.Machine.execResetCommandFire s
  | .load l p b src len => Sys2Proof.Machine.execLoad l p b src len s
  | .loadDone p obs => Sys2Proof.Machine.execLoadDone p obs s
  | .swap l p => Sys2Proof.Machine.execSwap l p s
  | .go l p img args dl nc done => Sys2Proof.Machine.execGo l p img args dl nc done s
  | .wait l p => Sys2Proof.Machine.execWait l p s
  | .sig l p => Sys2Proof.Machine.execSig l p s
  | .halt l p => Sys2Proof.Machine.execHalt l p s
  | .abort l p => Sys2Proof.Machine.execAbort l p s
  | .set l p nc dl => Sys2Proof.Machine.execSet l p nc dl s
  | .shard l p idx g pp c dev => Sys2Proof.Machine.execShard l p idx g pp c dev s
  | .shardDrop l p idx => Sys2Proof.Machine.execShardDrop l p idx s
  | .commit l p => Sys2Proof.Machine.execCommit l p s
  | .rallySetApply p => Sys2Proof.Machine.execRallySetApply p s
  | .statPartition l p => Sys2Proof.Machine.execStatPartition l p s
  | .statSlots l p => Sys2Proof.Machine.execStatSlots l p s
  | .statKeys l p => Sys2Proof.Machine.execStatKeys l p s
  | .statPartCounters l p => Sys2Proof.Machine.execStatPartCounters l p s
  | .statShard l p idx => Sys2Proof.Machine.execStatShard l p idx s
  | .statPoison l p => Sys2Proof.Machine.execStatPoison l p s
  | .tally l p set => Sys2Proof.Machine.execTally l p set s
  | .key l p slot wrap => Sys2Proof.Machine.execKey l p slot wrap s
  | .unkey l p slot => Sys2Proof.Machine.execUnkey l p slot s
  | .move l p out pa host len key => Sys2Proof.Machine.execMove l p out pa host len key s
  | .fill l p pa len val => Sys2Proof.Machine.execFill l p pa len val s
  | .moverJobEnd p id obs => Sys2Proof.Machine.execMoverJobEnd p id obs s
  | .sealChunk p id obs k => Sys2Proof.Machine.execSealChunk p id obs s k
  | .unsealChunk p id k => Sys2Proof.Machine.execUnsealChunk p id s k
  | .breakCount l p cl st n => Sys2Proof.Machine.execBreakCount l p cl st n s
  | .breakTag l p tag => Sys2Proof.Machine.execBreakTag l p tag s
  | .breakDrop l p => Sys2Proof.Machine.execBreakDrop l p s
  | .breakStopped p => Sys2Proof.Machine.execBreakStopped p s
  | .step l p cl st m => Sys2Proof.Machine.execStep l p cl st m s
  | .cont l p => Sys2Proof.Machine.execCont l p s
  | .peek l p cl what st reg addr len => Sys2Proof.Machine.execPeek l p cl what st reg addr len s
  | .poke l p cl what st reg addr val data => Sys2Proof.Machine.execPoke l p cl what st reg addr val data s
  | .drillPartition l p => Sys2Proof.Machine.execDrillPartition l p s
  | .lock l p proof => Sys2Proof.Machine.execLock l p proof s
  | .lineParse w e => Sys2Proof.Machine.execLineParse w s e
  | .parserResume w e => Sys2Proof.Machine.execParserResume w s e
  | .evLost w => Sys2Proof.Machine.execEvLost w s
  | .cmdinWrite w sid data off => Sys2Proof.Machine.execCmdinWrite w sid data s off
  | .replyoutRead w sid off n => Sys2Proof.Machine.execReplyoutRead w sid off n s
  | .winctlWrite w sid v => Sys2Proof.Machine.execWinctlWrite w sid v s
  | .ringbaseWrite p sid lo hi => Sys2Proof.Machine.execRingbaseWrite p sid lo hi s
  | .ringsizeWrite p sid v => Sys2Proof.Machine.execRingsizeWrite p sid v s
  | .ringEnable p sid cie => Sys2Proof.Machine.execRingEnable p sid cie s
  | .ringDisable p sid cie => Sys2Proof.Machine.execRingDisable p sid cie s
  | .ringCieWrite p sid cie => Sys2Proof.Machine.execRingCieWrite p sid cie s
  | .ringconsWrite p sid v => Sys2Proof.Machine.execRingconsWrite p sid v s
  | .registerWriteIgnored off data => Sys2Proof.Machine.execRegisterWriteIgnored off data s
  | .ringEntryWrite p obs => Sys2Proof.Machine.execRingEntryWrite p s obs
  | .msixUnmask v en entry mask => Sys2Proof.Machine.execMsixUnmask v en s entry mask
  | .busMasterEnableSet viral aer => Sys2Proof.Machine.execBusMasterEnableSet s viral aer
  | .functionLevelReset => Sys2Proof.Machine.execFunctionLevelReset s
  | .hdmDecoderCommit base size ways bi => Sys2Proof.Machine.execHdmDecoderCommit base size ways bi s
  | .cxlMemRead hpa sid cache obs => Sys2Proof.Machine.execCxlMemRead hpa sid cache obs s
  | .cxlMemWrite hpa sid data enable poison obs => Sys2Proof.Machine.execCxlMemWrite hpa sid data enable poison obs s
  | .birsp da data => Sys2Proof.Machine.execBirsp da data s
  | .bar4Read off n sid obs => Sys2Proof.Machine.execBar4Read off n sid obs s
  | .bar4Write off data sid ep obs holes => Sys2Proof.Machine.execBar4Write off data sid ep obs s holes
  | .ideIntegrityFailure k => Sys2Proof.Machine.execIdeIntegrityFailure k s
  | .ideKmKeyProg sess k set dir sub key => Sys2Proof.Machine.execIdeKmKeyProg sess k set dir sub key s
  | .kSetGo sess k set => Sys2Proof.Machine.execKSetGo sess k set s
  | .kSetStop sess k set => Sys2Proof.Machine.execKSetStop sess k set s
  | .getVersion => Sys2Proof.Machine.execGetVersion s
  | .getCapabilities => Sys2Proof.Machine.execGetCapabilities s
  | .negotiateAlgorithms p384 sha384 gcm => Sys2Proof.Machine.execNegotiateAlgorithms p384 sha384 gcm s
  | .getDigests => Sys2Proof.Machine.execGetDigests s
  | .getCertificate slot off len => Sys2Proof.Machine.execGetCertificate slot off len s
  | .challenge slot nonce => Sys2Proof.Machine.execChallenge slot nonce s
  | .getMeasurements index sign nonce => Sys2Proof.Machine.execGetMeasurements index sign nonce s
  | .keyExchange pub => Sys2Proof.Machine.execKeyExchange pub s
  | .finish sess mac => Sys2Proof.Machine.execFinish sess mac s
  | .heartbeat sess => Sys2Proof.Machine.execHeartbeat sess s
  | .keyUpdate sess => Sys2Proof.Machine.execKeyUpdate sess s
  | .endSession sess => Sys2Proof.Machine.execEndSession sess s
  | .vendorDefinedRequest sess m => Sys2Proof.Machine.execVendorDefinedRequest sess m s
  | .spdmUnsupportedRequest code => Sys2Proof.Machine.execSpdmUnsupportedRequest code s
  | .mailboxCommand opcode => Sys2Proof.Machine.execMailboxCommand opcode s
  | .uartByteReceive b => Sys2Proof.Machine.execUartByteReceive b s
  | .uartLineHandoff => Sys2Proof.Machine.execUartLineHandoff s
  | .launchStart p => Sys2Proof.Machine.execLaunchStart p s
  | .launchEnd p obs => Sys2Proof.Machine.execLaunchEnd p s obs
  | .deadlineExpire p => Sys2Proof.Machine.execDeadlineExpire p s
  | .nop g st => Sys2Proof.Machine.execNop g st s
  | .sync g st => Sys2Proof.Machine.execSync g st s
  | .loop g st => Sys2Proof.Machine.execLoop g st s
  | .br g st => Sys2Proof.Machine.execBr g st s
  | .aop g st => Sys2Proof.Machine.execAop g st s
  | .eop g st => Sys2Proof.Machine.execEop g st s
  | .top g st => Sys2Proof.Machine.execTop g st s
  | .qcmp g st => Sys2Proof.Machine.execQcmp g st s
  | .brk g st => Sys2Proof.Machine.execBrk g st s
  | .fin g st => Sys2Proof.Machine.execFin g st s
  | .ldt g obs => Sys2Proof.Machine.execLdt g obs s
  | .lds g obs => Sys2Proof.Machine.execLds g obs s
  | .ldx g obs => Sys2Proof.Machine.execLdx g obs s
  | .gath g obs => Sys2Proof.Machine.execGath g obs s
  | .chain g obs => Sys2Proof.Machine.execChain g obs s
  | .const g obs => Sys2Proof.Machine.execConst g obs s
  | .vmov g obs => Sys2Proof.Machine.execVmov g obs s
  | .rsum g obs => Sys2Proof.Machine.execRsum g obs s
  | .rmax g obs => Sys2Proof.Machine.execRmax g obs s
  | .rmin g obs => Sys2Proof.Machine.execRmin g obs s
  | .rssq g obs => Sys2Proof.Machine.execRssq g obs s
  | .rdot g obs => Sys2Proof.Machine.execRdot g obs s
  | .argmx g obs => Sys2Proof.Machine.execArgmx g obs s
  | .argmn g obs => Sys2Proof.Machine.execArgmn g obs s
  | .topk g obs => Sys2Proof.Machine.execTopk g obs s
  | .scan g obs => Sys2Proof.Machine.execScan g obs s
  | .xred g obs => Sys2Proof.Machine.execXred g obs s
  | .xredResult p xtag k obs first => Sys2Proof.Machine.execXredResult p xtag k obs s first
  | .rly g obs => Sys2Proof.Machine.execRly g obs s
  | .trn g obs => Sys2Proof.Machine.execTrn g obs s
  | .perm g obs => Sys2Proof.Machine.execPerm g obs s
  | .cpy g obs => Sys2Proof.Machine.execCpy g obs s
  | .bcst g obs => Sys2Proof.Machine.execBcst g obs s
  | .scat g obs => Sys2Proof.Machine.execScat g obs s
  | .gatp g obs => Sys2Proof.Machine.execGatp g obs s
  | .pack g obs => Sys2Proof.Machine.execPack g obs s
  | .unpk g obs => Sys2Proof.Machine.execUnpk g obs s
  | .sort g obs => Sys2Proof.Machine.execSort g obs s
  | .stt g obs => Sys2Proof.Machine.execStt g obs s
  | .stx g obs => Sys2Proof.Machine.execStx g obs s
  | .put g obs => Sys2Proof.Machine.execPut g obs s
  | .done g obs => Sys2Proof.Machine.execDone g obs s
  | .fence g obs => Sys2Proof.Machine.execFence g obs s
  | .longWordComplete g st => Sys2Proof.Machine.execLongWordComplete g st s
  | .signalArrive g t n => Sys2Proof.Machine.execSignalArrive g t n s
  | .remoteRequest g st => Sys2Proof.Machine.execRemoteRequest g st s
  | .remoteGrant g => Sys2Proof.Machine.execRemoteGrant g s
  | .remoteRelease g => Sys2Proof.Machine.execRemoteRelease g s
  | .icacheFill g b line obs => Sys2Proof.Machine.execIcacheFill g b line obs s
  | .icacheParityRefetch g b line again obs => Sys2Proof.Machine.execIcacheParityRefetch g b line again obs s
  | .frameWrite x f obs => Sys2Proof.Machine.execFrameWrite x f obs s
  | .frameReadreq x f => Sys2Proof.Machine.execFrameReadreq x f s
  | .flushTableRelease x => Sys2Proof.Machine.execFlushTableRelease x s
  | .frameReadrsp x f => Sys2Proof.Machine.execFrameReadrsp x f s
  | .frameReduce x f suspect => Sys2Proof.Machine.execFrameReduce x f suspect s
  | .frameHello x f => Sys2Proof.Machine.execFrameHello x f s
  | .frameAbort x f => Sys2Proof.Machine.execFrameAbort x f s
  | .frameIdle x f => Sys2Proof.Machine.execFrameIdle x f s
  | .linkCrcTimeout x => Sys2Proof.Machine.execLinkCrcTimeout x s
  | .linkReplayLimit x => Sys2Proof.Machine.execLinkReplayLimit x s
  | .linkRetryTimer x => Sys2Proof.Machine.execLinkRetryTimer x s
  | .reductionTimeout g st => Sys2Proof.Machine.execReductionTimeout g st s
  | .faultLatch p errs => Sys2Proof.Machine.execFaultLatch p errs s
  | .faultReport p obs => Sys2Proof.Machine.execFaultReport p s obs
  | .partitionReset p scrubError => Sys2Proof.Machine.execPartitionReset p scrubError s
  | .partitionResetEnd p => Sys2Proof.Machine.execPartitionResetEnd p s
  | .reverifyDone p obs => Sys2Proof.Machine.execReverifyDone p obs s
  | .deviceFault cause handler => Sys2Proof.Machine.execDeviceFault cause s handler
  | .thermalSample temps => Sys2Proof.Machine.execThermalSample temps s
  | .patrolRead da obs => Sys2Proof.Machine.execPatrolRead da obs s
  | .drillSchedule c => Sys2Proof.Machine.execDrillSchedule c s
  | .drillKernelEnd g pass obs => Sys2Proof.Machine.execDrillKernelEnd g pass s obs
  | .powerOn mv wiring => Sys2Proof.Machine.execPowerOn mv s wiring
  | .powerOnResetRelease => Sys2Proof.Machine.execPowerOnResetRelease s
  | .powerOff mv hdr => Sys2Proof.Machine.execPowerOff mv s hdr
  | .railFault rail => Sys2Proof.Machine.execRailFault rail s
  | .restart v pec => Sys2Proof.Machine.execRestart v s pec
  | .resetN ns => Sys2Proof.Machine.execResetN ns s
  | .perstN b => Sys2Proof.Machine.execPerstN b s
  | .hotReset => Sys2Proof.Machine.execHotReset s
  | .dlDown refclk => Sys2Proof.Machine.execDlDown s refclk
  | .resetRelease src refclk => Sys2Proof.Machine.execResetRelease src s refclk
  | .bootStageAdvance obs => Sys2Proof.Machine.execBootStageAdvance obs s
  | .hostLinkTraining => Sys2Proof.Machine.execHostLinkTraining s
  | .cageTrip k mw => Sys2Proof.Machine.execCageTrip k mw s
  | .cableChange k copper => Sys2Proof.Machine.execCableChange k copper s
  | .jtagTapActive ir clocks => Sys2Proof.Machine.execJtagTapActive s ir clocks
  | .dlUp width rate cxl => Sys2Proof.Machine.execDlUp width rate cxl s
  | .cmdRtsN asserted => Sys2Proof.Machine.execCmdRtsN asserted s
  | .overvoltageRestart mv => Sys2Proof.Machine.execOvervoltageRestart mv s
  | .hostReadCompletion p id off data err => Sys2Proof.Machine.execHostReadCompletion p id off data s err

end Sys2Proof.Machine
end

