-- ==== Sys2Proof/Safety.lean ====
section
/-! DEFINITION. What counts as a sound state, and the conditions in whose terms statements are made: canonical memories,
numbered items, courts of one partition each; a line that takes effect now, a long word that issues now. -/

namespace Sys2Proof.Machine

/-! ## Invariants -/

/-- The canonical form of a memory: addresses strictly rising, no entry equal to what an unlisted address reads as. -/
def Memory.wf (m : Mem) : Bool := spWf 0 m

/-- Every memory of the state is in its canonical form: device memory with its poison marks, every scratchpad and vector
register file. -/
def State.memOk (s : State) : Bool :=
  Memory.wf s.dram && spWf none s.poison && s.cl.all fun k => Memory.wf k.sp && Memory.wf k.vr

/-- A cluster has its 5 streams, 64 tokens, 8 event counters, 4 timers, 8 comparators, 16 tally sets (R150, R161, R167 to
R171). -/
def Cluster.sized (k : Cluster) : Bool :=
  k.streams.length == 5 && k.tokens.length == 64 && k.e.length == 8 && k.w.length == 4 && k.q.length == 8 &&
  k.tally.length == 16

/-- A partition has its two slots, eight key slots and six words of FFREC (R242, R430, R444). -/
def Partition.sized (q : Partition) : Bool := q.slots.length == 2 && q.keys.length == 8 && q.ffrec.length == 6

/-- Every numbered item of the device exists: windows, partitions, courts, clusters, channels, ports, stream slots (R10,
R266, R353, R374). -/
def State.sized (s : State) : Bool :=
  s.windows.length == 9 && s.parts.length == 8 && s.courts.length == 8 && s.cl.length == 96 && s.chans.length == 16 &&
  s.ports.length == 8 && s.ide.length == 9 && s.cl.all Cluster.sized && s.parts.all Partition.sized

/-- A partition that is not FREE has courts c0 to c7, and a FREE one has none (R30, R408). -/
def Partition.courtsOk (q : Partition) : Bool :=
  (q.courts.isEmpty == (q.stat == .free)) && q.courts.all fun c => decide (c < 8)

/-- No court belongs to two partitions (R30). -/
def State.courtsOk (s : State) : Bool :=
  s.parts.all Partition.courtsOk && (s.parts.flatMap fun q => q.courts).Nodup

/-! ## Conditions of statements -/

/-- A line takes effect now: its window keeps none, nothing stops its parser, the line waits for nothing, the host holds no
line that must be invalidated first (R286 to R288, R351). -/
def State.takes (s : State) (w : Nat) (i : Instr) : Bool :=
  (s.win w).held.isNone && !s.mute && !s.stopped w && !s.waitsFor i && (s.verbSnoop i).isEmpty

/-- The head of a stream is an operation that issues now (R150). -/
def State.issuing (s : State) (g st : Nat) (op : Op) : Option Head :=
  match s.head g st with
  | some h => if h.op = op ∧ ready s h g st then some h else none
  | none => none

/-- No step, stop or break concerns the long word: the launch runs, and no armed break names this issue (R262 to R264). -/
def State.plain (s : State) (h : Head) (g st : Nat) : Bool :=
  h.run.stop == .running && !breakHit (s.part h.p) h.rel st ((s.str g st).issued + 1)

/-- The checks that a long word with these operands passes at its issue, `r` the state after its descriptors are read (R138,
R144, R250, R342, R438). -/
def State.checksOk (s r : State) (h : Head) (g st : Nat) (op : Op) (obs : HwObs) (args : List Arg) : Bool :=
  (lateChecks r h g st args).isNone && !noShardMap op args && (shardFault (r.part h.p) h args).isNone &&
  (s.snooped (r.argLines h g st op args)).isEmpty &&
  (readErr (r.readArgs h g st op obs args) h g st obs (readsOf (r.readArgs h g st op obs args) h.p g op args)).isNone &&
  (destErr (r.readArgs h g st op obs args) h g st obs (destsOf op args)).isNone

/-- An operation whose operands are named by descriptors issues now and passes every check: its head, its operands, the
state after they are read. -/
def State.passes (s : State) (g st : Nat) (op : Op) (obs : HwObs) : Option (Head × List Arg × State) :=
  match s.issuing g st op with
  | none => none
  | some h =>
    if !(s.snooped (s.descLines h g st op.opnds)).isEmpty then none
    else match resolveAll (s.readDescs h g st op obs) h g st op.opnds with
    | .error _ => none
    | .ok args =>
      if s.checksOk (s.readDescs h g st op obs) h g st op obs args then
        some (h, args,
          ((s.readDescs h g st op obs).readArgs h g st op obs args).suspect h.p g (obs.suspect && checkedEngine st))
      else none

/-- An operation on registers and regions issues now and meets no error: its head, the state after its sources are read. -/
def State.passesRegions (s : State) (g : Nat) (op : Op) (obs : HwObs) (srcs dsts : LW → List Arg) : Option (Head × State) :=
  match s.issuing g 1 op with
  | none => none
  | some h =>
    if (readErr (s.spSeen [g] obs) h g 1 obs ((srcs h.lw).map Arg.whole)).isNone &&
       (destErr (s.spSeen [g] obs) h g 1 obs (dsts h.lw)).isNone then
      some (h, (s.spSeen [g] obs).suspect h.p g obs.suspect)
    else none

/-- The byte that a list of writes leaves at an address: that of its last write there. -/
def lastAt (cells : List Host.Cell) (a : Nat) : Option Byte := (cells.reverse.find? fun c => c.1 == a).map (·.2)

/-- Some writes cover every byte of a line. -/
def wholeLine (cells : List Host.Cell) (line : Nat) : Bool :=
  (List.range 64).all fun k => cells.any fun c => c.1 == 64 * line + k

/-- What a write of cells to device memory leaves at an address: the last byte written there, but on a poisoned line only
where the whole line is written (R342). -/
def State.afterWrite (s : State) (cells : List Host.Cell) (a : Nat) : Byte :=
  if (s.cause (a / 64)).isSome && !wholeLine cells (a / 64) then s.rdDa a else (lastAt cells a).getD (s.rdDa a)

/-- The device-memory bytes among the writes of a long word of partition p, by device address. -/
def State.dramCells (s : State) (p : Nat) (ws : List (Arg × List Host.Cell)) : List Host.Cell :=
  ws.flatMap fun w => if w.1.d.space = 0 then w.2.map fun c => ((s.part p).da c.1, c.2) else []

/-- The bytes that the writes of a long word of cluster g put into the scratchpad of cluster c. -/
def State.spCells (s : State) (p g c : Nat) (ws : List (Arg × List Host.Cell)) : List Host.Cell :=
  ws.flatMap fun w => if w.1.d.space ≠ 0 ∧ w.1.owner (s.part p) g = c then w.2 else []

/-- What the long words in flight of a partition have written, as a fault may undo it (R446, assumption 8). -/
def State.inFlight (s : State) (p : Nat) : List OldByte :=
  (s.undo.filter fun e => (s.part p).clusters.contains e.g).flatMap (·.bytes)

/-- The memories of `t` are those of `u`, but that bytes and marks of some long words in flight may be as they were before
them: lines already written stay, lines not yet written are never written (R446). -/
def State.Abandoned (t u : State) (os : List OldByte) : Prop :=
  (∀ a, t.rdDa a = u.rdDa a ∨ ∃ o ∈ os, o.clu = none ∧ o.adr = a ∧ t.rdDa a = o.old) ∧
  (∀ l, t.cause l = u.cause l ∨ (u.cause l = none ∧ ∃ o ∈ os, o.clu = none ∧ o.adr / 64 = l ∧ t.cause l = o.mark)) ∧
  (∀ c a, spGet 0 (t.clu c).sp a = spGet 0 (u.clu c).sp a ∨
    ∃ o ∈ os, o.clu = some c ∧ o.adr = a ∧ spGet 0 (t.clu c).sp a = o.old) ∧
  ∀ c, (t.clu c).vr = (u.clu c).vr

/-- The memories of `t` are those of `u` after some writes of a long word, and nothing else: every byte of device memory and
of every scratchpad, every poison mark, every vector register. -/
def State.Wrote (t u : State) (p g : Nat) (ws : List (Arg × List Host.Cell)) : Prop :=
  (∀ a, t.rdDa a = u.afterWrite (u.dramCells p ws) a) ∧
  (∀ l, t.cause l = if wholeLine (u.dramCells p ws) l then none else u.cause l) ∧
  (∀ c < 96, ∀ a, spGet 0 (t.clu c).sp a = (lastAt (u.spCells p g c ws) a).getD (spGet 0 (u.clu c).sp a)) ∧
  ∀ c, (t.clu c).vr = (u.clu c).vr

/-- What the issue of a long word does beside its own effect: it is counted and in flight, the issue events of its
declarations happen, its wait token falls; no other stream, register, counter unit, port, window or partition changes
(R150, R151, R156, R162). -/
def State.Issued (t u : State) (h : Head) (g st : Nat) (waits : Waits) : Prop :=
  (t.str g st).issued = (u.str g st).issued + 1 ∧
  (t.str g st).flight = (u.str g st).flight ++ [h.flight (u.str g st) waits] ∧
  (t.str g st).a = (u.str g st).a ∧ (∀ j, j ≠ st → t.str g j = u.str g j) ∧
  (t.clu g).regions = ((u.clu g).regionIssue (localUses h.op h.lw)).regions ∧
  (t.clu g).tokens = (match h.lw.waitTok with
    | some k => (u.clu g).tokens.modify k (· - 1)
    | none => (u.clu g).tokens) ∧
  (t.clu g).w = (u.clu g).w ∧ (t.clu g).q = (u.clu g).q ∧ (t.clu g).icache = (u.clu g).icache ∧
  (∀ c, c ≠ g → t.clu c = { u.clu c with sp := (t.clu c).sp }) ∧
  t.part h.p = { u.part h.p with run := (t.part h.p).run, breaks := (t.part h.p).breaks } ∧
  (∀ r, r ≠ h.p → t.part r = u.part r) ∧
  { t with
    cl := u.cl, parts := u.parts, dram := u.dram, poison := u.poison, chans := u.chans, free := u.free
    undo := u.undo } = u

end Sys2Proof.Machine
end

