-- ==== Sys2Proof/Certificates/Slice0/Obligations.lean ====
section
/-! DEFINITION. The statements for the provers. A hypothesis `s.takes w i` says that a line takes effect now (R286 to R288);
`s.issuing`, `s.passes` and `s.passesRegions` say that a long word issues now and meets no error (R150). Each statement about a
command concludes that `exec` answers a next state and says which. -/

open Sys2Proof Sys2Proof.Machine

/-! ## The machine as a whole -/

/-- The command at the front of the queue runs on the rest of the queue. On an empty queue what goes on by itself goes on, and
else the block idles (the model's choice, assumptions 1 and 26). The queue itself is the model's (assumption 1). -/
def Obligations.StepRunsTheFrontCommand : Prop :=
  (∀ (c : Instr) (s : State) (rest : List Instr), step { s with pending := c :: rest } = exec c { s with pending := rest }) ∧
  (∀ s : State, s.pending = [] → step s = .next s.tick ∧
    (s.dev.fw = none → (∀ e ∈ s.poison, e.2 ≠ some .held) → step s = .next s))

/-- No command is refused and none ends in a fault: every one answers a next state, and none touches the queue. That a
command whose condition does not hold changes nothing is the model's choice (assumption 1). -/
def Obligations.EveryCommandAnswersAndLeavesTheQueue : Prop :=
  ∀ (c : Instr) (s : State), ∃ t, exec c s = .next t ∧ t.pending = s.pending

/-- The state after reset is sound: canonical memories, every numbered item, courts of one partition each. -/
def Obligations.ResetIsSound : Prop :=
  State.reset.memOk = true ∧ State.reset.sized = true ∧ State.reset.courtsOk = true

/-- Every step keeps every memory, and the poison marks, in canonical form. The canonical form is the model's own. -/
def Obligations.StepKeepsMemoriesCanonical : Prop :=
  ∀ s t : State, s.memOk = true → step s = .next t → t.memOk = true

/-- Every step keeps the number of windows, partitions, courts, clusters, channels, ports, stream slots, and what each
holds. -/
def Obligations.StepKeepsTheNumberedItems : Prop :=
  ∀ s t : State, s.sized = true → step s = .next t → t.sized = true

/-- R30: no step lets a court belong to two partitions, and a partition is FREE exactly while it owns no court. -/
def Obligations.StepKeepsCourtsApart : Prop :=
  ∀ s t : State, s.courtsOk = true → step s = .next t → t.courtsOk = true

/-- R475, R499: no command lowers the minimum security version, its raises count up, and no other fuse ever changes. -/
def Obligations.FusesOnlyRise : Prop :=
  ∀ (c : Instr) (s t : State), exec c s = .next t →
    s.fuses.minSec ≤ t.fuses.minSec ∧ s.fuses.raises ≤ t.fuses.raises ∧ (s.fuses.raises ≤ 63 → t.fuses.raises ≤ 63) ∧
    { t.fuses with minSec := s.fuses.minSec, raises := s.fuses.raises } = s.fuses

/-- R42, R43: the partition address space maps onto distinct bytes of the partition's own courts, with and without
interleave: `paOf` undoes `da`, and every byte lies in a court of the partition. -/
def Obligations.AddressMapIsOneToOne : Prop :=
  ∀ (q : Partition) (pa : Nat), q.courtsOk = true → q.courts.Nodup → pa < q.size →
    q.paOf (q.da pa) = pa ∧ q.courts.contains (q.da pa / courtBytes) = true

/-- R244, R242: no host write reaches image slot memory: every byte of it reads after a CXL.mem write, a BAR4 write or data
of a back-invalidation response as it did before. Readings of host accesses: assumption 23. -/
def Obligations.HostWritesSpareImageSlots : Prop :=
  ∀ (s t : State) (c : Instr) (a : Nat), s.memOk = true → s.courtsOk = true →
    (match c with | .cxlMemWrite _ _ _ _ _ _ | .bar4Write _ _ _ _ _ _ | .birsp _ _ => True | _ => False) →
    exec c s = .next t → s.inSlot a = true → t.rdDa a = s.rdDa a

/-- R352, R353: host accesses to the memory of a court whose partition is locked, or is RESETTING, reach nothing unless they
arrive on that partition's secure stream: CXL.mem and BAR4 reads answer poison and no byte, writes change no byte and are
counted in LOCKDROP, a PCIe write with EP after AER has logged it (R346; bits: assumption 29). R519: while a partition's
window is locked, a request that is not on its own secure stream reads of its page nothing but WINCREDIT and the four fields
of PSTATE0, and its write of a register is discarded. -/
def Obligations.LockedPartitionsAreHidden : Prop :=
  (∀ (s : State) (sid : Sid) (hpa a : Nat) (cache : Bool) (obs : HwObs) (data : List Byte) (en : Nat) (ep : Bool)
     (holes : List Nat) (p : Nat), s.sized = true → s.courtsOk = true → s.host.dlUp = true → s.dev.ready = true →
     s.owner (a / courtBytes) = some p → a < hdmBytes → ((s.part p).stat = .resetting ∨ ((s.part p).locked = true ∧ s.onStream sid p = false)) →
     (s.host.cxl = true → s.decoded hpa = some a → data.length = 64 →
       exec (.cxlMemRead hpa sid cache obs) s = .next (s.send (.data [] true)) ∧
       exec (.cxlMemWrite hpa sid data en ep obs) s =
         .next (s.updPart p fun q => { q with lockdrop := satAdd 0xFFFFFFFF q.lockdrop 1 })) ∧
     (s.host.cxl = false → 1 ≤ data.length → a % 64 + data.length ≤ 64 →
       exec (.bar4Read a data.length sid obs) s = .next (s.send (.data [] true)) ∧
       exec (.bar4Write a data sid ep obs holes) s =
         .next ((if ep then s.aer 12 else s).updPart p fun q => { q with lockdrop := satAdd 0xFFFFFFFF q.lockdrop 1 }))) ∧
  (∀ (s : State) (p : Part) (sid : Sid) (n off : Nat) (v : Word) (lo : Option Word) (cie : Bool),
     s.host.dlUp = true → (s.part p).locked = true → s.onStream sid p = false →
     (s.pageWord p sid off = if off = 0x80 then (s.win p).credit else if off = 0x100 then (s.part p).fourFields else 0) ∧
     (1 ≤ n → n ≤ 64 → exec (.replyoutRead ⟨p, by omega⟩ sid 0x40 n) s = .next (s.send (.data (List.replicate n 0) false))) ∧
     exec (.winctlWrite ⟨p, by omega⟩ sid v) s = .next s ∧ exec (.ringbaseWrite p sid lo none) s = .next s ∧
     exec (.ringsizeWrite p sid v) s = .next s ∧ exec (.ringEnable p sid cie) s = .next s ∧
     exec (.ringDisable p sid cie) s = .next s ∧ exec (.ringCieWrite p sid cie) s = .next s ∧
     exec (.ringconsWrite p sid v) s = .next s)

/-! ## The device window -/

/-- R302, R271: `hello` reports the part and, with a rate of R271, starts a change of rate that takes effect after the reply;
another rate is out of range. R313, R314: the four reports of `stat` on w8 and `temp`. R315, R285, R317: `echo` turns echo
on, with its line count from 0, or off; `reset` is answered, and its reset happens once every byte up to the end of the reply
has left its transport, whatever is written behind it, a second `reset` among it. Texts that the spec leaves open: assumption
12; that a lost reply to `reset` is not waited for: assumption 22. -/
def Obligations.DeviceWindowReports : Prop :=
  (∀ (s : State) (l : LineCtx) (b : Nat),
     let keys : List (List Byte) := [kv "part" s.partName, asc "step=a1", kv "fw" (versionText s.running),
       kv "rack" (rackText s.dev.rack), kb "ready" s.dev.ready, kv "df" (hex2 (s.dev.dfault.getD 0))]
     (s.takes 8 (.hello l none) = true → exec (.hello l none) s = .next (s.ok 8 l keys)) ∧
     (s.takes 8 (.hello l (some b)) = true → b ∈ [115200, 921600, 3000000, 6000000, 12000000] →
       exec (.hello l (some b)) s = .next ((s.ok 8 l keys).updUart fun u => { u with newBaud := some b })) ∧
     (s.takes 8 (.hello l (some b)) = true → b ∉ [115200, 921600, 3000000, 6000000, 12000000] →
       exec (.hello l (some b)) s = .next (s.no 8 l "range")) ∧
     (s.uart.newBaud = some b → s.uart.tx = [] →
       exec .uartBaudSwitch s = .next (s.updUart fun u => { u with baud := b, newBaud := none })) ∧
     (s.uart.tx ≠ [] → exec .uartBaudSwitch s = .next s)) ∧
  (∀ (s : State) (l : LineCtx),
     (s.takes 8 (.statDevice l) = true → exec (.statDevice l) s = .next (s.ok 8 l
       [kv "state" (asc (if s.dev.dfault.isSome then "fault" else if s.dev.ready then "ready" else "boot")),
        kv "df" (hex2 (s.dev.dfault.getD 0)), kv "rack" (rackText s.dev.rack), kv "temp" (decI s.tempMax),
        kn "ign" (s.win 8).ign])) ∧
     (s.takes 8 (.statParts l) = true → exec (.statParts l) s = .next (s.replies 8 l
       (([0, 1, 2, 3, 4, 5, 6, 7].filter fun p => (s.part p).stat != .free).map fun p =>
         [nameN "p" p, kv "courts" (courtList (s.part p).courts), kv "state" (s.part p).stateName,
          kb "lock" (s.part p).locked, kn "mhz" (s.part p).mhz]) [])) ∧
     (s.takes 8 (.statCourts l) = true → exec (.statCourts l) s = .next (s.replies 8 l
       ([0, 1, 2, 3, 4, 5, 6, 7].map fun c =>
         [nameN "c" c, kv "part" (s.ownerText c), kn "drill" (s.courtSum c (·.dFails)),
          kn "suspect" (s.courtSum c (·.suspect))]) [])) ∧
     (s.takes 8 (.statDeviceCounters l) = true → exec (.statDeviceCounters l) s = .next (s.replies 8 l
       [[kn "ign" (s.win 8).ign, kv "why" (hex2 (s.win 8).ignWhy), kn "dfault" s.dev.dfCount, kn "trip" s.dev.trips]] [])) ∧
     (s.takes 8 (.temp l) = true → (s.dev.ready = true ∨ s.dev.dfault ≠ none) → exec (.temp l) s = .next (s.ok 8 l
       ([kv "max" (decI s.tempMax)] ++
        ([0, 1, 2, 3, 4, 5, 6, 7].map fun c => nameN "c" c ++ asc "=" ++ decI ((tget none s.dev.temps c).getD 0)) ++
        [kv "mgmt" (decI ((tget none s.dev.temps 8).getD 0)), asc "trip=110"])))) ∧
  (∀ (s : State) (l : LineCtx) (on : Bool) (sid : Sid) (n k : Nat),
     let held (t : State) : Nat := if l.uart then t.uart.tx.length else (t.win 8).reply.length
     (s.takes 8 (.echo l on) = true → s.isReady = true → exec (.echo l on) s =
       .next ((s.updUart fun u => { u with echo := on, lines := if on then 0 else u.lines }).ok 8 l)) ∧
     (s.takes 8 (.resetCommand l) = true → (s.dev.ready = true ∨ s.dev.dfault ≠ none) →
       exec (.resetCommand l) s = .next ((s.ok 8 l).updDev fun d => { d with
         resetIn := d.resetIn ++ [(l.uart, if held s < held (s.ok 8 l) then held (s.ok 8 l) else 0)] })) ∧
     ((on, n) ∈ s.dev.resetIn →
       (n = 0 → exec .resetCommandFire s = .next (s.assert .resetN)) ∧
       (s.uart.tx ≠ [] → ∃ t, exec (.cmdRtsN true) s = .next t ∧
         (on, if on then n - s.uart.tx.length else n) ∈ t.dev.resetIn) ∧
       (s.host.dlUp = true → s.pageOpen 8 sid = true → 1 ≤ k → k ≤ 64 → ∃ t, exec (.replyoutRead 8 sid 0x40 k) s = .next t ∧
         (on, if on then n else n - k) ∈ t.dev.resetIn)) ∧
     ((∀ r ∈ s.dev.resetIn, r.2 ≠ 0) → exec .resetCommandFire s = .next s))

/-- R303: `part` defines a partition of FREE courts: it owns exactly the courts named, in ascending order, is DEFINED at the
grade maximum with the settings of R80, its clusters are scrubbed, its ports train; no other partition and no other port
changes, and no byte of device memory. R304: `free` takes a DEFINED or LOADED partition out of use and holds the w8 parser;
at its end every byte of the partition's memory is zero, its ports are held down, it owns no court, and no other partition
and no other byte has changed. A drill waits no more for a court that the scrub of either has stopped. R434: an error in that
scrub is a device fault, and the partition is not defined. Readings of a partition's life: assumption 20. -/
def Obligations.PartitionsAreDefinedAndFreed : Prop :=
  (∀ (s : State) (l : LineCtx) (p : Part) (cs : List Court) (il : Bool),
     s.sized = true → s.takes 8 (.part l p cs il) = true → s.isReady = true → (s.part p).stat = .free →
     (∀ c ∈ cs, s.owner c.val = none) → cs ≠ [] → cs.Nodup →
     ∃ t, exec (.part l p cs il) s = .next t ∧
       (t.part p).courts.Pairwise (· < ·) ∧ (∀ c, c ∈ (t.part p).courts ↔ ∃ k ∈ cs, k.val = c) ∧
       (t.part p).state = 1 ∧ (t.part p).il = il ∧ (t.part p).mhz = s.gradeMax ∧ (t.part p).set = {} ∧
       (t.part p).session = none ∧ (∀ c ∈ cs, (t.port c).st = (if s.extest then .down else .training) ∧ (t.port c).hold = false) ∧
       (∀ g < 96, (∃ c ∈ cs, c.val = g / 12) → (t.clu g).sp = [] ∧ (t.clu g).vr = [] ∧ (t.clu g).icache = []) ∧
       (∀ x, (∀ c ∈ cs, c.val ≠ x) → t.port x = s.port x) ∧
       (∀ r, r ≠ p.val → t.part r =
         { s.part r with drill := (s.part r).drill.map fun j => j.without (cs.map (·.val)) }) ∧
       ∀ a, t.rdDa a = s.rdDa a) ∧
  (∀ (s : State) (l : LineCtx) (p : Part) (cs : List Court) (il : Bool), s.sized = true → s.courtsOk = true →
     (s.takes 8 (.part l p cs il true) = true → s.isReady = true → (s.part p).stat = .free →
       (∀ c ∈ cs, s.owner c.val = none) → cs ≠ [] → cs.Nodup →
       ∃ t, exec (.part l p cs il true) s = .next t ∧ t.dev.dfault = some 7 ∧ (t.part p).state = 0) ∧
     (s.takes 8 (.free l p true) = true → s.freeOk p = true →
       ∃ t, exec (.free l p true) s = .next t ∧ t.dev.dfault = some 7 ∧ (t.part p).state = 4 ∧ (t.win 8).busy = none)) ∧
  (∀ (s : State) (l : LineCtx) (p : Part),
     s.sized = true → s.courtsOk = true →
     (s.takes 8 (.free l p) = true → s.freeOk p = true →
       ∃ t, exec (.free l p) s = .next t ∧ (t.part p).state = 5 ∧ (t.part p).courts = (s.part p).courts ∧
         (t.win 8).busy = some (.freeing l p) ∧
         (∀ r, r ≠ p.val → t.part r =
           { s.part r with drill := (s.part r).drill.map fun j => j.without (s.part p).courts }) ∧
         ∀ a, t.rdDa a = s.rdDa a) ∧
     ((s.win 8).busy = some (.freeing l p) → s.dev.dfault = none →
       ∃ t, exec (.freeDone p) s = .next t ∧ (t.part p).state = 0 ∧ (t.part p).courts = [] ∧ (t.part p).session = none ∧
         (t.win 8).busy = none ∧ (∀ a, t.rdDa a = if a / courtBytes ∈ (s.part p).courts then 0 else s.rdDa a) ∧
         (∀ x ∈ (s.part p).courts, (t.port x).st = .down ∧ (t.port x).hold = true) ∧
         ∀ r, r ≠ p.val → t.part r = s.part r))

/-- R305, R35, R36: `clock` takes 800 MHz to the grade maximum in steps of 50 MHz, for every partition that is not RUNNING
and has no launch queued; the reply follows the relock. R306: `link` reports one line a port; `op=` takes a port of a
partition without launches down and holds it, releases the hold, or trains it again (under EXTEST it cannot train yet, R500),
and changes no partition and of another port at most the frames that wait there in its buffers, or whose buffers there the
frames hold that it discards (R376, R383). R307 to R309, R290: `link rack=` sets or removes the rack number; `route` and
`group` stage one entry or the membership and change nothing that is in force. -/
def Obligations.ClockLinksAndRallySettings : Prop :=
  (∀ (s : State) (l : LineCtx) (p : Part) (mhz : Nat),
     (s.takes 8 (.clock l p mhz) = true → s.isReady = true → (s.part p).state ∉ [0, 3] → (s.part p).queue = [] →
       (s.part p).drill = none → exec (.clock l p mhz) s = .next (
         if 800 ≤ mhz ∧ mhz ≤ s.gradeMax ∧ mhz % 50 = 0 then
           (s.updPart p fun q => { q with mhz := mhz, relock := some l }).updWin 8 fun w =>
             { w with busy := some (.relocking p) }
         else s.no 8 l "range")) ∧
     ((s.part p).relock = some l → (s.win 8).busy = some (.relocking p) →
       exec (.relockDone p) s =
         .next (((s.updPart p fun q => { q with relock := none }).updWin 8 fun w => { w with busy := none }).ok 8 l
           [nameN "p" p, kn "mhz" (s.part p).mhz]))) ∧
  (∀ (s : State) (l : LineCtx) (x : PortNo) (ox : Option PortNo), s.sized = true →
     (s.takes 8 (.linkReport l ox) = true → s.isReady = true →
       exec (.linkReport l ox) s = .next (s.replies 8 l
         ((match ox with | some x => [x.val] | none => [0, 1, 2, 3, 4, 5, 6, 7]).map fun x =>
           [nameN "x" x, kv "part" (s.ownerText x), kv "state" (s.shownLink x).text, kn "crc" (s.port x).crc,
            kn "replay" (s.port x).replays]) [])) ∧
     (s.linkOpOk x = true →
       let trains : LinkSt := if s.extest then .down else .training
       let others (t : State) : Prop := t.parts = s.parts ∧ ∀ y, y ≠ x.val →
         (t.port y).st = (s.port y).st ∧ (t.port y).hold = (s.port y).hold ∧ (t.port y).replay = (s.port y).replay ∧
         (t.port y).slots = (s.port y).slots ∧ (t.port y).credits = (s.port y).credits ∧
         (t.port y).egress = (s.port y).egress.filter (fun f => f.2 != some x.val) ∧
         ((∀ z, ∀ f ∈ (s.port z).egress, f.2 = none) → t.port y = s.port y)
       (s.takes 8 (.linkOpDown l x) = true → ∃ t, exec (.linkOpDown l x) s = .next t ∧ (t.port x).st = .down ∧
         (t.port x).hold = true ∧ (t.port x).replay = [] ∧ (t.port x).egress = [] ∧ others t) ∧
       (s.takes 8 (.linkOpUp l x) = true → (s.port x).hold = true → ∃ t, exec (.linkOpUp l x) s = .next t ∧
         (t.port x).st = trains ∧ (t.port x).hold = false ∧ (t.port x).egress = (s.port x).egress ∧
         (∀ y, y ≠ x.val → t.port y = s.port y) ∧ t.parts = s.parts) ∧
       (s.takes 8 (.linkOpUp l x) = true → (s.port x).hold = false → exec (.linkOpUp l x) s = .next (s.ok 8 l)) ∧
       (s.takes 8 (.linkOpRetrain l x) = true → ∃ t, exec (.linkOpRetrain l x) s = .next t ∧
         (t.port x).st = trains ∧ (t.port x).hold = false ∧ (t.port x).egress = [] ∧ others t))) ∧
  (∀ (s : State) (l : LineCtx) (p : Part) (n : Option Nat) (dst id rto : Nat) (ms : List (Nat × Nat)) (list : List Nat)
     (x : PortNo), s.isReady = true →
     (s.takes 8 (.linkRack l n) = true → (∀ r, n = some r → r ≤ 63) →
       (∀ q ∈ s.parts, q.state ≠ 3 ∧ q.rally.group = none ∧ (∀ r, q.pendR = some r → r.group = none)) →
       exec (.linkRack l n) s = .next ((s.updDev fun d => { d with rack := n }).ok 8 l [kv "rack" (rackText n)])) ∧
     ((s.part p).stat ≠ .free →
       (s.takes 8 (.route l p dst (some x)) = true → dst ≤ 63 → x.val ∈ (s.part p).courts →
         exec (.route l p dst (some x)) s = .next ((s.updPart p fun q =>
           { q with stageR := { q.stageR with routes := spSet none q.stageR.routes dst (some x.val) } }).ok 8 l)) ∧
       (s.takes 8 (.route l p dst none) = true → dst ≤ 63 →
         exec (.route l p dst none) s = .next ((s.updPart p fun q =>
           { q with stageR := { q.stageR with routes := spSet none q.stageR.routes dst none } }).ok 8 l)) ∧
       (s.takes 8 (.route l p dst (some x)) = true → dst ≤ 63 → x.val ∉ (s.part p).courts →
         exec (.route l p dst (some x)) s = .next (s.no 8 l "port")) ∧
       (s.takes 8 (.group l p none none none) = true →
         exec (.group l p none none none) s = .next ((s.updPart p fun q =>
           { q with stageR := { q.stageR with group := none }, touched := true }).ok 8 l)) ∧
       (s.takes 8 (.group l p (some id) (some ms) (some rto)) = true → 1 ≤ id → id ≤ 65535 → 10 ≤ rto → rto ≤ 1000000 →
         expandRanges ms = some list → list.Nodup → 2 ≤ list.length →
         exec (.group l p (some id) (some ms) (some rto)) s = .next ((s.updPart p fun q =>
           { q with stageR := { q.stageR with group := some { id := id, members := list, rto := rto } }
                    touched := true }).ok 8 l))))

/-- R310, R311, R416, R419, R420: `attest` waits for its report; the report replaces the unused ephemeral key and counts;
`session` uses that key up and leaves a pending session. R312, R478, R479: `fw stat` reports both banks; `fw write` of a
bundle that verifies clears the valid flag and next mark of the bank that is not running and begins to fill it; the write
then ends with that bank valid and marked to boot next. A bundle that does not verify changes nothing in flash; a source in
a court that is not FREE makes the line ignored. The keys are free values (assumption 5), the bundle format is free
(assumption 7), the steps of a write are the model's (assumption 26), what the management core's own reads of the source meet
is free, and a line that it cannot read counts as a bundle that does not verify (assumption 2); that a court in use comes
before a range is assumption 13, that all is checked before flash changes is assumption 22. -/
def Obligations.AttestationSessionsAndFirmware : Prop :=
  (∀ (s : State) (l : LineCtx) (p : Part) (nonce pub : List Byte),
     (s.takes 8 (.attest l nonce) = true → s.isReady = true → nonce.length = 32 →
       exec (.attest l nonce) s =
         .next (s.updDev fun d => { d with attests := d.attests ++ [{ ctx := l, nonce := nonce }] })) ∧
     (∀ j rest, s.dev.attests = j :: rest → s.dev.dfault = none →
       ∃ t, exec .attestReportDone s = .next t ∧
         (let body := (s.updDev fun v => { v with reports := v.reports + 1, attests := rest }).reportBody j.nonce
             (ecCompress (ecPublic (s.secret 0)))
          let report := body ++ ecdsaSign Config.cohortKey (s.secret 1) (sha384 body)
          t.dev = { s.dev with
            reports := s.dev.reports + 1, attests := rest, ephem := some (s.secret 0, sha384 report) }) ∧
         t.parts = s.parts ∧ t.free = s.free + 2) ∧
     (∀ d salt key z, s.takes 8 (.session l p pub) = true → s.isReady = true → (s.part p).state ∈ [1, 2] →
       (s.part p).locked = false → pub.length = 49 → s.dev.ephem = some (d, salt) → ecDecompress pub = some key →
       ecdh d key = some z →
       exec (.session l p pub) s =
         .next (((s.updDev fun v => { v with ephem := none }).updPart p fun q =>
           { q with pending := some (sessionOf z salt p) }).ok 8 l [nameN "p" p])) ∧
     (s.takes 8 (.session l p pub) = true → s.isReady = true → (s.part p).state ∈ [1, 2] →
       (s.part p).locked = false → pub.length = 49 → s.dev.ephem = none →
       exec (.session l p pub) s = .next (s.no 8 l "stale"))) ∧
  (∀ (s : State) (l : LineCtx) (src len : Nat), s.isReady = true → s.sized = true →
     let r := s.coreRead (linesOf src len)
     let bytes := (List.range len).map fun k => s.rdDa (src + k)
     let ok := 0 < len ∧ (∀ a ∈ linesOf src len, r.cause a = none) ∧ s.bundleOk bytes = true
     let taken := ∃ a, src ≤ a ∧ a < src + len ∧ a / courtBytes < 8 ∧ s.owner (a / courtBytes) ≠ none
     let inRange := src % 64 = 0 ∧ len % 64 = 0 ∧ len ≤ 2 ^ 23 ∧ src + len ≤ 8 * courtBytes
     (s.takes 8 (.fwStat l) = true → exec (.fwStat l) s = .next (s.replies 8 l ([false, true].map fun b =>
       [kv "bank" (slotName b), kv "ver" (versionText (s.bankOf b)),
        kv "state" (asc (if (s.bankOf b).valid then "valid" else "empty")), kb "next" (s.bankOf b).next,
        kb "run" (s.dev.bank == b)]) [])) ∧
     (s.takes 8 (.fwWrite l src len) = true →
       (taken → exec (.fwWrite l src len) s = .next (s.ignore 8 l .conflict)) ∧
       (¬ taken → ¬ inRange → exec (.fwWrite l src len) s = .next (s.no 8 l "range")) ∧
       (¬ taken → inRange → ¬ ok → exec (.fwWrite l src len) s = .next (r.no 8 l "verify")) ∧
       (¬ taken → inRange → ok → ∃ t, exec (.fwWrite l src len) s = .next t ∧ t.fuses = s.fuses ∧ t.running = s.running ∧
         t.dram = s.dram ∧ t.parts = s.parts ∧ (t.win 8).busy = some .flashing ∧
         t.dev = { s.dev with fw := some { ctx := l, bank := !s.dev.bank, bundle := bytes } } ∧
         t.bankOf (!s.dev.bank) = { s.bankOf (!s.dev.bank) with valid := false, next := false, bundle := bytes } ∧
         t.bankOf s.dev.bank = { s.bankOf s.dev.bank with next := true })) ∧
     (∀ j, s.dev.fw = some j → s.pending = [] → s.bundleOk (s.bankOf j.bank).bundle = true →
       ∃ t, step s = .next t ∧ t.fuses = s.fuses ∧ t.dram = s.dram ∧ t.parts = s.parts ∧ t.dev = { s.dev with fw := none } ∧
         (t.win 8).busy = none ∧ t.bankOf j.bank = { s.bankOf j.bank with valid := true, next := true, attempts := 0 } ∧
         t.bankOf (!j.bank) = { s.bankOf (!j.bank) with next := false }))

/-- R316, R338, R457 to R461: a drill starts a pass of twelve kernels on every cluster of its courts and is answered when
the pass has ended; on a court that drills already it waits for a pass of its own; the schedule starts one on a FREE court;
each kernel that ends is counted in DRILLCNT and in the reply of the line that waits, as failed where its digest is wrong or a
detector reports an error that is not corrected; a pass ends with the last kernel of its
twelve clusters, and the pass of a line that waits then begins. Readings of drills: assumption 21. -/
def Obligations.Drills : Prop :=
  ∀ (s : State) (l : LineCtx) (cs : List Court) (c : Court) (p : Part) (g : Clu) (pass : Bool) (obs : HwObs),
    s.sized = true →
    (s.takes 8 (.drillCourts l cs) = true → s.isReady = true → (∀ k ∈ cs, s.owner k.val = none) →
      let ks := (cs.map (·.val)).eraseDups
      let j : DrillJob := { ctx := l, courts := ks, res := ks.map (fun k => (k, 0, 0)), wait := ks, on := [] }
      ((∀ k ∈ cs, (s.court k).drill = false ∧ ∀ d ∈ s.dev.drills, k.val ∉ d.wait) →
        ∃ t, exec (.drillCourts l cs) s = .next t ∧ t.parts = s.parts ∧ t.out = s.out ∧ t.windows = s.windows ∧
          (∀ k ∈ cs, (t.court k).drill = true ∧ ∀ i < 12, (t.clu (12 * k + i)).drillK = 0) ∧
          t.dev.drills = s.dev.drills ++ [{ j with wait := [], on := ks }]) ∧
      ((∀ k ∈ cs, (s.court k).drill = true) →
        exec (.drillCourts l cs) s = .next (s.updDev fun d => { d with drills := d.drills ++ [j] }))) ∧
    (s.takes p (.drillPartition l p) = true → s.legal p true true false false = true → (s.part p).outstanding = false →
      s.courtsOk = true →
      ∃ t, exec (.drillPartition l p) s = .next t ∧ t.out = s.out ∧ t.dram = s.dram ∧
        (∀ k ∈ (s.part p).courts, (t.court k).drill = true) ∧
        (t.part p).drill = some { ctx := l, courts := (s.part p).courts, res := (s.part p).courts.map (fun k => (k, 0, 0))
                                  wait := [], on := (s.part p).courts }) ∧
    (s.isReady = true → s.owner c.val = none → (s.court c).drill = false →
      exec (.drillSchedule c) s = .next (s.startPass c)) ∧
    ((s.court (g / 12)).drill = true → (s.clu g).drillK < 12 → s.dev.dfault = none →
      let ok := pass && !obs.suspect && !obs.parity && obs.spUe.isEmpty
      let last := (s.clu g).drillK = 11 ∧ ∀ i < 12, 12 * (g.val / 12) + i ≠ g.val → (s.clu (12 * (g.val / 12) + i)).drillK ≥ 12
      ∃ t, exec (.drillKernelEnd g pass obs) s = .next t ∧ t.dram = s.dram ∧
        (t.clu g).dRuns = (s.clu g).dRuns + 1 ∧
        (t.clu g).dFails = (if ok then (s.clu g).dFails else min 0xFFFFFFFF ((s.clu g).dFails + 1)) ∧
        (t.clu g).dLast = (if ok then (s.clu g).dLast else (s.clu g).drillK) ∧
        (t.clu g).e.drop 4 = (s.clu g).e.drop 4 ∧
        ((¬ last ∨ ∀ d ∈ s.dev.drills, g.val / 12 ∉ d.wait) → (t.clu g).drillK = (s.clu g).drillK + 1 ∧
          ((t.court (g / 12)).drill = true ↔ ¬ last) ∧
          ∀ j, j ≠ g.val → (s.clu j).spce ≤ 0xFFFFFFFF → t.clu j = { s.clu j with
            spce := min 0xFFFFFFFF ((s.clu j).spce + (obs.spCe.filter fun i => i = j ∧ i / 12 = g.val / 12).length) }) ∧
        (last → (∃ d ∈ s.dev.drills, g.val / 12 ∈ d.wait) → (t.court (g / 12)).drill = true ∧
          ∀ i < 12, (t.clu (12 * (g.val / 12) + i)).drillK = 0)) ∧
    (∀ j, (s.part p).drill = some j → j.wait = [] → j.on = [] → s.dev.dfault = none →
      exec (.drillPassDone ⟨p, by omega⟩) s = .next ((s.updPart p fun q => { q with drill := none }).ok p j.ctx
        [kn "pass" ((j.res.map (·.2.1)).foldl (· + ·) 0), kn "fail" ((j.res.map (·.2.2)).foldl (· + ·) 0)])) ∧
    (∀ j, s.dev.drills = [j] → j.wait = [] → j.on = [] → s.dev.dfault = none →
      exec (.drillPassDone 8) s = .next ((s.updDev fun d => { d with drills := [] }).replies 8 j.ctx
        (j.res.map fun r => [nameN "c" r.1, kn "pass" r.2.1, kn "fail" r.2.2]) []))

/-! ## Partition windows -/

/-- R243, R245, R319: a `load` in range into a slot that no launch is bound to begins: the slot is LOADING and its lines
leave every instruction cache; at its end an image that passes the verifier is in slot memory and its slot is VERIFIED, one
that fails leaves the slot EMPTY and is answered with the place and code of the failure. The end of a load is one step of
its own (assumption 20). -/
def Obligations.LoadVerifiesAnImage : Prop :=
  ∀ (s : State) (l : LineCtx) (p : Part) (b : Bool) (src len : Nat) (obs : HwObs), s.sized = true → s.courtsOk = true →
    (s.takes p (.load l p b src len) = true → s.legal p true true true true = true →
      (src % 64 = 0 → len % 64 = 0 → len ≤ 2 ^ 25 → src + len ≤ (s.part p).slotLo → (s.part p).bound b = 0 →
        ∃ t, exec (.load l p b src len) s = .next t ∧ (t.part p).slot b = { st := .loading } ∧
          (t.part p).slot (!b) = (s.part p).slot (!b) ∧
          (t.part p).load = some { ctx := l, b := b, src := src, len := len } ∧
          (∀ g ∈ (s.part p).clusters, ∀ n, (b, n) ∉ (t.clu g).icache ∧
            ((!b, n) ∈ (t.clu g).icache ↔ (!b, n) ∈ (s.clu g).icache)) ∧ t.dram = s.dram ∧ t.out = s.out) ∧
      ((src % 64 ≠ 0 ∨ len % 64 ≠ 0 ∨ 2 ^ 25 < len ∨ (s.part p).slotLo < src + len) →
        exec (.load l p b src len) s = .next (s.no p l "range")) ∧
      (src % 64 = 0 → len % 64 = 0 → len ≤ 2 ^ 25 → src + len ≤ (s.part p).slotLo → (s.part p).bound b ≠ 0 →
        exec (.load l p b src len) s = .next (s.no p l "busy"))) ∧
    (∀ j, (s.part p).load = some j → s.dev.dfault = none →
      let lines := (s.part p).daLines (linesOf j.src j.len)
      let bytes := (List.range j.len).map fun k => s.rdPa p (j.src + k)
      let u := (s.observe obs lines).wrPa p (cellsAt ((s.part p).slotPa j.b) bytes)
      s.snooped (lines ++ (s.part p).slotLines j.b j.len) = [] → (∀ a ∈ lines, (s.observe obs lines).cause a = none) →
      match verifyImage bytes (s.part p).courts.length j.len with
      | none => exec (.loadDone p obs) s = .next ((u.updPart p fun q =>
          { q with load := none, slots := q.slots.set (b2n j.b) (slotOf bytes j.len) }).ok p j.ctx)
      | some (at_, code) => exec (.loadDone p obs) s = .next ((u.updPart p fun q =>
          { q with load := none, slots := q.slots.set (b2n j.b) {} }).no p j.ctx "verify"
            [kv "at" at_.text, kv "code" (hex2 code)]))

/-- R247: `swap` makes the other slot active when it is VERIFIED and changes nothing else; otherwise it is answered
`why=empty`. -/
def Obligations.SwapTakesTheOtherSlot : Prop :=
  ∀ (s : State) (l : LineCtx) (p : Part), s.takes p (.swap l p) = true → s.legal p false true true true = true →
    exec (.swap l p) s = .next (
      if ((s.part p).slot (!(s.part p).active)).st = .verified then
        (s.updPart p fun q => { q with active := !q.active }).ok p l [kv "slot" (slotName (!(s.part p).active))]
      else s.no p l "empty")

/-- R321, R254: `wait` arms the gate; the first `go` accepted while it is armed is gated and disarms it; `sig` adds a
ticket, up to 255; a `go` binds its slot, argument block, deadline, context fields, done word and tag at its acceptance.
R324: `halt` empties the launch queue, disarms the gate and clears the tickets, and leaves a running launch as it is. R325:
`abort` faults the partition with ABORTED at once: every engine stops with nothing in flight; what of that was not written
yet is never written (R446). That a `go` without `dl=` takes the deadline committed last is assumption 20; what the
merging reads of done words meet at a `halt` is free (assumption 2). -/
def Obligations.LaunchQueueGateHaltAndAbort : Prop :=
  (∀ (s : State) (l : LineCtx) (p : Part) (b : Bool) (args : Nat) (dl done : Option Nat) (nc : NcItems),
     s.legal p false true true true = true →
     (s.takes p (.wait l p) = true →
       exec (.wait l p) s = .next ((s.updPart p fun q => { q with gate := true }).ok p l)) ∧
     (s.takes p (.sig l p) = true → exec (.sig l p) s = .next (
       if (s.part p).tickets < 255 then (s.updPart p fun q => { q with tickets := q.tickets + 1 }).ok p l
       else s.no p l "full")) ∧
     (s.takes p (.go l p (some b) (some args) dl nc done) = true → args % 64 = 0 → args < (s.part p).slotLo →
       (∀ d, done = some d → d % 32 = 0 ∧ d < (s.part p).slotLo) → (∀ d, dl = some d → 1 ≤ d ∧ d ≤ 60000000) →
       (∀ v, nc.flush = some v ∨ nc.sat = some v → v ≤ 1) →
       exec (.go l p (some b) (some args) dl nc done) s = .next (
         if ((s.part p).slot b).st = .verified then
           (s.updPart p fun q => { q with
             queue := q.queue ++ [{ b := b, args := args, dl := dl.getD (q.pendP.getD q.set).dl, nc := nc, done := done,
                                    ctx := l, gated := q.gate, seq := q.seq + 1 }]
             seq := q.seq + 1, gate := false }).ok p l
         else s.no p l "empty")) ∧
     (s.takes p (.go l p none none dl nc done) = true →
       exec (.go l p none none dl nc done) s = exec (.go l p (some (s.part p).active) (some 0) dl nc done) s)) ∧
  (∀ (s : State) (l : LineCtx) (p : Part), s.sized = true →
     (s.takes p (.halt l p) = true → s.legal p false true true true = true →
       ∃ t, exec (.halt l p) s = .next t ∧ (t.part p).queue = [] ∧ (t.part p).gate = false ∧ (t.part p).tickets = 0 ∧
         (t.part p).run = (s.part p).run ∧ (∀ r, r ≠ p.val → t.part r = s.part r) ∧ t.cl = s.cl ∧
         ((s.part p).queue = [] → (s.part p).reports = [] → (t.win p).busy = none)) ∧
     (s.takes p (.abort l p) = true → s.legal p false false true true = true → (s.part p).run ≠ none →
       s.courtsOk = true →
       ∃ t, exec (.abort l p) s = .next t ∧ (t.part p).state = 4 ∧ (t.part p).ffCode = 0x0C ∧
         (∀ g ∈ (s.part p).clusters, ∀ u ∈ (t.clu g).streams, u.ended = true ∧ u.flight = []) ∧
         (∀ r, r ≠ p.val → t.part r = s.part r) ∧ (s.memOk = true → t.Abandoned s (s.inFlight p))))

/-- R290 to R292, R326 to R328: `set`, `shard` and `shard drop` change only the staging copy; `commit` makes it pending, or
names what it finds wrong and changes nothing; pending rally settings take effect once the partition runs nothing and holds no
frame of its own. When pending settings settle: assumption 20. -/
def Obligations.SettingsAreStagedAndCommitted : Prop :=
  ∀ (s : State) (l : LineCtx) (p : Part) (nc : NcItems) (dl idx : Nat) (g pp c ds : List Nat) (dev : List (Nat × Nat)),
    s.legal p true true true true = true →
    (s.takes p (.set l p (some nc) (some dl)) = true → 1 ≤ dl → dl ≤ 60000000 →
      (∀ v, nc.flush = some v ∨ nc.sat = some v → v ≤ 1) →
      exec (.set l p (some nc) (some dl)) s = .next ((s.updPart p fun q =>
        { q with stageP := { q.stageP with ctx := q.stageP.ctx.with nc, dl := dl } }).ok p l)) ∧
    (s.takes p (.shard l p idx g pp c dev) = true → expandRanges dev = some ds → idx ≤ 255 →
      (∀ v ∈ g, 1 ≤ v ∧ v < 2 ^ 32) → (∀ v ∈ pp, 1 ≤ v ∧ v ≤ 64) → (∀ v ∈ c, v ≤ 63) → ds.length ≤ 64 →
      exec (.shard l p idx g pp c dev) s = .next (
        if g.length = pp.length ∧ g.length = c.length ∧ g.length ≤ 5 then
          (s.stageShard p idx (some { rank := g.length, g := g, p := pp, c := c, dev := ds })).ok p l
        else s.no p l "rank")) ∧
    (s.takes p (.shardDrop l p idx) = true → idx ≤ 255 →
      exec (.shardDrop l p idx) s = .next ((s.stageShard p idx none).ok p l)) ∧
    (∀ e, s.stageShard p idx e = s.updPart p fun q => { q with
      stageP := { q.stageP with shards := spSet none q.stageP.shards idx e } }) ∧
    (s.takes p (.commit l p) = true → exec (.commit l p) s = .next (
      match commitError s.dev.rack (s.part p) with
      | some (why, keys) => s.no p l why keys
      | none => ((s.updPart p (·.committed)).settle p).ok p l)) ∧
    (∀ r, (s.part p).pendR = some r → (s.part p).run = none → s.rallyIdle p = true →
      exec (.rallySetApply p) s = .next (s.updPart p fun q => q.applyRally r))

/-- R329 to R331, R450: the reports of `stat` on a partition window and of `tally`; reporting the rewrite log empties it.
Texts that the spec leaves open: assumption 12. -/
def Obligations.PartitionReports : Prop :=
  ∀ (s : State) (l : LineCtx) (p : Part) (idx n : Nat),
    let q := s.part p
    (s.takes p (.statPartition l p) = true → exec (.statPartition l p) s = .next (s.ok p l
      [kv "state" q.stateName, kn "q" q.queue.length,
       kv "run" (match q.run with
         | some r => (match r.la.ctx.tag with | some t => dec t | none => asc "-")
         | none => asc "none"),
       kb "gate" q.gate, kn "tk" q.tickets, kv "slot" (slotName q.active), kb "lock" q.locked, kb "pend" q.pendR.isSome,
       kv "ff" (hex2 q.ffCode)])) ∧
    (s.takes p (.statSlots l p) = true → exec (.statSlots l p) s = .next (s.replies p l ([false, true].map fun b =>
      [kv "slot" (slotName b),
       kv "state" (asc (match (q.slot b).st with | .empty => "empty" | .loading => "loading" | .verified => "verified")),
       kn "bound" (q.bound b),
       kv "digest" (pct (if (q.slot b).st = .verified then (q.slot b).digest.take 8 else List.replicate 8 0))]) [])) ∧
    (s.takes p (.statKeys l p) = true → exec (.statKeys l p) s = .next (s.replies p l ([0, 1, 2, 3, 4, 5, 6, 7].map fun k =>
      [kn "slot" k, kb "full" (tget {} q.keys k).key.isSome, kn "refs" (q.keyRefs k),
       kb "erase" (!(tget {} q.keys k).erase.isEmpty)]) [])) ∧
    (s.takes p (.statPartCounters l p) = true → exec (.statPartCounters l p) s = .next (s.replies p l
      [[kn "ign" (s.win p).ign, kv "why" (hex2 (s.win p).ignWhy), kn "lockdrop" q.lockdrop, kn "faults" q.faults,
        kn "late" q.late, kn "suspect" (s.partSum p (·.suspect)), kn "drill" (s.partSum p (·.dRuns.toNat)),
        kn "fail" (s.partSum p (·.dFails))]] [])) ∧
    (s.takes p (.statShard l p idx) = true → exec (.statShard l p idx) s = .next (
      if idx ≤ 255 then
        match spGet none q.set.shards idx with
        | some e => s.replies p l [[kn "idx" idx, kv "g" (commaList (e.g.map dec)), kv "p" (commaList (e.p.map dec)),
            kv "c" (commaList (e.c.map dec)), kv "dev" (commaList (e.dev.map dec))]] []
        | none => s.no p l "none"
      else s.no p l "range")) ∧
    (s.takes p (.statPoison l p) = true → exec (.statPoison l p) s = .next ((s.replies p l
        (q.log.map fun e => [kv "pa" (hex0x e.pa), kv "da" (hex0x e.da), kv "ch" (nameN "m" e.ch), kv "src" e.cause.text])
        [kn "n" q.log.length, kb "over" q.logOver]).updPart p fun q => { q with log := [], logOver := false })) ∧
    (s.takes p (.tally l p (some n)) = true → s.isReady = true → q.stat ≠ .free → s.freeing p = false → n ≤ 15 →
      exec (.tally l p (some n)) s = .next (match q.copy with
        | none => s.no p l "none"
        | some c => s.replies p l
            [[kn "set" n, kv "name" (if (tget [] c.name n).isEmpty then asc "-" else tget [] c.name n),
              kn "sat" (tget {} c.sets n).sat, kn "flush" (tget {} c.sets n).flush, kn "nan" (tget {} c.sets n).nan]]
            [kv "tag" (match c.tag with | some t => dec t | none => asc "-"), kn "sum" c.sum]))

/-- R332, R333, R429, R430: `key` unwraps a key into its slot with a zero counter; a failed check leaves the slot unchanged;
`unkey` empties a slot at once and keeps the bytes only for jobs that hold them. R339, R421, R424: `lock` with the proof of
the pending session locks the window: line and reply numbers start at 0, breaks are disarmed, K_LOCK is gone, the
partition's stream slot holds the derived keys of generation 0; a wrong proof discards the pending session. -/
def Obligations.KeySlotsAndLock : Prop :=
  (∀ (s : State) (l : LineCtx) (p : Part) (k : Nat) (wrap : List Byte) (z : Session),
     s.legal p true true true true = true → (s.part p).session = some z → k ≤ 7 →
     (s.takes p (.key l p k wrap) = true → wrap.length = 40 → exec (.key l p k wrap) s = .next (
       match keyUnwrap z.kWrap wrap with
       | none => s.no p l "unwrap"
       | some b => (s.updPart p fun q => { q with
           keys := q.keys.modify k fun e => { e with key := some b, ctr := 0, gen := e.gen + 1 } }).ok p l [kn "slot" k])) ∧
     (s.takes p (.unkey l p k) = true → s.sized = true → ∃ t, exec (.unkey l p k) s = .next t ∧
       (tget {} (t.part p).keys k).key = none ∧
       ((s.part p).jobs = [] → (tget {} (t.part p).keys k).erase = (tget {} (s.part p).keys k).erase) ∧
       (∀ j, j ≠ k → tget {} (t.part p).keys j = tget {} (s.part p).keys j) ∧ (t.part p).jobs = (s.part p).jobs)) ∧
  (∀ (s : State) (l : LineCtx) (p : Part) (proof : List Byte) (k : Session), s.sized = true →
     s.takes p (.lock l p proof) = true → s.legal p true true false false = true → (s.part p).session = none →
     (s.part p).pending = some k →
     (proof = (hmac384 k.kLock (asc "lock" ++ [byteOf p])).take 8 →
       ∃ t, exec (.lock l p proof) s = .next t ∧ (t.part p).session = some { k with kLock := [] } ∧
         (t.part p).pending = none ∧ (t.part p).rxSeq = 0 ∧ (t.part p).breaks = [] ∧ (t.ideSlot p).secure = false ∧
         (t.ideSlot p).gen = 0 ∧ (∀ d u, u < 3 → (ideAt false d u, ideKey k.prk p 0 (b2n d) u) ∈ (t.ideSlot p).keys) ∧
         ∀ r, r ≠ p.val → t.part r = s.part r) ∧
     (proof ≠ (hmac384 k.kLock (asc "lock" ++ [byteOf p])).take 8 →
       exec (.lock l p proof) s = .next ((s.updPart p fun q => { q with pending := none }).no p l "proof")))

/-- R334, R335, R361, R365: `move` and `fill` submit a job of the partition, with the next id, which latches its key and seal
counter; a seventeenth is answered `why=full`, a range outside the rules `why=range`. R362, R364 to R367: 64 bytes from the
host that a job's mover asked for next are written at their place; the next chunk of a sealing job leaves sealed; a chunk of
an unsealing job that passes its checks is written, one that fails ends its piece with AUTH_FAIL; the pieces of a job in
several courts go on independently, and of the statuses of pieces that stopped the job has the lowest; a host read that fails
ends its piece with HOST_ERROR when the piece comes to it, a sealed piece once the whole chunks before it are written; a fill
writes its eight bytes over every line of its range, and an outbound job without a key sends every line of its. R360, R367,
R369, R372: an ended job leaves the list and reports: its record goes to the ring, its reply, with the status and the bytes,
to its window, and where the ring is full or Bus Master Enable 0 both wait. R346: a host read that ends with poison or a
timeout is logged by AER (bits: assumption 29). In which steps a job moves its data is the model's (assumption 9). -/
def Obligations.MoverJobs : Prop :=
  (∀ (s : State) (l : LineCtx) (p : Part) (pa host len val : Nat), s.sized = true → s.legal p true true true true = true →
     (∀ out : Bool, s.takes p (.move l p out pa host len none) = true →
       ((s.part p).jobOk (b2n out) none pa host len = true → (s.part p).jobCount < 16 →
         ∃ t j, exec (.move l p out pa host len none) s = .next t ∧ (t.part p).jobs = (s.part p).jobs ++ [j] ∧
           (t.part p).jobId = (s.part p).jobId + 1 ∧ j.id = (s.part p).jobId ∧ j.kind = b2n out ∧ j.pa = pa ∧ j.host = host ∧
           j.len = len ∧ j.latch = none ∧ j.status = (if s.hostOpen then none else some 4) ∧
           t.out = s.out ++ (if !out && s.hostOpen then [.hostRead p j.id host len] else []) ∧ t.dram = s.dram) ∧
       ((s.part p).jobOk (b2n out) none pa host len = false →
         exec (.move l p out pa host len none) s = .next (s.no p l "range")) ∧
       ((s.part p).jobOk (b2n out) none pa host len = true → 16 ≤ (s.part p).jobCount →
         exec (.move l p out pa host len none) s = .next (s.no p l "full"))) ∧
     (∀ (out : Bool) (k : Nat), s.takes p (.move l p out pa host len (some k)) = true →
       (s.part p).jobOk (b2n out) (some k) pa host len = true → (s.part p).jobCount < 16 →
       let e : KeySlot := tget {} (s.part p).keys k
       ∃ t j, exec (.move l p out pa host len (some k)) s = .next t ∧ (t.part p).jobs = (s.part p).jobs ++ [j] ∧
         j.ctr = e.ctr ∧ j.latch = e.key.map (fun b => (k, e.gen, b)) ∧
         j.status = (if e.key = none then some 1 else if out = true ∧ e.ctr = 0xFFFFFFFF then some 6
           else if s.hostOpen = false then some 4 else none) ∧
         (tget {} (t.part p).keys k).ctr =
           if out = true ∧ e.key ≠ none ∧ e.ctr ≠ 0xFFFFFFFF then e.ctr + 1 else e.ctr) ∧
     (s.takes p (.fill l p pa len val) = true → (s.part p).jobOk 2 none pa 0 len = true → (s.part p).jobCount < 16 →
       ∃ t j, exec (.fill l p pa len val) s = .next t ∧ (t.part p).jobs = (s.part p).jobs ++ [j] ∧ j.kind = 2 ∧ j.pa = pa ∧
         j.len = len ∧ j.val = val ∧ j.status = none ∧ t.out = s.out)) ∧
  (∀ (s : State) (p : Part) (id off n : Nat) (obs : HwObs) (d : List Byte) (why : HostErr) (j : Job),
     s.jobOf p id = some j →
     let c := j.courtAt (s.part p) off
     let e := j.chunkCourt (s.part p) n
     (j.kind = 0 → j.key = none → off % 64 = 0 → off + 64 ≤ j.len → d.length = 64 → j.moves c = true →
       j.nextOf (s.part p) ((j.pa + off) / 64) = true → s.snooped ((s.part p).daLines [(j.pa + off) / 64]) = [] →
       exec (.hostReadCompletion p id off (some d)) s =
         .next ((s.wrPa p (cellsAt (64 * ((j.pa + off) / 64)) d)).updJob p id fun j =>
           { j.last c with lines := (j.pa + off) / 64 :: j.lines, moved := j.moved + 64 })) ∧
     (j.kind = 0 → j.key.isSome = true → off % 64 = 0 → off + 64 ≤ j.hostLen → d.length = 64 → j.moves c = true →
       off ∉ j.lines → exec (.hostReadCompletion p id off (some d)) s =
         .next (s.updJob p id fun j => { j with lines := off :: j.lines, got := j.got ++ cellsAt off d })) ∧
     (j.kind = 0 → off % 64 = 0 → off + 64 ≤ j.hostLen → j.moves c = true →
       let logged := match why with
         | .poison => s.aer 12
         | .timeout => s.aer 14
         | _ => s
       let q := s.part p
       (j.key = none → j.nextOf (s.part p) ((j.pa + off) / 64) = true →
         exec (.hostReadCompletion p id off none why) s = .next (logged.updJob p id fun j => j.stopAt c 4)) ∧
       (j.key.isSome = true → off ∉ j.lines → exec (.hostReadCompletion p id off none why) s =
         .next (logged.updJob p id fun j =>
           { j with lines := off :: j.lines, fails := off / 4160 :: j.fails }.failNow q c)) ∧
       (j.key = none → j.nextOf (s.part p) ((j.pa + off) / 64) = false →
         exec (.hostReadCompletion p id off none why) s = .next s)) ∧
     (∀ x, (j.failNow (s.part p) x).status = (if ∃ k ∈ j.fails, j.chunkCourt (s.part p) k = x ∧ j.nextChunk (s.part p) k = true
       then (j.stopAt x 4).status else j.status)) ∧
     (∀ k gen key, j.latch = some (k, gen, key) → j.kind = 1 → j.nextChunk (s.part p) n = true → s.hostOpen = true →
       let pa := j.pa + 4096 * n
       let lines := (s.part p).daLines (linesOf pa 4096)
       s.snooped lines = [] → (∀ a ∈ lines, (s.observe obs lines).cause a = none) →
       exec (.sealChunk p id obs n) s = .next (((s.observe obs lines).send (.hostWrite (j.host + 4160 * n)
         (sealBytes key j.ctr n j.len ((List.range 4096).map fun i => s.rdPa p (pa + i))))).updJob p id fun j =>
           { j.last e with chunks := n :: j.chunks, moved := j.moved + 4096 })) ∧
     (∀ k gen key, j.latch = some (k, gen, key) → j.kind = 0 → j.nextChunk (s.part p) n = true → n ∉ j.fails →
       (∀ i < 65, 4160 * n + 64 * i ∈ j.lines) →
       let pa := j.pa + 4096 * n
       let b := (List.range 4160).map fun i => ((j.got.find? fun c => c.1 == 4160 * n + i).map (·.2)).getD 0
       s.snooped ((s.part p).daLines (linesOf pa 4096)) = [] →
       let q := s.part p
       exec (.unsealChunk p id n) s = .next (match unsealBytes key n j.len b with
         | none => s.updJob p id fun j => j.stopAt e 2
         | some plain => (s.wrPa p (cellsAt pa plain)).updJob p id fun j => { j.last e with
             chunks := n :: j.chunks, moved := j.moved + 4096
             got := j.got.filter fun c => decide (c.1 < 4160 * n) || decide (4160 * n + 4160 ≤ c.1) }.failNow q e)) ∧
     (∀ x y a, j.status = some x → x ≠ 6 → ((j.stopAt y a).status = some (min x a) ∧ (j.stopAt y a).moves y = false)) ∧
     (∀ y, j.status = none → j.last y = j ∧ j.moves y = true) ∧
     (∀ x y, j.status = some x → (j.last y).moves y = false) ∧
     ((s.part p).stat = .up → j.status = none → j.kind = 2 → s.memOk = true →
       s.poison = [] → (s.part p).reports = [] → s.snooped ((s.part p).daLines (linesOf j.pa j.len)) = [] → s.sized = true →
       ∃ t, exec (.moverJobEnd p id obs) s = .next t ∧ (t.part p).jobs = (s.part p).jobs.filter (·.id != j.id) ∧
         ∀ a, t.rdDa a = (lastAt ((linesOf j.pa j.len).flatMap fun n =>
           (cellsAt (64 * n) (fillLine j.val)).map fun c => ((s.part p).da c.1, c.2)) a).getD (s.rdDa a)) ∧
     ((s.part p).stat = .up → j.status = none → j.kind = 1 → j.key = none → s.poison = [] → s.hostOpen = true →
       s.snooped ((s.part p).daLines (linesOf j.pa j.len)) = [] → (s.part p).courtsOk = true → (s.part p).courts.Nodup →
       j.pa + j.len ≤ (s.part p).size → s.sized = true →
       ∃ t, exec (.moverJobEnd p id {}) s = .next t ∧ (t.part p).jobs = (s.part p).jobs.filter (·.id != j.id) ∧
         ((s.part p).reports = [] → t.dram = s.dram) ∧ ∀ l ∈ linesOf j.pa j.len,
           .hostWrite (j.host + (64 * l - j.pa)) ((List.range 64).map fun i => s.rdPa p (64 * l + i)) ∈ t.out)) ∧
  (∀ (s : State) (p : Part) (id k : Nat) (obs : HwObs) (j : Job), s.jobOf p id = some j → s.sized = true →
     (s.part p).stat = .up → s.dev.dfault = none → (s.part p).reports = [] → (s.part p).haltReply = none →
     j.status = some k ∨ (j.status = none ∧ j.late = false ∧ j.moved = j.len ∧ k = 0) →
     let r := jobReport j k
     let line := okLine j.ctx [kv "st" (statusName k), kn "bytes" j.moved]
     let waits := (s.part p).ringEn = true ∧ ((s.part p).ringFull = true ∨ s.host.bme = false)
     (r.tag, r.status, r.code, r.flags, r.suspect, r.tally, r.seq, r.runtime, r.done, r.line) =
       (j.ctx.tag.getD 0, k, j.kind, 2, 0, 0, j.moved, 0, none, line) ∧
     ∃ t, exec (.moverJobEnd p id obs) s = .next t ∧ (t.part p).jobs = (s.part p).jobs.filter (·.id != j.id) ∧
       t.dram = s.dram ∧ t.cl = s.cl ∧
       (waits → (t.part p).reports = [r] ∧ t.windows = s.windows ∧ t.out = s.out) ∧
       (¬ waits → (t.part p).reports = [] ∧
         ((s.part p).ringEn = true → (t.part p).prod = (s.part p).prod + 1 ∧
           .hostWrite (s.part p).ringAt.1 (r.bytes p (s.part p).ringAt.2) ∈ t.out) ∧
         (j.ctx.uart = false → (s.win p).reply.length + (s.signedLine p line ++ [10]).length ≤ 4096 →
           (t.win p).reply = (s.win p).reply ++ s.signedLine p line ++ [10])))

/-- R262 to R264, R336: breaks are armed, four at most, and disarmed; a stop that every stream has reached is reported;
`step` gives one stream some long words, `cont` lets every stream go on. R265, R337, R261: `peek` of an address register or a
loop counter of a stream, a token or a region reports it, `poke` of an address register, a token or an event counter with its
mode changes that register of that cluster and nothing else of any cluster; each of these verbs is ignored with STATE in another
state, and else with DEBUG where debug verbs are not permitted. That timers may move
on at a peek while a launch runs is the model's (assumption 2), how a value carries a mode too (assumption 12); other
readings: assumption 21. -/
def Obligations.DebugVerbs : Prop :=
  (∀ (s : State) (l : LineCtx) (p : Part) (cl st n tag : Nat), s.debugPermitted p = true →
     let used := s.updPart p fun q => { q with dbgUsed := true }
     (s.legal p true true true true = true →
       (s.takes p (.breakCount l p cl st n) = true → s.clOk p cl st = true → 1 ≤ n → n < 2 ^ 32 →
         exec (.breakCount l p cl st n) s = .next (
           if (s.part p).breaks.length < 4 then
             (used.updPart p fun q => { q with breaks := q.breaks ++ [.count cl st n] }).ok p l
           else s.no p l "full")) ∧
       (s.takes p (.breakTag l p tag) = true → tag ≤ 65535 →
         exec (.breakTag l p tag) s = .next (
           if (s.part p).breaks.length < 4 then (used.updPart p fun q => { q with breaks := q.breaks ++ [.tag tag] }).ok p l
           else s.no p l "full")) ∧
       (s.takes p (.breakDrop l p) = true →
         exec (.breakDrop l p) s = .next ((used.updPart p fun q => { q with breaks := [] }).ok p l))) ∧
     (∀ r c o, (s.part p).run = some r → r.stop = .stopping c o → (s.part p).stat = .up →
       exec (.breakStopped p) s = .next ((s.setStop p (.stopped none)).emit p r.la.ctx.uart
         (evLine r.la.ctx [asc "break"]))) ∧
     (s.legal p false false false true = true →
       (s.takes p (.step l p cl st n) = true → s.clOk p cl st = true → 1 ≤ n → n ≤ 65535 →
         exec (.step l p cl st n) s = .next ((used.setStop p (.stopped (some (cl, st, n)))).ok p l)) ∧
       (s.takes p (.cont l p) = true → exec (.cont l p) s = .next ((used.setStop p .running).ok p l)))) ∧
  (∀ (s : State) (l : LineCtx) (p : Part) (cl st r v : Nat), s.sized = true → s.courtsOk = true →
     s.peekState p = true → cl < 12 * (s.part p).courts.length → st ≤ 4 →
     let g := (s.part p).glob cl
     let used := s.updPart p fun q => { q with dbgUsed := true }
     let later := if (s.part p).run = none then used else used.passTime g
     (s.debugPermitted p = true →
       (s.takes p (.peek l p cl .a (some st) (some r) none none) = true → r < 16 →
         exec (.peek l p cl .a (some st) (some r) none none) s = .next (later.replies p l
           [[kv "val" (hex0x (tget 0 (s.str g st).a r).toNat)]] [])) ∧
       (s.takes p (.peek l p cl .region none (some r) none none) = true → r < 1024 →
         exec (.peek l p cl .region none (some r) none none) s = .next (later.replies p l
           [[kv "state" (spGet {} (s.clu g).regions r).st.text, kn "n" (spGet {} (s.clu g).regions r).n]] [])) ∧
       (s.takes p (.peek l p cl .l (some st) (some r) none none) = true → r < 4 →
         exec (.peek l p cl .l (some st) (some r) none none) s = .next (later.replies p l
           [[kv "val" (hex0x (tget 0 (s.str g st).l r).toNat)]] [])) ∧
       (s.takes p (.peek l p cl .t none (some r) none none) = true → r < 64 →
         exec (.peek l p cl .t none (some r) none none) s = .next (later.replies p l
           [[kv "val" (hex0x (tget 0 (s.clu g).tokens r).toNat)]] [])) ∧
       (s.takes p (.poke l p cl .a (some st) (some r) none (some v) none) = true → r < 16 → v < 2 ^ 48 →
         exec (.poke l p cl .a (some st) (some r) none (some v) none) s =
           .next ((used.updStr g st fun t => { t with a := t.a.set r (BitVec.ofNat 48 v) }).ok p l)) ∧
       (s.takes p (.poke l p cl .t none (some r) none (some v) none) = true → r < 64 → v < 2 ^ 8 →
         exec (.poke l p cl .t none (some r) none (some v) none) s =
           .next ((used.updClu g fun k => { k with tokens := k.tokens.set r (BitVec.ofNat 8 v) }).ok p l)) ∧
       (s.takes p (.poke l p cl .e none (some r) none (some v) none) = true → r < 8 → v < 2 ^ 41 → pokeModeOk v = true →
         exec (.poke l p cl .e none (some r) none (some v) none) s = .next ((used.updClu g fun k =>
           { k with e := k.e.modify r fun c => { v := BitVec.ofNat 32 v, mode := (pokeMode v).getD c.mode } }).ok p l)) ∧
       (s.takes p (.poke l p cl .a (some st) (some r) none (some v) none) = true → r < 16 → 2 ^ 48 ≤ v →
         exec (.poke l p cl .a (some st) (some r) none (some v) none) s = .next (s.no p l "range")))) ∧
  (∀ (s : State) (l : LineCtx) (p : Part) (cl st n tag r v : Nat) (c : Instr) (legal : Bool),
     (legal = s.legal p true true true true ∧ c ∈ [.breakCount l p cl st n, .breakTag l p tag, .breakDrop l p]) ∨
     (legal = s.legal p false false false true ∧ c ∈ [.step l p cl st n, .cont l p]) ∨
     (legal = s.peekState p ∧ c ∈
       [.peek l p cl .a (some st) (some r) none none, .peek l p cl .l (some st) (some r) none none,
        .peek l p cl .t none (some r) none none, .peek l p cl .region none (some r) none none,
        .poke l p cl .a (some st) (some r) none (some v) none, .poke l p cl .t none (some r) none (some v) none,
        .poke l p cl .e none (some r) none (some v) none]) →
     s.takes p c = true →
     (legal = false → exec c s = .next (s.ignore p l .state)) ∧
     (legal = true → s.debugPermitted p = false → exec c s = .next (s.ignore p l .debug)))

/-! ## Lines, windows and the UART -/

/-- R276, R297: a line takes effect as the command it spells: for every line that the grammar accepts, on every window, the
verb of the line has the effect that `exec` gives its command. R275, R276, R284, R286, R288: the parser takes one line from
the input FIFO of an unlocked window up to its LF and, when nothing stops it, carries it out; a line that the grammar
refuses is ignored with its reason. A line that a stopped parser keeps takes effect once nothing stops it. A `part` or `free`
that comes as a line may meet an error in its scrub (R434). That a typed verb
command is a line whose syntax and MAC are settled is the model's (assumption 24). -/
def Obligations.LinesAreCommands : Prop :=
  (∀ (w : Nat) (uart : Bool) (num : Nat) (body : List Byte) (i : Instr) (s : State),
     parseBody w uart num body = .ok i → exec i s = .next (runVerb i s)) ∧
  (∀ (s : State) (w : Win) (text : List Byte) (rest : List FifoItem) (i : Instr) (e : Bool),
     s.sized = true → s.mute = false → s.stopped w = false → s.winKey w = none →
     ((s.win w).fifo = text.map .byte ++ .byte 10 :: rest → (s.win w).uline = none → (s.win w).held = none →
       (s.win w).asm = [] → (s.win w).asmOver = false →
       (∀ b ∈ text, 32 ≤ b.toNat ∧ b.toNat ≤ 126 ∧ b.toNat ≠ 35) → text.length < 200 → splitMac text = (text, none) →
       hasPrefix text = false → text.all isSpace = false →
       (parseBody w false 0 text = .ok i →
         exec (.lineParse w e) s = .next (runVerb (scrubbing e i) (s.updWin w fun q => { q with fifo := rest }))) ∧
       (∀ why, parseBody w false 0 text = .error why →
         exec (.lineParse w e) s = .next ((s.updWin w fun q => { q with fifo := rest }).ignore w {} why))) ∧
     ((s.win w).held = some (.cmd i) → s.waitsFor i = false →
       exec (.parserResume w e) s = .next (runVerb (scrubbing e i) (s.updWin w fun q => { q with held := none })))) ∧
  (∀ (i : Instr) (l : LineCtx) (p : Part) (cs : List Court) (il : Bool), scrubbing false i = i ∧
     scrubbing true (.part l p cs il) = .part l p cs il true ∧ scrubbing true (.free l p) = .free l p true)

/-- R276, R277, R284, R286, R295, R422: on a locked window the parser takes the next line from the UART's assembler, or else
from the input FIFO up to its LF, and checks its MAC when nothing stops it: a line whose MAC does not verify is ignored with
BAD_MAC and leaves the line sequence number and every partition as they are, unless it is a null line without a suffix, which
does nothing; every line whose MAC verifies advances the number, and is judged without its suffix: a line with lost bytes, or
whose bytes break a rule by themselves, is ignored with that reason, any other one is what the grammar makes of it. The order
of reasons: assumption 13. -/
def Obligations.LockedWindowChecksMacs : Prop :=
  ∀ (s : State) (p : Part) (r : RawLine) (k : Session), (s.part p).session = some k →
    let body := (splitMac r.bytes).1
    let mac := (splitMac r.bytes).2
    let good := mac = some ((hmac384 k.kIn (leBytes 8 (s.part p).rxSeq ++ body)).take 8)
    let next := s.updPart p fun q => { q with rxSeq := q.rxSeq + 1 }
    let l : LineCtx := { uart := r.uart, num := r.num }
    (r.null body mac.isSome = true → s.takeLine p r = s) ∧
    (r.null body mac.isSome = false → ¬ good →
      s.takeLine p r = s.ignore p l .badMac ∧ (s.takeLine p r).parts = s.parts) ∧
    (good → s.takeLine p r = next.judge p r body true true ∧
      (r.ovf = true → s.takeLine p r = next.ignore p l .overrun) ∧
      (r.ovf = false → r.breaks = [] → s.takeLine p r = match parseBody p r.uart r.num (lineText body) with
        | .error e => next.ignore p l e
        | .ok i => runVerb i next)) ∧
    ((s.win p).held = none → s.mute = false → s.stopped p = false → ∀ e : Bool,
      ((s.win p).uline = some r →
        exec (.lineParse ⟨p, by omega⟩ e) s = .next ((s.updWin p fun q => { q with uline := none }).takeLine p r e)) ∧
      (∀ text rest, (s.win p).uline = none → (s.win p).fifo = text.map .byte ++ .byte 10 :: rest →
        (∀ b ∈ text, b ≠ 10 ∧ b ≠ 13) →
        exec (.lineParse ⟨p, by omega⟩ e) s =
          .next ((s.updWin p fun q => { q with fifo := rest, asm := [], asmOver := false }).takeLine p
            { bytes := (s.win p).asm ++ text, ovf := (s.win p).asmOver } e)) ∧
      ((s.win p).uline = none → (∀ i ∈ (s.win p).fifo, i ≠ .byte 10) →
        ∃ t, exec (.lineParse ⟨p, by omega⟩ e) s = .next t ∧ (t.win p).fifo = [] ∧ t.parts = s.parts ∧ t.out = s.out))

/-- R267, R268, R269, R283, R505, R507, R508, R373: the registers of a window on a request that its page serves: CMDIN
appends the enabled bytes of a write or discards them all and marks the loss; REPLYOUT removes what it returns and reads
zeros beyond, and zeros alone where a read begins elsewhere; RIE set while the reply buffer holds bytes sends one message;
lines lost are reported once 256 bytes are free, on a partition's window not during a device fault (R454); other writes do
nothing. What leaves w8 brings the end of a reply to `reset` nearer (R317). R269, R279, R281, R283, R296: a line that a
window writes over the host link joins its reply buffer whole, with its LF and, on a locked window, its MAC, or is lost and
counted whole; it touches no other window, no memory and no cluster. -/
def Obligations.WindowRegistersAndReplies : Prop :=
  (∀ (s : State) (w : Win) (sid : Sid) (data : List Byte) (wr : List (Option Byte)) (n off : Nat) (v : Word),
     s.host.dlUp = true →
     (let bytes := wr.filterMap id
      bytes ≠ [] → off + wr.length ≤ 64 → exec (.cmdinWrite w sid wr off) s = .next (s.updWin w fun q =>
        if bytes.length ≤ q.credit then { q with fifo := q.fifo ++ bytes.map .byte }
        else { q with fifo := q.fifo ++ [.overrun] })) ∧
     (s.pageOpen w sid = true →
       (1 ≤ n → n ≤ 64 → exec (.replyoutRead w sid 0x40 n) s =
         .next (((if w = 8 then s.updDev (·.replyLeft false n) else s).updWin w fun q => { q with reply := q.reply.drop n }).send
           (.data ((s.win w).reply.take n ++ List.replicate (n - (s.win w).reply.length) 0) false))) ∧
       ((v.toNat % 2 = 1 → (s.win w).rie = false → (s.win w).reply ≠ [] →
         exec (.winctlWrite w sid v) s = .next ((s.updWin w fun q => { q with rie := true }).msix (17 + w))) ∧
        (v.toNat % 2 = 0 → exec (.winctlWrite w sid v) s = .next (s.updWin w fun q => { q with rie := false })) ∧
        (v.toNat % 2 = 1 → ((s.win w).rie = true ∨ (s.win w).reply = []) →
         exec (.winctlWrite w sid v) s = .next (s.updWin w fun q => { q with rie := true })))) ∧
     (0x40 < off → off < 0x80 → 1 ≤ n → n ≤ 64 →
       exec (.replyoutRead w sid off n) s = .next (s.send (.data (List.replicate n 0) false))) ∧
     exec (.registerWriteIgnored off data) s = .next s ∧
     ((s.win w).lost ≠ 0 → (s.win w).reply.length + 256 ≤ 4096 → w ≠ 8 → exec (.evLost (some w)) s =
       .next (if s.dev.dfault.isSome then s
         else (s.updWin w fun q => { q with lost := 0 }).emit w false (evLine {} [asc "lost", kn "n" (s.win w).lost]))) ∧
     ((s.win 8).lost ≠ 0 → (s.win 8).reply.length + 256 ≤ 4096 → exec (.evLost (some 8)) s =
       .next (((s.updWin 8 fun q => { q with lost := 0 }).emit 8 false
         (evLine {} [asc "lost", kn "n" (s.win 8).lost])).msix 0)) ∧
     (s.uart.lost ≠ 0 → s.uart.tx.length + 256 ≤ 4096 → exec (.evLost none) s =
       .next ((s.updUart fun u => { u with lost := 0 }).emit 8 true (evLine {} [asc "lost", kn "n" s.uart.lost])))) ∧
  (∀ (s : State) (w : Win) (line : List Byte), s.sized = true →
     let bytes := s.signedLine w line ++ [10]
     let t := s.emit w false line
     (t.win w).reply = (if (s.win w).reply.length + bytes.length ≤ 4096 then (s.win w).reply ++ bytes else (s.win w).reply) ∧
     (t.win w).lost = (if (s.win w).reply.length + bytes.length ≤ 4096 then (s.win w).lost else (s.win w).lost + 1) ∧
     (∀ v, v ≠ w.val → t.win v = s.win v) ∧ t.cl = s.cl ∧ t.dram = s.dram ∧ t.uart = s.uart ∧
     (∀ p, (t.part p).txSeq = if (s.winKey w).isSome = true ∧ p = w.val then (s.part p).txSeq + 1 else (s.part p).txSeq))

/-- R272 to R274: a byte on CMD_RXD enters the receive FIFO, or marks its line as lost when the FIFO is full; CMD_CTS_N is
deasserted at 768 bytes and asserted below 256; a complete line goes to the window its prefix names, without the prefix, or
to w8; a prefix of another form is ignored there; CMD_RTS_N asserted sends what waits, and brings the
end of a reply to `reset` nearer (R317); under EXTEST the boundary register drives CMD_TXD (R500). -/
def Obligations.UartReceivesAndRoutes : Prop :=
  ∀ (s : State) (b d : Byte) (text : List Byte) (on : Bool), s.sized = true → s.mute = false →
    (s.uart.echo = false → ∃ t, exec (.uartByteReceive b) s = .next t ∧ t.parts = s.parts ∧ t.out = s.out ∧
      (fifoCount s.uart.rx ≥ 1024 → t.uart = { s.uart with rx := s.uart.rx ++ [.overrun] }) ∧
      (fifoCount s.uart.rx < 1024 → t.uart.cts =
        (if fifoCount t.uart.rx ≥ 768 then false else if fifoCount t.uart.rx < 256 then true else s.uart.cts)) ∧
      (s.uart.rx = [] → s.uart.full = false → b ≠ 10 → b ≠ 13 → t.uart.asm = s.uart.asm ++ [b] ∧ t.uart.rx = [])) ∧
    (s.uart.asm = text ++ [10] → s.uart.asmOver = false → s.uart.rx = [] →
      (∀ w : Fin 8, text.take 3 = [112, byteOf (48 + w), 58] → s.boundary w = true →
        ∃ t, exec .uartLineHandoff s = .next t ∧ t.uart.asm = [] ∧ t.uart.lines = s.uart.lines + 1 ∧
          (t.win w).uline = some { bytes := (text.drop 3).dropWhile isSpace, uart := true, num := s.uart.lines + 1 }) ∧
      ((∀ a r, text ≠ 112 :: a :: 58 :: r) → s.boundary 8 = true →
        ∃ t, exec .uartLineHandoff s = .next t ∧ t.uart.asm = [] ∧
          (t.win 8).uline = some { bytes := text, uart := true, num := s.uart.lines + 1 }) ∧
      (∀ r, text = 112 :: d :: 58 :: r → (d.toNat < 48 ∨ 55 < d.toNat) → text.length < 200 → hasBadChar text = false →
        (splitMac text).2 = none →
        ∃ t, exec .uartLineHandoff s = .next t ∧ (t.win 8).ign = min 0xFFFFFFFF ((s.win 8).ign + 1) ∧
          (t.win 8).ignWhy = 0x0F)) ∧
    (s.uart.tx = [] → exec (.cmdRtsN on) s = .next (s.updUart fun u => { u with rts := on })) ∧
    (s.uart.tx ≠ [] → exec (.cmdRtsN true) s =
      .next ((((if s.extest then s else s.send (.uart s.uart.tx)).updUart fun u => { u with rts := true, tx := [] })).updDev
        (·.replyLeft true s.uart.tx.length))) ∧
    (∀ (u : Bool) (n : Nat), s.dev.replyLeft u n = { s.dev with
      resetIn := s.dev.resetIn.map fun e => if e.1 = u then (u, e.2 - n) else e })

/-! ## The host -/

/-- R371, R372, R511: RINGBASE and RINGSIZE take effect while EN is 0 and are ignored while it is 1; setting EN zeroes both
indices where a size stands, and is ignored where none does; an entry is written at the producer index with its PHASE, which
then advances. R368, R373, R469: a pending message is sent once its vector is unmasked, MSI-X enabled and Bus Master Enable
set, with the address and data of its table entry, and is then no longer pending; a Function Level Reset clears Bus Master
Enable, MSI-X with its table, every ring enable, and ends every open job that uses the host. R346, R514: a vector is masked
again, and its entry written, with the rest as it stands; AER's status bits are cleared by writing 1, and its messages
enabled. That viral and AER are written with Bus Master Enable, and the table's reset value, are the model's (assumptions 17
and 29); what the merging reads of done words meet is free (assumption 2). -/
def Obligations.RingMessagesAndFunctionReset : Prop :=
  (∀ (s : State) (p : Part) (sid : Sid) (lo hi v : Word) (cie : Bool) (obs : HwObs), s.sized = true → s.host.dlUp = true →
     (s.pageOpen p sid = true →
       exec (.ringbaseWrite p sid (some lo) (some hi)) s = .next (s.updPart p fun q =>
         if q.ringEn then q
         else { q with ringBase := BitVec.ofNat 64 (hi.toNat * 2 ^ 32 + lo.toNat / 4096 * 4096) }) ∧
       exec (.ringsizeWrite p sid v) s = .next (s.updPart p fun q =>
         if q.ringEn ∨ v.toNat % 32 < 7 ∨ 16 < v.toNat % 32 then q else { q with ringLog2 := v.toNat % 32 }) ∧
       exec (.ringEnable p sid cie) s = .next (s.updPart p fun q =>
         if q.ringEn then { q with ringCie := cie }
         else if q.ringLog2 < 7 ∨ 16 < q.ringLog2 then q
         else { q with ringEn := true, ringCie := cie, prod := 0, cons := 0 }) ∧
       exec (.ringCieWrite p sid cie) s = .next (s.updPart p fun q => { q with ringCie := cie }) ∧
       (∃ t, exec (.ringDisable p sid cie) s = .next t ∧ (t.part p).ringEn = false ∧ (t.part p).ringCie = cie ∧
         (t.part p).prod = (s.part p).prod ∧ (t.part p).cons = (s.part p).cons) ∧
       (∃ t, exec (.ringconsWrite p sid v) s = .next t ∧ (t.part p).cons = v)) ∧
     (∀ r, (s.part p).reports = [r] → r.done = none → (s.part p).ringEn = true → (s.part p).ringFull = false →
       s.host.bme = true → s.dev.dfault = none →
       ∃ t, exec (.ringEntryWrite p obs) s = .next t ∧ (t.part p).prod = (s.part p).prod + 1 ∧ (t.part p).reports = [] ∧
         .hostWrite (s.part p).ringAt.1 (r.bytes p (s.part p).ringAt.2) ∈ t.out ∧ t.dram = s.dram)) ∧
  (∀ (s : State) (v : Fin 32) (en viral : Bool) (entry : Option (BitVec 64 × Word)) (on : Bool) (clear : Word),
     s.sized = true → s.host.dlUp = true →
     s.host.masks.length = 32 → s.host.table.length = 32 →
     let e := entry.getD (tget (0, 0) s.host.table v)
     let open_ (h : HostLink) : HostLink := { h with masks := h.masks.set v false, msixEn := en, table := h.table.set v e }
     (en = true → s.host.bme = true → tget false s.host.pend v = true →
       exec (.msixUnmask v en entry) s =
         .next ((s.updHost fun h => { open_ h with pend := h.pend.set v false }).send (.msix v e))) ∧
     ((en = false ∨ s.host.bme = false ∨ tget false s.host.pend v = false) →
       exec (.msixUnmask v en entry) s = .next (s.updHost open_)) ∧
     exec (.msixUnmask v en entry (some true)) s = .next (s.updHost fun h => { open_ h with masks := h.masks.set v true }) ∧
     (tget true s.host.masks v = true →
       exec (.msixUnmask v en entry none) s = .next (s.updHost fun h => { open_ h with masks := h.masks })) ∧
     (∃ t, exec (.busMasterEnableSet viral (some (on, clear))) s = .next t ∧ t.host.bme = true ∧ t.host.aerEn = on ∧
       t.host.aerUnc = s.host.aerUnc &&& ~~~clear) ∧
     (∃ t, exec (.busMasterEnableSet viral) s = .next t ∧ t.host.bme = true ∧ t.host.viralEn = (s.host.viralEn || viral) ∧
       t.host.aerEn = s.host.aerEn ∧ t.host.aerUnc = s.host.aerUnc ∧
       (s.host.msixEn = true → tget true s.host.masks v = false → tget false s.host.pend v = true →
         .msix v (tget (0, 0) s.host.table v) ∈ t.out ∧ tget false t.host.pend v = false)) ∧
     (∃ t, exec .functionLevelReset s = .next t ∧ t.host.bme = false ∧ t.host.msixEn = false ∧
       t.host.masks = List.replicate 32 true ∧ t.host.pend = List.replicate 32 false ∧ t.host.table = List.replicate 32 (0, 0) ∧
       (∀ p, (t.part p).ringEn = false) ∧ ∀ p < 8, ∀ j ∈ (t.part p).jobs, j.kind = 2 ∨ j.status ≠ none))

/-- R348: the HDM decoder takes one range of 24 GiB on a 256 MiB boundary, one way, with back-invalidation, and nothing else;
it never covers the addresses at and above 0x6_0000_0000 (R41). R341, R342, R348 to R350: a CXL.mem read of a line that may
be read answers its 64 bytes, or poison; one that lets the host keep the line enters it in the court's snoop filter. A write
stores exactly the enabled bytes; one with poison marks its line as written by the host and stores nothing. A
back-invalidation response removes the line and stores what the host held modified. Readings of host accesses: assumption 23.
-/
def Obligations.CxlMemory : Prop :=
  (∀ (s : State) (base size ways hpa a : Nat) (bi : Bool), s.host.dlUp = true → s.host.cxl = true →
     exec (.hdmDecoderCommit base size ways bi) s = .next (s.updHost fun h =>
       if size = 0x600000000 ∧ base % 2 ^ 28 = 0 ∧ ways = 1 ∧ bi = true then
         { h with hdm := some base, hdmErr := false, biEn := true, hdmSet := (base, size, ways) }
       else { h with hdm := none, hdmErr := true, biEn := bi, hdmSet := (base, size, ways) }) ∧
     (s.decoded hpa = some a → a < 0x600000000 ∧ ∃ b, s.host.hdm = some b ∧ hpa = b + a)) ∧
  (∀ (s : State) (hpa a : Nat) (sid : Sid) (data : List Byte) (en : Nat) (obs : HwObs),
     s.host.dlUp = true → s.dev.ready = true → s.memOk = true → s.sized = true →
     (s.host.cxl = true → s.decoded hpa = some a → s.hostMay sid a = true →
       (let u := s.observe obs [a / 64]
        let reply : Output := if (u.cause (a / 64)).isSome then .data [] true
          else .data ((List.range 64).map fun k => s.rdDa (64 * (a / 64) + k)) false
        exec (.cxlMemRead hpa sid false obs) s = .next (u.send reply) ∧
        ((s.court (a / courtBytes)).mustEvict (a / 64) = none →
         ∃ t, exec (.cxlMemRead hpa sid true obs) s = .next t ∧ a / 64 ∈ (t.court (a / courtBytes)).snoop ∧
           t.out = s.out ++ [reply] ∧ t.dram = s.dram)) ∧
       (s.inSlot a = false → data.length = 64 → obs = {} → s.cause (a / 64) = none →
         ∃ t, exec (.cxlMemWrite hpa sid data en false obs) s = .next t ∧ t.out = s.out ∧ t.parts = s.parts ∧
           ∀ b, t.rdDa b = (lastAt (enabled (64 * (a / 64)) data en) b).getD (s.rdDa b)) ∧
       (s.inSlot a = false → data.length = 64 → (∃ i < 64, bit en i = true) →
         ∃ t, exec (.cxlMemWrite hpa sid data en true obs) s = .next t ∧ t.cause (a / 64) = some .host ∧ t.dram = s.dram)) ∧
     (a / 64 ∈ s.host.biSent → s.inSlot (64 * (a / 64)) = false → data.length = 64 → a < hdmBytes →
       ∃ t, exec (.birsp a (some data)) s = .next t ∧ a / 64 ∉ t.host.biSent ∧
         a / 64 ∉ (t.court (64 * (a / 64) / courtBytes)).snoop ∧
         ∀ b, t.rdDa b = (lastAt (cellsAt (64 * (a / 64)) data) b).getD (s.rdDa b)))

/-- R41: no court has a byte at or above 0x6_0000_0000, the HDM decoder range never covers these addresses, BAR4 reads of
them return zeros, and BAR4 writes to them change nothing (R520), but that AER logs a write with EP (R346). The bits of AER's
register are the model's (assumption 29, PRESUMED). -/
def Obligations.TheHoleHoldsNoMemory : Prop :=
  ∀ (s : State) (a n : Nat) (sid : Sid) (data : List Byte) (ep : Bool) (holes : List Nat) (obs : HwObs),
    0x600000000 ≤ a →
    (s.courtsOk = true → s.owner (a / courtBytes) = none) ∧ (∀ hpa, s.decoded hpa ≠ some a) ∧
    (s.host.dlUp = true → s.host.cxl = false → s.dev.ready = true → a + n ≤ 0x800000000 → 1 ≤ n → a % 64 + n ≤ 64 →
      data.length = n →
      exec (.bar4Read a n sid obs) s = .next (s.send (.data (List.replicate n 0) false)) ∧
      exec (.bar4Write a data sid ep obs holes) s = .next (if ep then s.aer 12 else s))

/-- R355, R471, R520: BAR4 reads and writes device memory directly where the link is PCIe, a write only the bytes that its byte
enables name; before ready reads are poisoned and writes dropped. R346: AER logs a write with EP, and sends a message where
the host has enabled it (bits: assumption 29). -/
def Obligations.Bar4Access : Prop :=
  ∀ (s : State) (off n : Nat) (sid : Sid) (data : List Byte) (ep : Bool) (holes : List Nat) (obs : HwObs),
    s.host.dlUp = true → s.host.cxl = false → 1 ≤ n → off % 64 + n ≤ 64 → data.length = n → off + n ≤ 0x600000000 →
    s.memOk = true →
    (s.dev.ready = true → s.hostMay sid off = true → s.cause (off / 64) = none → obs = {} →
      exec (.bar4Read off n sid obs) s = .next (s.send (.data ((List.range n).map fun k => s.rdDa (off + k)) false)) ∧
      (s.inSlot off = false → ∃ t, exec (.bar4Write off data sid false obs holes) s = .next t ∧ t.out = s.out ∧
        t.parts = s.parts ∧ ∀ b, t.rdDa b =
          if b - off ∈ holes then s.rdDa b else (lastAt (cellsAt off data) b).getD (s.rdDa b))) ∧
    (s.dev.ready = false → exec (.bar4Read off n sid obs) s = .next (s.send (.data [] true)) ∧
      exec (.bar4Write off data sid ep obs holes) s = .next (if ep then s.aer 12 else s)) ∧
    s.aer 12 = (let t := s.updHost fun h => { h with
        aerUnc := h.aerUnc ||| 0x1000, aerPtr := if h.aerUnc = 0 then 12 else h.aerPtr }
      if s.host.aerEn then t.send (.errMsg 12) else t)

/-- R353, R354, R424, R425: KEY_PROG writes one key of a slot that no locked partition owns; K_SET_GO makes a slot with all
six keys of the set secure; leaving the secure state drops the keys and, for a locked slot, raises the generation, whose
derived keys the next K_SET_GO installs; AER logs an integrity failure (R346; bit: assumption 29). Readings of IDE: assumption
19. -/
def Obligations.IdeStreamSlots : Prop :=
  ∀ (s : State) (e : Fin 2) (k : Fin 9) (p : Part) (set dir : Bool) (sub : Fin 3) (key : List Byte) (z : Session),
    s.sized = true →
    ((s.ideSlot k).secure = true → ∃ t, exec (.ideIntegrityFailure k) s = .next t ∧ (t.ideSlot k).secure = false ∧
      (t.ideSlot k).keys = [] ∧ (t.ideSlot k).fails = min 0xFFFF ((s.ideSlot k).fails + 1) ∧
      (t.ideSlot k).gen = (if s.slotLocked k then (s.ideSlot k).gen + 1 else (s.ideSlot k).gen) ∧
      t.host.aerUnc = s.host.aerUnc ||| 0x10000000 ∧ ∀ j, j ≠ k.val → t.ideSlot j = s.ideSlot j) ∧
    (s.doeOpen = true → tget 0 s.spdm.sess e = 2 →
      (s.slotLocked k = false → key.length = 32 →
        exec (.ideKmKeyProg e k set dir sub key) s = .next ((s.updIde k fun x =>
          { x with keys := x.keys.filter (·.1 != ideAt set dir sub) ++ [(ideAt set dir sub, key)] }).spdmReply (.ideKm true))) ∧
      (s.slotLocked k = true → exec (.ideKmKeyProg e k set dir sub key) s = .next (s.spdmReply (.ideKm false))) ∧
      ((s.ideSlot k).hasSet set = true → exec (.kSetGo e k set) s =
        .next ((s.updIde k fun x => { x with secure := true, cur := set }).spdmReply (.ideKm true))) ∧
      ((s.part p).session = some z → (s.ideSlot p).keys = [] →
        exec (.kSetGo e ⟨p, by omega⟩ set) s = .next ((s.updIde p fun x =>
          { x.derived z.prk p (s.ideSlot p).gen set with secure := true, cur := set }).spdmReply (.ideKm true))) ∧
      ((s.ideSlot k).secure = true → (s.ideSlot k).cur = set →
        exec (.kSetStop e k set) s = .next ((s.updIde k fun x => { x with
          secure := false, keys := [], gen := if s.slotLocked k then x.gen + 1 else x.gen }).spdmReply (.ideKm true))))

/-- R426, R427: the responder negotiates version, capabilities and algorithms in order, answers digests, certificate bytes
of slot 0, a challenge, measurements; FINISH with a good MAC establishes a session, in which heartbeats, key updates, the
end of the session and IDE_KM are served. R346: a mailbox command that is not mandatory, or that injects poison or lists it,
is answered Unsupported; the mailbox keeps its last answer. The transcript, the Finish check and the mailbox contents are
free (assumption 7), the opcodes of the poison commands and the number 0x03 of the code are taken from CXL 3.1 (assumption 29);
other readings: assumption 19. -/
def Obligations.SpdmAndMailbox : Prop :=
  (∀ (s : State) (e : Fin 2) (nonce pub mac : List Byte) (off len i code : Nat), s.doeOpen = true →
     exec .getVersion s = .next ((s.updSpdm fun _ => { version := true }).spdmReply .version) ∧
     (s.spdm.version = true →
       exec .getCapabilities s = .next ((s.updSpdm fun d => { d with caps := true }).spdmReply .capabilities)) ∧
     (s.spdm.caps = true → exec (.negotiateAlgorithms true true true) s =
       .next ((s.updSpdm fun d => { d with algs := true }).spdmReply .algorithms)) ∧
     exec (.spdmUnsupportedRequest code) s = .next (s.spdmReply (.unsupported 7)) ∧
     (s.spdm.algs = true →
       exec .getDigests s = .next (s.spdmReply (.digests (sha384 Config.certChain))) ∧
       exec (.getCertificate 0 off len) s = .next (s.spdmReply (.certificate ((Config.certChain.drop off).take len))) ∧
       (nonce.length = 32 → exec (.challenge 0 nonce) s =
         .next (s.fresh.spdmReply (.challengeAuth (ecdsaSign Config.cohortKey (s.secret 0)
           (Config.spdmTranscript s.free 0 nonce))))) ∧
       ((i ≤ 6 ∨ i = 255) → exec (.getMeasurements i false nonce) s =
         .next (s.spdmReply (.measurements (s.measure.filter fun b => i == 255 || b.1 == i) []))) ∧
       (∀ j, s.spdm.sess.idxOf? 0 = some j → ∃ t, exec (.keyExchange pub) s = .next t ∧ t.parts = s.parts ∧ t.dev = s.dev ∧
         t.spdm = match ecdh (s.secret 1) pub with | some z => s.spdm.setSess j 1 z | none => s.spdm) ∧
       (tget 0 s.spdm.sess e = 1 → exec (.finish e mac) s = .next (
         if Config.spdmFinishOk (tget [] s.spdm.secrets e) mac then
           (s.updSpdm fun d => { d with sess := d.sess.set e 2 }).spdmReply .finish
         else (s.updSpdm fun d => d.setSess e 0 []).spdmReply .invalid))) ∧
     (tget 0 s.spdm.sess e = 2 →
       exec (.heartbeat e) s = .next (s.spdmReply .heartbeatAck) ∧
       exec (.keyUpdate e) s =
         .next ((s.updSpdm fun d => { d with updates := d.updates.modify e (· + 1) }).spdmReply .keyUpdateAck) ∧
       exec (.endSession e) s = .next ((s.updSpdm fun d => d.setSess e 0 []).spdmReply .endSessionAck) ∧
       exec (.vendorDefinedRequest e none) s = .next (s.spdmReply (.unsupported 7)) ∧
       (∀ k set, exec (.vendorDefinedRequest e (some (.setGo k set))) s = exec (.kSetGo e k set) s ∧
         exec (.vendorDefinedRequest e (some (.setStop k set))) s = exec (.kSetStop e k set) s) ∧
       ∀ k set dir sub key, exec (.vendorDefinedRequest e (some (.keyProg k set dir sub key))) s =
         exec (.ideKmKeyProg e k set dir sub key) s)) ∧
  (∀ (s : State) (op : Nat), s.host.dlUp = true → s.host.cxl = true → 
     let back (code : Nat) (b : List Byte) : State :=
       (s.updHost fun h => { h with mbox := some (op, code, b) }).send (.mailbox code b)
     exec (.mailboxCommand op) s = .next (
       if Config.mailboxMandatory op = true ∧ op ∉ poisonOpcodes then (back 0 (Config.mailboxReturn op s.free)).fresh
       else back 0x03 []))

/-! ## Launches and the operations of every stream -/

/-- R167, R208, R256, R292, R80: the launch at the head of the queue starts: every stream of every cluster starts at its
first long word with A0 to A2 as R167 gives them and all else zero, every region is EMPTY, tokens, counters E0 to E3, timers,
tally sets and vector registers are zero, scratchpads and E4 to E7 stay; committed partition settings take effect, and
committed rally settings where the ports are idle. R152, R257, R259, R331: a launch whose streams have all ended, with
nothing in flight, ends: it runs no more and its tally copy is kept. Its report follows: the record of R369 stands at the
done word, where one is given, unless that line is poisoned (R342); then the ring entry, the `ev done` line and the message
of the ring, which all wait while the ring is full or Bus Master Enable 0 (R368, R372). A deadline that expires before the
end faults the partition with DEADLINE. -/
def Obligations.LaunchesStartAndEnd : Prop :=
  (∀ (s : State) (p : Part) (la : Launch) (rest : List Launch), s.sized = true → s.courtsOk = true →
     s.mayStart p = true → (s.part p).queue = la :: rest →
     ∃ t, exec (.launchStart p) s = .next t ∧ (t.part p).queue = rest ∧
       (t.part p).set = (s.part p).pendP.getD (s.part p).set ∧ (t.part p).pendP = none ∧
       (t.part p).tickets = (if la.gated then (s.part p).tickets - 1 else (s.part p).tickets) ∧
       (∃ r, (t.part p).run = some r ∧ r.la = la ∧ r.ctx = ((s.part p).pendP.getD (s.part p).set).ctx.with la.nc ∧
         r.suspect = 0 ∧ ((s.part p).breaks = [] → r.stop = .running)) ∧
       (∀ i < (s.part p).clusters.length,
         let k := t.clu ((s.part p).glob i)
         let o := s.clu ((s.part p).glob i)
         let regs := [BitVec.ofNat 48 la.args, BitVec.ofNat 48 i, BitVec.ofNat 48 (s.part p).clusters.length]
         k.streams.length = 5 ∧
         (∀ j < 5, k.str j = { ended := false, fetch := (k.str j).fetch, a := regs ++ List.replicate 13 0 } ∧
           (k.str j).fetch.q.head?.getD 0 = 0) ∧
         k.regions = [] ∧ k.tokens = List.replicate 64 0 ∧ k.tally = List.replicate 16 {} ∧ k.vr = [] ∧ k.sp = o.sp ∧
         k.w = List.replicate 4 {} ∧ k.e.take 4 = List.replicate 4 {} ∧ k.e.drop 4 = o.e.drop 4 ∧ k.icache = o.icache) ∧
       (∀ r, (s.part p).pendR = some r → s.rallyIdle p = true → (t.part p).rally = r ∧ (t.part p).pendR = none) ∧
       t.dram = s.dram ∧ t.out = s.out) ∧
  (∀ (s : State) (p : Part) (r : Running) (obs : HwObs), s.sized = true → s.courtsOk = true → (s.part p).run = some r →
     (s.part p).stat = .up →
     (s.dev.dfault = none → s.launchOver p = true → r.stop = .running →
       let q := s.part p
       let line := evLine r.la.ctx [asc "done"]
       let rep : Report :=
         { tag := r.la.ctx.tag.getD 0, status := 1, code := 0, flags := b2n r.la.b, suspect := r.suspect
           tally := s.tallySum p, seq := r.la.seq, runtime := s.runtime, done := r.la.done, line := line, ctx := r.la.ctx
           faultVec := false, recorded := false }
       let waits := q.ringEn = true ∧ (q.ringFull = true ∨ s.host.bme = false)
       ∃ t, exec (.launchEnd p obs) s = .next t ∧ (t.part p).run = none ∧
         (∃ c, (t.part p).copy = some c ∧ c.tag = r.la.ctx.tag ∧ c.seq = r.la.seq ∧ c.sets = s.tallySets p) ∧
         (q.reports = [] → (∀ pa, r.la.done = some pa → s.snooped [q.da pa / 64] = []) →
           (r.la.done = none → t.dram = s.dram) ∧
           (∀ pa, r.la.done = some pa → s.poison = [] → obs.dramUe = [] → obs.ccUe = [] → s.memOk = true → ∀ a, t.rdDa a =
             (lastAt ((cellsAt pa (rep.bytes p false)).map fun c => (q.da c.1, c.2)) a).getD (s.rdDa a)) ∧
           (∀ pa, r.la.done = some pa → s.cause (q.da pa / 64) ≠ none → pa % 32 = 0 → t.dram = s.dram) ∧
           (waits → (t.part p).reports = [{ rep with recorded := true }] ∧
             (q.haltReply = none → t.out = s.out ∧ t.windows = s.windows)) ∧
           (¬ waits → (t.part p).reports = [] ∧
             (q.ringEn = true → (t.part p).prod = q.prod + 1 ∧ .hostWrite q.ringAt.1 (rep.bytes p q.ringAt.2) ∈ t.out) ∧
             (q.ringCie = true → s.host.msixEn = true → tget true s.host.masks (1 + p) = false → s.host.bme = true →
               .msix (1 + p) (tget (0, 0) s.host.table (1 + p)) ∈ t.out) ∧
             (r.la.ctx.uart = false → q.haltReply = none →
               (s.win p).reply.length + (s.signedLine p line ++ [10]).length ≤ 4096 →
               (t.win p).reply = (s.win p).reply ++ s.signedLine p line ++ [10]))) ∧
         ∀ g, (t.clu g).sp = (s.clu g).sp) ∧
     (s.launchOver p = false → r.stop = .running →
       ∃ t, exec (.deadlineExpire p) s = .next t ∧ (t.part p).state = 4 ∧ (t.part p).ffCode = 0x05))

/-- R155: which uses a region admits, and what their issue and completion make of it. R157, R159: an engine whose own
conditions hold asks the remote scoreboard once, and not while it holds a grant; the first request in order of arrival whose
regions admit it is granted with its issue events, also behind others that wait, and those before it and behind it go on
waiting; a release applies its completion events. That requests, grants and releases are steps of their own is the model's
(assumption 1). -/
def Obligations.RegionsAndRemoteGrants : Prop :=
  (∀ (n : Nat),
     (∀ st, (RUse.admits .fill ⟨st, n⟩ = true ↔ st = .empty) ∧ (RUse.admits .read ⟨st, n⟩ = true ↔ st = .full) ∧
       (RUse.admits .consume ⟨st, n⟩ = true ↔ st = .full) ∧ (RUse.admits .update ⟨st, n⟩ = true ↔ st = .full ∧ n = 0)) ∧
     RUse.issue .fill ⟨.empty, 0⟩ = ⟨.filling, 0⟩ ∧ RUse.issue .read ⟨.full, n⟩ = ⟨.full, n + 1⟩ ∧
     RUse.issue .consume ⟨.full, n⟩ = ⟨.draining, n + 1⟩ ∧ RUse.issue .update ⟨.full, 0⟩ = ⟨.filling, 0⟩ ∧
     RUse.complete .fill ⟨.filling, 0⟩ = ⟨.full, 0⟩ ∧ RUse.complete .update ⟨.filling, 0⟩ = ⟨.full, 0⟩ ∧
     RUse.complete .read ⟨.full, n + 1⟩ = ⟨.full, n⟩ ∧ RUse.complete .consume ⟨.draining, n + 2⟩ = ⟨.draining, n + 1⟩ ∧
     RUse.complete .read ⟨.draining, n + 2⟩ = ⟨.draining, n + 1⟩ ∧ RUse.complete .read ⟨.draining, 1⟩ = ⟨.empty, 0⟩ ∧
     RUse.complete .consume ⟨.draining, 1⟩ = ⟨.empty, 0⟩) ∧
  (∀ (s : State) (g : Clu) (st : Strm) (h : Head) (c : Nat) (d : Decl), s.sized = true →
     (s.head g st = some h → h.remote = some (c, d) → localReady s h g st = true → h.lw.noscore = false →
       (s.str g st).asked = false → s.holdsGrant h.p g st = false →
       ((s.clu ((s.part h.p).glob c)).reqs.length < 64) →
       exec (.remoteRequest g st) s = .next ((s.updClu ((s.part h.p).glob c) fun k =>
         { k with reqs := k.reqs ++ [⟨g, st, d⟩] }).updStr g st fun t => { t with asked := true })) ∧
     (s.head g st = some h → s.holdsGrant h.p g st = true → exec (.remoteRequest g st) s = .next s) ∧
     (∀ before r behind p, (s.clu g).reqs = before ++ r :: behind → (∀ q ∈ before, (s.clu g).admits q.uses = false) →
       (s.clu g).admits r.uses = true → s.ownerG g = some p →
       exec (.remoteGrant g) s =
         .next ((s.updClu g fun k => { k.regionIssue r.uses with reqs := before ++ behind }).updStr r.frm r.str
           fun t => { t with grant := some ((s.part p).rel g, r.decl) })) ∧
     ((∀ q ∈ (s.clu g).reqs, (s.clu g).admits q.uses = false) → exec (.remoteGrant g) s = .next s) ∧
     (∀ r rs, (s.clu g).rels = r :: rs → exec (.remoteRelease g) s = .next (s.updClu g fun k =>
       { k.regionComplete (if r.str = 4 then usesOf [] (some r.decl) else usesOf [r.decl] none) with rels := rs })))

/-- R150, R151, R156, R162, R235: each operation that every stream may hold issues: it is counted and in flight, its
declarations' issue events are applied together, its wait token falls by one; no scratchpad, no vector register, no memory
and no other cluster changes. -/
def Obligations.CommonOperationsIssue : Prop :=
  ∀ (s : State) (g : Clu) (st : Strm) (op : Op) (c : Instr) (h : Head), s.sized = true →
    (op, c) ∈ [(Op.nop, Instr.nop g st), (.sync, .sync g st), (.loop, .loop g st), (.br, .br g st), (.aop, .aop g st),
      (.eop, .eop g st), (.top, .top g st), (.qcmp, .qcmp g st), (.brk, .brk g st), (.fin, .fin g st)] →
    s.issuing g st op = some h →
    ∃ t, exec c s = .next t ∧ (t.str g st).issued = (s.str g st).issued + 1 ∧
      (t.str g st).flight = (s.str g st).flight ++ [h.flight (s.str g st) .nothing] ∧
      (t.clu g).regions = ((s.clu g).regionIssue (localUses op h.lw)).regions ∧
      (t.clu g).tokens = (match h.lw.waitTok with
        | some k => (s.clu g).tokens.modify k (· - 1)
        | none => (s.clu g).tokens) ∧
      (t.clu g).sp = (s.clu g).sp ∧ (t.clu g).vr = (s.clu g).vr ∧ (t.clu g).tally = (s.clu g).tally ∧
      (∀ j, j ≠ st.val → t.str g j = s.str g j) ∧ (∀ j, j ≠ g.val → t.clu j = s.clu j) ∧ t.dram = s.dram ∧
      t.poison = s.poison ∧ t.out = s.out ∧ ∀ r, r ≠ h.p → t.part r = s.part r

/-- R168, R190: AOP writes one address register of its stream, modulo 2^48: an immediate, a sum with an immediate or with a
register, a shift, a product; no other address register of the stream changes. R233: LOOP sets its counter and enters its
body, or skips it when the count is 0; after the last long word of a body the counter falls by one and the body repeats
while it is not 0. -/
def Obligations.AddressRegistersAndLoops : Prop :=
  (∀ (s : State) (g : Clu) (st : Strm) (h : Head), s.sized = true → s.issuing g st .aop = some h →
     (s.str g st).a.length = 16 →
     let a (i : Nat) : Nat := (tget 0 (s.str g st).a i).toNat
     let imm := tget 0 h.lw.slots 1
     let simm := ((BitVec.ofNat 32 imm).signExtend 48).toNat
     ∃ t, exec (.aop g st) s = .next t ∧
       (∀ i, i ≠ h.lw.f 0 27 24 → tget 0 (t.str g st).a i = tget 0 (s.str g st).a i) ∧
       (tget 0 (t.str g st).a (h.lw.f 0 27 24)).toNat =
         (match h.lw.f 0 31 28 with
          | 0 => if h.lw.f 2 15 0 = 0 then simm else h.lw.f 2 15 0 * 2 ^ 32 + imm
          | 1 => a (h.lw.f 0 23 20) + simm
          | 2 => a (h.lw.f 0 23 20) + a (h.lw.f 0 19 16)
          | 3 => a (h.lw.f 0 23 20) * 2 ^ imm
          | _ => a (h.lw.f 0 23 20) * imm) % 2 ^ 48) ∧
  (∀ (s : State) (g : Clu) (st : Strm) (h : Head), s.sized = true → (s.str g st).l.length = 4 →
     (s.issuing g st .loop = some h →
       let n := if h.lw.b 0 29 then (tget 0 (s.str g st).a (h.lw.f 0 28 25)).toNat % 2 ^ 32 else h.lw.f 0 19 0
       let lc := h.lw.f 0 31 30
       let body := (s.str g st).pc + h.lw.len
       ∃ t, exec (.loop g st) s = .next t ∧
         (n ≠ 0 → (t.str g st).pc = body ∧ (tget 0 (t.str g st).l lc).toNat = n ∧
           (t.str g st).loops = ⟨lc, body, body + 4 * h.lw.f 1 17 0⟩ :: (s.str g st).loops) ∧
         (n = 0 → (s.str g st).loops = [] → (t.str g st).pc = body + 4 * h.lw.f 1 17 0 ∧
           tget 0 (t.str g st).l lc = 0 ∧ (t.str g st).loops = [])) ∧
     (s.issuing g st .nop = some h → ∀ f, (s.str g st).loops = [f] →
       ∃ t, exec (.nop g st) s = .next t ∧
         (f.stop ≠ (s.str g st).pc + h.lw.len → (t.str g st).pc = (s.str g st).pc + h.lw.len ∧
           (t.str g st).loops = [f] ∧ (t.str g st).l = (s.str g st).l) ∧
         (f.stop = (s.str g st).pc + h.lw.len → f.lc < 4 →
           tget 0 (t.str g st).l f.lc = tget 0 (s.str g st).l f.lc - 1 ∧
           (if tget 0 (s.str g st).l f.lc = 1 then (t.str g st).pc = f.stop ∧ (t.str g st).loops = []
            else (t.str g st).pc = f.start ∧ (t.str g st).loops = [f]))))

/-- R171, R234: QCMP sets or disables one comparator; BR goes to its target when ALW is set or the predicate has the sense
named, where the comparator compares, unsigned, the low 32 bits of an address register or of a loop counter of
QCMP's stream, of an event counter or of a timer, and to the next long word otherwise. R169, R170:
EOP sets the mode of one event counter and keeps its value, clears it, or adds to it modulo 2^32; TOP starts, stops or
clears one timer. How far timers and cycle counters move on is free (assumption 2), and
so a counter that counts, or a timer that runs, has no stated value at a BR. -/
def Obligations.CountUnit : Prop :=
  (∀ (s : State) (g : Clu) (st : Strm) (h : Head), s.sized = true →
     (s.issuing g st .qcmp = some h → ∃ t, exec (.qcmp g st) s = .next t ∧
       (t.clu g).q = (s.clu g).q.set (h.lw.f 0 31 29)
         (if h.lw.f 0 26 24 = 4 then none
          else some { rel := h.lw.f 0 28 27, cls := h.lw.f 0 26 24, reg := h.lw.f 0 23 20, str := st
                      thr := BitVec.ofNat 32 (tget 0 h.lw.slots 1) })) ∧
     (s.issuing g st .br = some h → (s.str g st).loops = [] →
       (h.lw.b 0 31 = true → ∃ t, exec (.br g st) s = .next t ∧
         (t.str g st).pc = (((s.str g st).pc : Int) + h.lw.brOff).toNat) ∧
       (h.lw.b 0 31 = false → tget none (s.clu g).q (h.lw.f 0 29 27) = none →
         ∃ t, exec (.br g st) s = .next t ∧ (t.str g st).pc =
           if h.lw.b 0 30 then (((s.str g st).pc : Int) + h.lw.brOff).toNat else (s.str g st).pc + h.lw.len) ∧
       (∀ c, h.lw.b 0 31 = false → tget none (s.clu g).q (h.lw.f 0 29 27) = some c →
         (c.cls = 2 → (tget {} (s.clu g).e c.reg).mode = .off) → (3 ≤ c.cls → (tget {} (s.clu g).w c.reg).run = false) →
         let v := match c.cls with
           | 0 => (tget 0 (s.str g c.str).a c.reg).toNat % 2 ^ 32
           | 1 => (tget 0 (s.str g c.str).l c.reg).toNat
           | 2 => (tget {} (s.clu g).e c.reg).v.toNat
           | _ => (tget {} (s.clu g).w c.reg).v.toNat
         let holds := match c.rel with
           | 0 => v = c.thr.toNat | 1 => v ≠ c.thr.toNat | 2 => v < c.thr.toNat | _ => c.thr.toNat ≤ v
         ∃ t, exec (.br g st) s = .next t ∧
           ((if h.lw.b 0 30 = true then ¬ holds else holds) → (t.str g st).pc = (((s.str g st).pc : Int) + h.lw.brOff).toNat) ∧
           ((if h.lw.b 0 30 = true then holds else ¬ holds) → (t.str g st).pc = (s.str g st).pc + h.lw.len)))) ∧
  (∀ (s : State) (g : Clu) (st : Strm) (h : Head), s.sized = true →
     (s.issuing g st .eop = some h →
       let k := h.lw.f 0 27 25
       let o := tget {} (s.clu g).e k
       ∃ t, exec (.eop g st) s = .next t ∧
         (h.lw.f 0 31 28 = 0 → (tget {} (t.clu g).e k).mode = eopMode h.lw ∧
           (o.mode = .off → (tget {} (t.clu g).e k).v = o.v)) ∧
         (h.lw.f 0 31 28 = 1 → (tget {} (t.clu g).e k).v = 0 ∧ (tget {} (t.clu g).e k).mode = o.mode) ∧
         (2 ≤ h.lw.f 0 31 28 → o.mode = .off →
           (tget {} (t.clu g).e k).v = o.v + BitVec.ofNat 32 (tget 0 h.lw.slots 1))) ∧
     (s.issuing g st .top = some h →
       let k := h.lw.f 0 27 26
       let o := tget {} (s.clu g).w k
       ∃ t, exec (.top g st) s = .next t ∧
         (h.lw.f 0 31 28 = 0 → (tget {} (t.clu g).w k).run = true ∧ (o.run = false → (tget {} (t.clu g).w k).v = o.v)) ∧
         (h.lw.f 0 31 28 = 1 → (tget {} (t.clu g).w k).run = false) ∧
         (2 ≤ h.lw.f 0 31 28 → (tget {} (t.clu g).w k).v = 0 ∧ (tget {} (t.clu g).w k).run = o.run)))

/-- R163, R232, R236, R262, R263: SYNC sends its signal at issue; no long word of a stream issues after END; a permitted BRK
stops the launch, one that is not permitted acts as NOP. -/
def Obligations.SyncEndAndBreakpoints : Prop :=
  ∀ (s : State) (g : Clu) (st : Strm) (h : Head), s.sized = true →
    (s.issuing g st .sync = some h → s.plain h g st = true → ∀ k c, h.lw.sigTok = some (k, c) →
      ∃ t, exec (.sync g st) s = .next t ∧
        (t.part h.p).signals = (s.part h.p).signals ++ [(if c = 255 then g.val else (s.part h.p).glob c, k)]) ∧
    (s.issuing g st .fin = some h → ∃ t, exec (.fin g st) s = .next t ∧ (t.str g st).ended = true ∧
      ∀ op, t.issuing g st op = none) ∧
    (s.issuing g st .brk = some h → s.plain h g st = true → ∃ t, exec (.brk g st) s = .next t ∧
      (s.dbgOk (s.part h.p) h.run.debug = true →
        (t.part h.p).run = (s.part h.p).run.map fun r => { r with stop := .stopping [(h.rel, st)] true }) ∧
      (s.dbgOk (s.part h.p) h.run.debug = false → (t.part h.p).run = (s.part h.p).run))

/-- R151, R156, R159, R162, R164, R229: the oldest long word in flight completes: it leaves the stream, its declarations'
completion events are applied together, the release of its remote grant and its signal leave; DONE writes its 64 bytes first,
and an RLY that has all its roots and has sent all its frames clears its registration (R396, R401). R165, R166: signals in
transit arrive at their token, all of one cycle together; where the count would exceed 255 the partition faults with
TOKEN_OVERFLOW and none of them is applied. That data has moved at issue is the model's (assumption 8). -/
def Obligations.CompletionsAndSignals : Prop :=
  (∀ (s : State) (g : Clu) (st : Strm) (f : Flight) (fs : List Flight) (p : Nat), s.sized = true → s.courtsOk = true →
     s.ownerG g = some p → (s.str g st).flight = f :: fs →
     (f.waits = .nothing ∨ f.waits = .earlier →
       ∃ t, exec (.longWordComplete g st) s = .next t ∧ (t.str g st).flight = fs ∧
         (t.clu g).regions = ((s.clu g).regionComplete (localUses f.op f.lw)).regions ∧
         (f.remote = none → ∀ j, j ≠ g.val → t.clu j = s.clu j) ∧
         (∀ c d, f.remote = some (c, d) → (s.part p).glob c ≠ g → (s.part p).glob c < 96 →
           (t.clu ((s.part p).glob c)).rels = (s.clu ((s.part p).glob c)).rels ++
             [⟨g, st, d⟩]) ∧
         (f.op ≠ .sync → ∀ k c, f.lw.sigTok = some (k, c) →
           (t.part p).signals = (s.part p).signals ++ [(if c = 255 then g.val else (s.part p).glob c, k)]) ∧
         t.dram = s.dram) ∧
     (∀ rid e, f.waits = .rly rid e → s.rlyDone p rid = true →
       ∃ t, exec (.longWordComplete g st) s = .next t ∧ (t.str g st).flight = fs ∧ t.dram = s.dram ∧
         (t.part p).rlys = (s.part p).rlys.filter fun r => r.rid != rid) ∧
     (∀ pa, f.waits = .line pa → s.snooped [(s.part p).da pa / 64] = [] → s.poison = [] → s.memOk = true →
       ∃ t, exec (.longWordComplete g st) s = .next t ∧ (t.str g st).flight = fs ∧
         ∀ a, t.rdDa a = (lastAt ((cellsAt pa (doneLine f.lw ((s.part p).rel g)
           (match (s.part p).run with | some r => r.la.ctx.tag.getD 0 | none => 0))).map
             fun c => ((s.part p).da c.1, c.2)) a).getD (s.rdDa a))) ∧
  (∀ (s : State) (g : Clu) (k : Fin 64) (n p : Nat), s.sized = true → s.courtsOk = true → s.ownerG g = some p → 1 ≤ n →
     n ≤ (s.part p).signals.count (g.val, k.val) →
     ((tget 0 (s.clu g).tokens k).toNat + n ≤ 255 → ∃ t, exec (.signalArrive g k n) s = .next t ∧
       (tget 0 (t.clu g).tokens k).toNat = (tget 0 (s.clu g).tokens k).toNat + n ∧
       (∀ j, j ≠ k.val → tget 0 (t.clu g).tokens j = tget 0 (s.clu g).tokens j) ∧
       (t.part p).signals.count (g.val, k.val) = (s.part p).signals.count (g.val, k.val) - n ∧
       (∀ x, x ≠ (g.val, k.val) → (t.part p).signals.count x = (s.part p).signals.count x) ∧
       ∀ j, j ≠ g.val → t.clu j = s.clu j) ∧
     (255 < (tget 0 (s.clu g).tokens k).toNat + n → (s.part p).state = 3 → ∃ t, exec (.signalArrive g k n) s = .next t ∧
       (t.part p).state = 4 ∧ (t.part p).ffCode = 0x06 ∧ (t.clu g).tokens = (s.clu g).tokens))

/-- R23, R26, R153, R251, R252: a line that a fetch unit of the cluster waits for enters its instruction cache, from which a
line leaves only where eight lines of one set are there, and no other line is fetched; a parity error refetches the line and
is counted in REFETCHCNT; a second one on the line just refetched faults with FETCH_ECC, and is not counted. Which lines
share a set, and which one leaves, is free (assumption 25). -/
def Obligations.InstructionCaches : Prop :=
  ∀ (s : State) (g : Clu) (b : Bool) (line p : Nat), s.sized = true → s.ownerG g = some p →
    s.snooped [(s.part p).slotLine b line] = [] →
    let ok := s.cause ((s.part p).slotLine b line) = none
    let old := (s.clu g).icache
    ((∃ st < 5, s.fetchWant g st = some (b, line)) → (s.part p).stat = .up → s.dev.dfault = none → ok →
      ∃ t, exec (.icacheFill g b line {}) s = .next t ∧ (b, line) ∈ (t.clu g).icache ∧
        (∀ x ∈ old, x ∉ (t.clu g).icache → sameSet (b, line) x = true ∧ 8 ≤ (old.filter (sameSet (b, line))).length) ∧
        (∀ x ∈ (t.clu g).icache, x = (b, line) ∨ x ∈ old) ∧
        ((t.clu g).icache.filter (sameSet (b, line))).length ≤ max 8 (old.filter (sameSet (b, line))).length ∧
        (∀ j, j ≠ g.val → t.clu j = s.clu j) ∧ t.parts = s.parts ∧ t.dram = s.dram) ∧
    ((∀ st < 5, s.fetchWant g st ≠ some (b, line)) → exec (.icacheFill g b line {}) s = .next s) ∧
    ((b, line) ∈ old → ok →
      ∃ t, exec (.icacheParityRefetch g b line false {}) s = .next t ∧ (b, line) ∈ (t.clu g).icache ∧
        (t.clu g).refetch = min 0xFFFFFFFF ((s.clu g).refetch + 1) ∧ (t.part p).state = (s.part p).state) ∧
    ((b, line) ∈ old → (s.part p).state = 3 → s.courtsOk = true →
      ∃ t, exec (.icacheParityRefetch g b line true {}) s = .next t ∧ (t.part p).state = 4 ∧ (t.part p).ffCode = 0x07 ∧
        (t.clu g).refetch = (s.clu g).refetch)

/-! ## Engine operations -/

/-- R342, R28: a write of device memory stores the last byte given for each address and no other; a poisoned line takes the
bytes only where all of it is written, which clears its mark. A line written whole is no longer what a long word in flight
wrote, so a fault does not bring back what stood there before (R21, R47; the record of what is in flight is the model's,
assumption 8). -/
def Obligations.DeviceMemoryWrites : Prop :=
  ∀ (s : State) (cells : List Host.Cell), s.memOk = true →
    (∀ a, (s.wrDa cells).rdDa a = s.afterWrite cells a) ∧
    (∀ l, (s.wrDa cells).cause l = if wholeLine cells l then none else s.cause l) ∧
    { s.wrDa cells with dram := s.dram, poison := s.poison, chans := s.chans, undo := s.undo } = s ∧
    (∀ k : Nat, ((s.wrDa cells).undo[k]?).map (fun e => (e.g, e.str, e.n)) = (s.undo[k]?).map (fun e => (e.g, e.str, e.n))) ∧
    ∀ (k : Nat) (e e' : Undo), s.undo[k]? = some e → (s.wrDa cells).undo[k]? = some e' → ∀ o,
      (o ∈ e'.bytes → o ∈ e.bytes ∧ (o.clu = none → wholeLine cells (o.adr / 64) = false)) ∧
      (o ∈ e.bytes → (∀ c ∈ cells, c.1 ≠ o.adr) → o ∈ e'.bytes)

/-- R85, R72, R115, R116: RNE is a nearest multiple, the even one of two; RTZ and RSTO never leave the two neighbours, and
RSTO goes up exactly where the draw carries; BF16 widens to FP32 exactly, a NaN of a STRICT image by 16 zero bits too (R55;
that its quiet bit stays: assumption 11), one of a FAST image as the canonical NaN (R94); integers narrow by clamping or by
wrapping. -/
def Obligations.ArithmeticRules : Prop :=
  (∀ (m d r : Nat), 0 < d →
    let k := roundMag .rne m 0 d r
    2 * m ≤ 2 * (k * 2 ^ d) + 2 ^ d ∧ 2 * (k * 2 ^ d) ≤ 2 * m + 2 ^ d ∧ (2 * (m % 2 ^ d) = 2 ^ d → k % 2 = 0) ∧
    roundMag .rtz m 0 d r = m / 2 ^ d ∧
    (d ≤ 16 → roundMag .rsto m 0 d r = (m + r % 2 ^ d) / 2 ^ d) ∧
    (16 < d → roundMag .rsto m 0 d r = (m / 2 ^ (d - 16) + r % 2 ^ 16) / 2 ^ 16)) ∧
  (∀ (x : ACtx) (f : Fmt) (c r : Nat), convert x f f c r = ⟨c, {}⟩) ∧
  (∀ (x : ACtx) (c r : Nat), c < 2 ^ 16 →
    ((decodeF .bf16 c).isNan = false ∨ x.strict = true → convert x .bf16 .fp32 c r = ⟨c * 2 ^ 16, {}⟩) ∧
    ((decodeF .bf16 c).isNan = true → x.strict = false → convert x .bf16 .fp32 c r = ⟨Fmt.fp32.nanCode, {}⟩)) ∧
  ∀ (x : ACtx) (f : Fmt) (v : Int), f.isInt = true →
    (x.sat = true → signed f.width (narrowInt x f v).code = max f.imin (min f.imax v) ∧
      ((narrowInt x f v).cnt.sat = true ↔ v < f.imin ∨ f.imax < v)) ∧
    (x.sat = false → (signed f.width (narrowInt x f v).code - v) % 2 ^ f.width = 0 ∧ (narrowInt x f v).cnt = {})

/-- R83, R86, R87, R123, R203, R224, R227: LDT, LDS, LDX, PACK, UNPK, STT and STX convert each element of the source into
the destination, count for their tally set and draw for their stream; where TR is set a load exchanges d0 and d1. TRN, PERM,
CPY and BCST move codes unchanged; TRN and PERM that break Iris4 blocks pack them afresh (R221, R222). Every other byte
stays. Data moves at issue (assumption 8); other readings: assumption 11. -/
def Obligations.EngineMovesAndConversions : Prop :=
  ∀ (s : State) (g : Clu) (obs : HwObs) (h : Head) (src dst : Arg) (u : State), s.sized = true → s.memOk = true →
    (∀ op c st, (op, c, st) ∈ [(Op.ldt, Instr.ldt g obs, 0), (.lds, .lds g obs, 0), (.ldx, .ldx g obs, 0),
        (.pack, .pack g obs, 3), (.unpk, .unpk g obs, 3), (.stt, .stt g obs, 4), (.stx, .stx g obs, 4)] →
      s.passes g st op obs = some (h, [src, dst], u) →
      let els := if st = 0 then src.gather u h.p g dst.d.exts (if h.lw.b 1 31 then swap01 else id) else src.read u h.p g
      let w := if st = 4 then storeRate src.d dst.d else sideRate dst.d
      let ds := u.draws h.p g st w els.length (consumes h.ctx src.d dst.d)
      let res := convertAll h.ctx src.d dst els ds.1
      ∃ t, exec c s = .next t ∧ t.Issued u h g st .nothing ∧ t.Wrote u h.p g [(dst, dst.settled u.free res.1)] ∧
        (t.clu g).tally = (u.clu g).tally.modify h.lw.tally (·.add res.2) ∧ (t.str g st).draws = (ds.2.str g st).draws) ∧
    (∀ op c f, (op, c, f) ∈ [(Op.trn, Instr.trn g obs, swap01), (.perm, .perm g obs, permIx h.lw src.d.rank),
        (.cpy, .cpy g obs, id), (.bcst, .bcst g obs, bcstIx src.d)] →
      s.passes g 3 op obs = some (h, [src, dst], u) →
      let els := src.gather u h.p g dst.d.exts f
      let ds := u.draws h.p g 3 256 els.length (h.ctx.eff.round == .rsto)
      let res := convertAll h.ctx src.d dst els ds.1
      ∃ t, exec c s = .next t ∧ t.Issued u h g 3 .nothing ∧
        (src.d.isIr4 = false ∨ op = .cpy ∨ op = .bcst ∨ (op = .perm ∧ h.lw.pmap 0 = 0) →
          t.Wrote u h.p g [(dst, dst.settled u.free (dst.moveCells els))] ∧ (t.clu g).tally = (u.clu g).tally) ∧
        (src.d.isIr4 = true → op = .trn ∨ (op = .perm ∧ h.lw.pmap 0 ≠ 0) →
          t.Wrote u h.p g [(dst, dst.settled u.free res.1)] ∧ (t.clu g).tally = (u.clu g).tally.modify h.lw.tally (·.add res.2)))

/-- R204, R223: GATH, GATP and SCAT move one row for each index in order; where every index lies in range the long word
issues, and at the first that does not it faults with RANGE and its index as ADDR, the rows before it moved; of the
long words in flight at a fault, lines not yet written are never written (R446). That rows are written at the issue, in one
step, is assumption 8; which elements the draws under RSTO are numbered by is assumption 11; the fields of the fault record:
assumption 14. -/
def Obligations.IndexedMoves : Prop :=
  ∀ (s : State) (g : Clu) (obs : HwObs) (h : Head) (src idx dst : Arg) (u : State) (op : Op) (c : Instr) (st n : Nat),
    s.sized = true → s.memOk = true → s.courtsOk = true →
    (op, c, st) ∈ [(Op.gath, Instr.gath g obs, 0), (.gatp, .gatp g obs, 3), (.scat, .scat g obs, 3)] →
    s.passes g st op obs = some (h, [src, idx, dst], u) →
    let l := idx.indices u h.p g
    let limit : Int := if op = .scat then dst.d.ext 1 else src.d.ext 1
    n ≤ l.length → (∀ i ∈ l.take n, 0 ≤ i.1 ∧ i.1 < limit) → (∀ i, l[n]? = some i → i.1 < 0 ∨ limit ≤ i.1) →
    let rows := dst.rows1 (min n (dst.d.ext 1))
    let els := src.gather u h.p g rows.d.exts (gatherIx l)
    let ds := u.draws h.p g 0 (sideRate rows.d) els.length (consumes h.ctx src.d rows.d)
    let ws : List (Arg × List Host.Cell) := match op with
      | .gath => [(dst, dst.settled u.free (dst.rescale rows (convertAll h.ctx src.d rows els ds.1).1))]
      | .gatp => [(dst, dst.settled u.free (dst.rescale rows (rows.moveCells els)))]
      | _ => [(dst, dst.settled u.free (scatCells u h.p g src dst (l.take n)))]
    ∃ t, exec c s = .next t ∧ (n = l.length → t.Issued u h g st .nothing ∧ t.Wrote u h.p g ws) ∧
      (∀ i, l[n]? = some i → (t.part h.p).state = 4 ∧ (t.part h.p).ffCode = 0x04 ∧
        tget 0 (t.part h.p).ffrec 2 = BitVec.ofNat 32 i.2 ∧
        ∃ v : State, v.Wrote u h.p g ws ∧ t.Abandoned v (s.inFlight h.p))

/-- R138, R342, R343, R444, R446: a long word whose operand fails a check at issue, or whose descriptor lies in a poisoned
line, faults its partition with that code and moves nothing; one that reads a poisoned line faults with the code of the poison
and writes nothing; of the long words in flight, lines not yet written are never written. Readings of the fault record:
assumption 14. -/
def Obligations.EngineFaultsMoveNothing : Prop :=
  ∀ (s : State) (g : Clu) (obs : HwObs) (h : Head) (op : Op) (c : Instr) (st : Nat),
    s.sized = true → s.courtsOk = true →
    (op, c, st) ∈ [(Op.ldt, Instr.ldt g obs, 0), (.lds, .lds g obs, 0), (.ldx, .ldx g obs, 0), (.gath, .gath g obs, 0),
      (.rsum, .rsum g obs, 2), (.rmax, .rmax g obs, 2), (.rmin, .rmin g obs, 2), (.rssq, .rssq g obs, 2),
      (.rdot, .rdot g obs, 2), (.argmx, .argmx g obs, 2), (.argmn, .argmn g obs, 2), (.topk, .topk g obs, 2),
      (.scan, .scan g obs, 2), (.xred, .xred g obs, 2), (.rly, .rly g obs, 2), (.trn, .trn g obs, 3), (.perm, .perm g obs, 3),
      (.cpy, .cpy g obs, 3), (.bcst, .bcst g obs, 3), (.scat, .scat g obs, 3), (.gatp, .gatp g obs, 3),
      (.pack, .pack g obs, 3), (.unpk, .unpk g obs, 3), (.sort, .sort g obs, 3), (.stt, .stt g obs, 4), (.stx, .stx g obs, 4),
      (.put, .put g obs, 4)] →
    s.issuing g st op = some h →
    s.snooped (s.descLines h g st op.opnds) = [] → s.memOk = true →
    let r := s.readDescs h g st op obs
    (∀ e, resolveAll r h g st op.opnds = .error e → e.code < 256 →
      ∃ t, exec c s = .next t ∧ (t.part h.p).state = 4 ∧ (t.part h.p).ffCode = e.code ∧
        tget 0 (t.part h.p).ffrec 2 = BitVec.ofNat 32 e.addr ∧ t.Abandoned r (s.inFlight h.p)) ∧
    (∀ args e, resolveAll r h g st op.opnds = .ok args → lateChecks r h g st args = none → noShardMap op args = false →
      shardFault (r.part h.p) h args = none → s.snooped (r.argLines h g st op args) = [] →
      (let v := r.readArgs h g st op obs args
       readErr v h g st obs (readsOf v h.p g op args) = some e ∧ e.code < 256) →
      ∃ t, exec c s = .next t ∧ (t.part h.p).state = 4 ∧ (t.part h.p).ffCode = e.code ∧
        t.Abandoned (r.readArgs h g st op obs args) (s.inFlight h.p))

/-- R206, R207, R210, R212: CONST fills a register with one code, VMOV moves 1024 bytes between a register and the
scratchpad or fills a register with one element; a CHAIN of one micro-operation and one pass writes each active lane of its
destination register with the operation's result on that lane. Registers, scratchpad bytes and clusters not named stay.
Function-unit results are free within their bound (assumption 4); data moves at issue (assumption 8). -/
def Obligations.VectorOperations : Prop :=
  ∀ (s : State) (g : Clu) (obs : HwObs) (h : Head) (u : State), s.sized = true → s.memOk = true →
    (∀ f, s.passesRegions g .const obs (fun _ => []) (fun _ => []) = some (h, u) → Fmt.ofCode (h.lw.f 0 26 23) = some f →
      let r := h.lw.f 0 31 27
      let code := (if h.lw.b 0 22 then (tget 0 (u.str g 1).a (h.lw.f 0 21 18)).toNat else tget 0 h.lw.slots 1) % 2 ^ f.width
      ∃ t, exec (.const g obs) s = .next t ∧ t.Issued u h g 1 .nothing ∧ t.dram = u.dram ∧ (∀ j, (t.clu j).sp = (u.clu j).sp) ∧
        (∀ i < (if f.wide then 256 else 512), readLane (t.clu g).vr f.wide r i = laneOf f code) ∧
        ∀ x, x / 1024 ≠ r → spGet 0 (t.clu g).vr x = spGet 0 (u.clu g).vr x) ∧
    (s.passesRegions g .vmov obs vmovSrcs vmovDsts = some (h, u) →
      let r := h.lw.f 0 29 25
      let from_ := h.lw.regionAt 10 (h.lw.f 0 20 11)
      let to_ := h.lw.regionAt 12 (h.lw.f 0 20 11)
      ∃ t, exec (.vmov g obs) s = .next t ∧ t.Issued u h g 1 .nothing ∧ t.dram = u.dram ∧
        (∀ j, j ≠ g.val → (t.clu j).sp = (u.clu j).sp) ∧
        (h.lw.f 0 31 30 = 0 → (t.clu g).sp = (u.clu g).sp ∧ ∀ x, spGet 0 (t.clu g).vr x =
          if x / 1024 = r then spGet 0 (u.clu g).sp (from_ + x % 1024) else spGet 0 (u.clu g).vr x) ∧
        (h.lw.f 0 31 30 = 1 → (t.clu g).vr = (u.clu g).vr ∧ ∀ x, spGet 0 (t.clu g).sp x =
          if to_ ≤ x ∧ x < to_ + 1024 then spGet 0 (u.clu g).vr (1024 * r + (x - to_)) else spGet 0 (u.clu g).sp x) ∧
        (2 ≤ h.lw.f 0 31 30 → ∀ f, Fmt.ofCode (h.lw.f 0 24 21) = some f → f ≠ .ir4 → (t.clu g).sp = (u.clu g).sp ∧
          (∀ i < (if f.wide then 256 else 512), readLane (t.clu g).vr f.wide r i =
            laneOf f (leNat ((List.range f.bytes).map fun k =>
              spGet 0 (u.clu g).sp (from_ + h.lw.f 0 10 0 * f.bytes + k)))) ∧
          ∀ x, x / 1024 ≠ r → spGet 0 (t.clu g).vr x = spGet 0 (u.clu g).vr x)) ∧
    (s.passesRegions g .chain obs chainSrcs chainDsts = some (h, u) →
      let ops := h.lw.uops
      let n := h.lw.f 0 19 0
      ∃ t, exec (.chain g obs) s = .next t ∧ t.Issued u h g 1 .nothing ∧ t.dram = u.dram ∧
        (∀ j, j ≠ g.val → (t.clu j).sp = (u.clu j).sp) ∧ (h.lw.has 12 = false → (t.clu g).sp = (u.clu g).sp) ∧
        (∀ x, (∀ q ∈ ops, q.u ≠ 0x3F → q.dst ≠ x / 1024) → spGet 0 (t.clu g).vr x = spGet 0 (u.clu g).vr x) ∧
        (∀ q f, ops = [q] → q.u ≠ 0x3F → Fmt.ofCode q.fmt = some f → n ≤ chainWidth h.lw → 1 ≤ n → q.a < 32 → q.b < 32 →
          q.c < 32 → h.run.actx.eff.round ≠ .rsto → q.u ≠ 0x20 → q.u ≠ 0x0A → ∀ i < n,
          let lane (k : Nat) := readLane (u.clu g).vr f.wide k i % 2 ^ f.width
          let o := uopOut q.u f
          readLane (t.clu g).vr o.wide q.dst i =
            laneOf o (microOp h.run.actx q.u f f (lane q.a) (lane q.b) (lane q.c) 0).code %
              (if o.wide then 2 ^ 32 else 2 ^ 16)))

/-- R104, R105, R107, R213 to R215: RSUM, RMAX, RMIN, RSSQ, RDOT, ARGMX and ARGMN write, for each element of the
destination, the value that the whole axis or its group of 16 gives, and for ARGMX and ARGMN the lowest index that holds it.
Readings of arithmetic: assumption 11; that values are written at the issue: assumption 8. -/
def Obligations.ReductionsAlongAnAxis : Prop :=
  ∀ (s : State) (g : Clu) (obs : HwObs) (h : Head) (src dst : Arg) (src2 idst : Option Arg) (u : State) (op : Op) (c : Instr)
    (sf df : Fmt),
    s.sized = true → s.memOk = true →
    (op, c) ∈ [(Op.rsum, Instr.rsum g obs), (.rmax, .rmax g obs), (.rmin, .rmin g obs), (.rssq, .rssq g obs),
      (.rdot, .rdot g obs), (.argmx, .argmx g obs), (.argmn, .argmn g obs)] →
    s.passes g 2 op obs = some (h, [src] ++ src2.toList ++ [dst] ++ idst.toList, u) →
    (src2.isSome = true ↔ op = .rdot) → (idst.isSome = true ↔ op = .argmx ∨ op = .argmn) →
    (∀ i, idst = some i → i.d.space ≠ 0) → src.d.format = some sf → dst.d.format = some df →
    let x := h.ctx
    let ax := h.lw.axis op
    let as := src.flushed u h.p g x
    let bs := (src2.map fun a => a.flushed u h.p g x).getD ([], [])
    let sf2 := (src2.bind fun a => a.d.format).getD sf
    let ds := u.draws h.p g 2 256 dst.d.count (rootDraws x (op == .rsum || op == .rssq || op == .rdot) sf df)
    let pick (l : List Nat) (ps : List Nat) : List Nat := if l.isEmpty then [] else ps.map (tget 0 l)
    let pos (e : Nat) : List Nat := reducePos src.d dst.d ax (unlinear dst.d.exts e)
    let val (e : Nat) : Nat :=
      (reduceValue x op (dst.d.ext ax != 1) sf sf2 df (pick as.1 (pos e)) (pick bs.1 (pos e)) (tget 0 ds.1 e)).code
    let each (f : Nat → Nat) : List Nat := (List.range dst.d.count).map f
    ∃ t, exec c s = .next t ∧ t.Issued u h g 2 .nothing ∧
      t.Wrote u h.p g ([(dst, dst.cells (each val))] ++
        (idst.toList.map fun i => (i, i.cells (each fun e => argIndex sf (val e) (pick as.1 (pos e))))))

/-- R100, R108, R216, R217, R225: TOPK and SORT write the codes of every line of the axis in the order of R100, with their
indices, TOPK the first K of them; SCAN writes each prefix sum: of an integer source the exact one, of a floating-point source
that of R108, converted into the destination, which has the source's shape. That codes and sums are written at the issue:
assumption 8; readings of arithmetic: assumption 11. -/
def Obligations.OrdersAndScans : Prop :=
  ∀ (s : State) (g : Clu) (obs : HwObs) (h : Head) (src dst idst : Arg) (u : State) (f df : Fmt),
    s.sized = true → s.memOk = true → src.d.format = some f →
    (∀ op c st, (op, c, st) ∈ [(Op.topk, Instr.topk g obs, 2), (.sort, .sort g obs, 3)] →
      s.passes g st op obs = some (h, [src, dst, idst], u) → idst.d.space ≠ 0 →
      let ax := h.lw.axis op
      let desc := if op = .topk then !h.lw.b 1 28 else h.lw.b 1 31
      let k := if op = .topk then h.lw.f 1 15 9 else src.d.ext ax
      let cs := (src.read u h.p g).map (·.code)
      let lines := (axisHeads src.d ax).map fun ix =>
        (ix, (sortCodes f desc ((axisLine src.d ax ix).map (tget 0 cs))).take k)
      let out (a : Arg) (v : Nat × Nat → Nat) : List Host.Cell := lines.flatMap fun l =>
        l.2.zipIdx.flatMap fun c => a.d.elWrites a.eb (l.1.set ax c.2) (v c.1)
      ∃ t, exec c s = .next t ∧ t.Issued u h g st .nothing ∧
        t.Wrote u h.p g [(dst, out dst (·.1)), (idst, out idst (·.2))] ∧ (t.clu g).tally = (u.clu g).tally) ∧
    (s.passes g 2 .scan obs = some (h, [src, dst], u) → dst.d.format = some df → f.isInt = true →
      src.d.exts = dst.d.exts → (∀ k, 1 ≤ src.d.ext k) → h.lw.axis .scan < 5 →
      let ax := h.lw.axis .scan
      let cs := src.flushed u h.p g h.ctx
      let sum (e : Nat) : Int :=
        ((List.range (tget 0 (unlinear src.d.exts e) ax + 1)).map fun i =>
          signed f.width (tget 0 cs.1 (linear src.d.exts ((unlinear src.d.exts e).set ax i)))).foldl (· + ·) 0
      ∃ t, exec (.scan g obs) s = .next t ∧ t.Issued u h g 2 .nothing ∧
        t.Wrote u h.p g [(dst, dst.cells ((List.range dst.d.count).map fun e => (narrowInt h.ctx df (sum e)).code))]) ∧
    (s.passes g 2 .scan obs = some (h, [src, dst], u) → dst.d.format = some df → f.isInt = false →
      src.d.exts = dst.d.exts → (∀ k, 1 ≤ src.d.ext k) → h.lw.axis .scan < 5 →
      let x := h.ctx
      let ax := h.lw.axis .scan
      let cs := src.flushed u h.p g x
      let ds := u.draws h.p g 2 256 dst.d.count (rootDraws x true f df)
      let ix (e : Nat) : List Nat := unlinear src.d.exts e
      let axis (e : Nat) : List FV := (List.range (src.d.ext ax)).map fun i =>
        decodeF f (tget 0 cs.1 (linear src.d.exts ((ix e).set ax i)))
      let levels (e : Nat) := treeLevels (addComb x) (addOdd x) 40 (sumLeaves x (axis e))
      let value (e : Nat) : Nat :=
        (nodeRes x df (scanAt x (axis e) (levels e) (tget 0 (ix e) ax)) (tget 0 ds.1 e)).code
      ∃ t, exec (.scan g obs) s = .next t ∧ t.Issued u h g 2 .nothing ∧ (t.str g 2).draws = (ds.2.str g 2).draws ∧
        t.Wrote u h.p g [(dst, dst.cells ((List.range dst.d.count).map value))]) ∧
    (∀ cs desc, (sortCodes f desc cs).Perm cs.zipIdx ∧
      (sortCodes f desc cs).Pairwise fun a b => if desc then ordKey f b.1 ≤ ordKey f a.1 else ordKey f a.1 ≤ ordKey f b.1)

/-- R218: an XRED whose source has the destination's shape, or may be concatenated along AXIS, and with whose fields every
XRED of its tag and count agrees that is a participant of one of the two, takes part and waits, with nothing written yet;
once all of a match have issued, its result is written at each of them and counted in its tally set, and none waits any more;
where it covers a part of a word that meets an uncorrectable error, the partition faults with SRAM_UE (R438), and so it does
at a parity error met as the match is combined, as the XRED of the first participant (R437; fields: assumption 14); words
corrected meanwhile are counted either way (R463). R219, R395 to R397, R400: an RLY of an accepted shard map whose devices
are all in the group, with no other RLY of its RID, whose RID and epoch no child in a slot of its home port contradicts,
issues: it registers with its epoch, which the next one of the RID follows, and waits; an all-reduce that finds no slot taken
places its own lines there, as far as there are slots. One that names a device outside the group faults. What the merging
reads of an RLY's results meet is free (assumption 2). Readings: assumptions 11 and 15. -/
def Obligations.ReductionsAcrossClustersAndDevices : Prop :=
  (∀ (s : State) (g : Clu) (obs : HwObs) (h : Head) (src dst : Arg) (u : State) (sf df : Fmt), s.sized = true →
     s.memOk = true → s.courtsOk = true → src.d.format = some sf → dst.d.format = some df →
     s.passes g 2 .xred obs = some (h, [src, dst], u) →
     let w := h.lw
     let xtag := w.f 3 7 0
     let k := spGet 0 (s.clu g).xredK xtag + 1
     let first := w.f 3 31 24
     let last := w.f 3 23 16
     let mine := (first, last, w.redFn .xred, w.axis .xred, src.d.fmt, dst.d.exts, dst.d.fmt, nodeRtz h.ctx)
     (src.d.exts = dst.d.exts ∨
       (sameBut (w.axis .xred) src.d.exts dst.d.exts = true ∧ dst.d.ext (w.axis .xred) = 1)) →
     (∀ m ∈ s.xwith h.p xtag k,
       (first ≤ (s.part h.p).rel m.1 ∧ (s.part h.p).rel m.1 ≤ last) ∨ (m.2.first ≤ h.rel ∧ h.rel ≤ m.2.last) →
       (m.2.first, m.2.last, m.2.fn, m.2.axis, m.2.fmt, m.2.dst.exts, m.2.dst.fmt, m.2.nrtz) = mine) →
     ∃ t me, exec (.xred g obs) s = .next t ∧ t.Issued u h g 2 (.xred xtag k) ∧ t.Wrote u h.p g [] ∧
       (t.clu g).xreds = (u.clu g).xreds ++ [me] ∧ me.xtag = xtag ∧ me.k = k ∧
       (me.first, me.last, me.fn, me.axis, me.fmt, me.dst.exts, me.dst.fmt, me.nrtz) = mine ∧ me.exts = src.d.exts ∧
       me.els = (src.flushed u h.p g h.ctx).1) ∧
  (∀ (s : State) (p : Part) (first xtag k : Nat) (obs : HwObs) (run : Running), s.sized = true → s.memOk = true →
     s.courtsOk = true → (s.part p).run = some run →
     let l := s.xparts p first xtag k
     let counted (t : State) : Prop := ∀ m ∈ l, (s.clu m.1).spce ≤ 0xFFFFFFFF →
       (t.clu m.1).spce = min 0xFFFFFFFF ((s.clu m.1).spce + obs.spCe.count m.1)
     l ≠ [] → (∀ n ∈ l, n.2.last + 1 - n.2.first ≤ l.length ∧ n.2.dst.space = 1 ∧ (Fmt.ofCode n.2.fmt).isSome = true ∧
       n.2.dst.format.isSome = true) → (l.map (·.1)).Nodup →
     (∀ m, l.head? = some m → obs.parity = true → (s.part p).stat = .up →
       ∃ t, exec (.xredResult p xtag k obs first) s = .next t ∧ (t.part p).state = 4 ∧ counted t ∧
         t.Abandoned s (s.inFlight p) ∧ ∃ off, (t.part p).ffrec = ffrecOf
           { code := 0x02, cluster := (s.part p).rel m.1, stream := 2, unit := 0x03, offset := off, addr := 0, space := 2
             court := m.1 / 12, detail := 0xFF } false (some run)) ∧
     (∀ m a, obs.parity = false → s.xredHit p l obs = some (m, a) → (s.part p).stat = .up →
       ∃ t, exec (.xredResult p xtag k obs first) s = .next t ∧ (t.part p).state = 4 ∧ (t.part p).ffCode = 0x02 ∧ counted t ∧
         tget 0 (t.part p).ffrec 2 = BitVec.ofNat 32 a ∧ t.Abandoned s (s.inFlight p)) ∧
     (obs.spUe = [] → s.xredHit p l obs = none) ∧
     (obs.parity = false → s.xredHit p l obs = none →
      ∃ t, exec (.xredResult p xtag k obs first) s = .next t ∧ counted t ∧ t.dram = s.dram ∧ t.xparts p first xtag k = [] ∧
       (∀ m ∈ l, m ∈ s.xwith p xtag k ∧ ∃ b ∈ t.xwith p xtag k, b.1 = m.1 ∧ b.2 = m.2.resulted) ∧
       ∀ m ∈ l, ∀ sf df, Fmt.ofCode m.2.fmt = some sf → m.2.dst.format = some df →
         let res := xredResults (applyNco run.actx m.2.nco) (l.map (·.2)) m.2 sf df
         (∀ a, spGet 0 (t.clu m.1).sp a =
           (lastAt ((plainArg m.2.dst m.2.ebase).cells (res.map (·.code))) a).getD (spGet 0 (s.clu m.1).sp a)) ∧
         (∀ f ∈ (t.str m.1 2).flight, f.waits ≠ .xred xtag k) ∧
         (t.clu m.1).tally = (s.clu m.1).tally.modify m.2.tally (·.add (res.map (·.cnt))))) ∧
  (∀ (s : State) (g : Clu) (obs : HwObs) (h : Head) (src dst : Arg) (u : State) (sf df : Fmt) (e : ShardEntry) (rack : Nat)
     (gr : Group), s.sized = true → s.memOk = true → s.courtsOk = true → src.d.format = some sf → dst.d.format = some df →
     s.passes g 2 .rly obs = some (h, [src, dst], u) → spGet none (s.part h.p).set.shards src.d.shard = some e →
     s.dev.rack = some rack → (s.part h.p).rally.group = some gr → e.ok (some rack) = true →
     let w := h.lw
     let rid := w.f 4 31 16
     let epoch := spGet 0 (s.part h.p).epochs rid % 4
     let kind := w.f 4 15 14
     let div := if kind = 1 then scatterDim src.d (w.axis .rly) else none
     let lines := (List.range (rlyLines src.d.exts sf.bytes)).filter
       (partHas src.d.exts sf.bytes e.total div e.index)
     (kind = 1 → div ≠ none) → spWf 0 (s.part h.p).epochs = true →
     ((∃ d ∈ e.dev, d ≠ rack ∧ d ∉ gr.members) →
       ∃ t, exec (.rly g obs) s = .next t ∧ (t.part h.p).state = 4 ∧ (t.part h.p).ffCode = 0x0A) ∧
     ((∀ d ∈ e.dev, d = rack ∨ d ∈ gr.members) → (∀ r ∈ (s.part h.p).rlys, r.rid ≠ rid ∧ r.own = []) →
       (∀ x, ∀ f ∈ (s.port x).waitRx, f.1.cls ≠ 3) →
       (∀ c ∈ (s.port (g / 12)).slots, c.rid = rid → c.epoch = epoch → c.line ∈ lines ∧
         (c.fmt, c.fn, c.kind, c.axc, c.nrtz) = (src.d.fmt, w.redFn .rly, kind, w.b 4 11, nodeRtz h.ctx) ∧
         ∀ a ∈ c.children, a.1 < e.total ∧ a.1 ≠ e.index ∧ e.dev[a.1]? = some a.2.1) →
       ∃ t, exec (.rly g obs) s = .next t ∧
         (((plainArg dst.d dst.eb).merged ≠ [] ∧ (t.part h.p).state = 4 ∧ (t.part h.p).ffCode = 0x02) ∨
        ∃ r, (t.part h.p).stat = .up ∧ r ∈ (t.part h.p).rlys ∧ r.rid = rid ∧
         r.epoch = epoch ∧ (∀ l, l ∈ r.need → l ∈ lines) ∧ spGet 0 (t.part h.p).epochs rid = (epoch + 1) % 4 ∧
         (t.str g 2).flight = (u.str g 2).flight ++ [h.flight (u.str g 2) (.rly rid epoch)] ∧
         ((∀ x, (s.port x).slots = []) → kind = 0 → 2 ≤ e.total → lines.length ≤ slotMax → r.need = lines ∧
           (t.port (g / 12)).slots.map (fun c => (c.line, c.children)) = lines.map (fun l =>
             (l, [(e.index, rack, lineBytes src.d.exts sf.bytes (src.flushed u h.p g h.ctx).1 l)])) ∧
           t.Wrote u h.p g []))))

/-- R228 to R230, R392: PUT to another member by a route takes a free TID, sends WRITE frames and a READREQ and waits for
the READRSP; to any other device it faults with RANGE. DONE checks its line at issue and FENCE is in flight with nothing of
its stream issuing behind it. Which free TID a PUT takes is free (assumption 15). -/
def Obligations.PutDoneAndFence : Prop :=
  ∀ (s : State) (g : Clu) (obs : HwObs) (h : Head) (u : State), s.sized = true → s.memOk = true → s.courtsOk = true →
    (∀ src dst rack gr, s.passes g 4 .put obs = some (h, [src, dst], u) → s.dev.rack = some rack →
      (s.part h.p).rally.group = some gr → spWf 0 (s.part h.p).putSent = true →
      let dev := h.lw.f 2 31 26
      let ds := u.draws h.p g 4 (storeRate src.d dst.d) (src.read u h.p g).length (consumes h.ctx src.d dst.d)
      let frames := putFrames rack dev (dst.settled u.free (convertAll h.ctx src.d dst (src.read u h.p g) ds.1).1)
      (dev ∉ gr.members ∨ dev = rack ∨ s.routeOf h.p dev = none →
        ∃ t, exec (.put g obs) s = .next t ∧ (t.part h.p).state = 4 ∧ (t.part h.p).ffCode = 0x04 ∧
          t.Abandoned u (s.inFlight h.p)) ∧
      (∀ x, dev ∈ gr.members → dev ≠ rack → s.routeOf h.p dev = some x → x < 8 → (s.tidsTo h.p dev).length < 256 →
        ∃ t tid, exec (.put g obs) s = .next t ∧ tid < 256 ∧ tid ∉ s.tidsTo h.p dev ∧
          (t.str g 4).flight = (u.str g 4).flight ++ [h.flight (u.str g 4) (.put dev tid)] ∧ t.Wrote u h.p g [] ∧
          spGet 0 (t.part h.p).putSent dev = (spGet 0 (s.part h.p).putSent dev + frames.length) % 2 ^ 16 ∧
          ((s.port x).st ≠ .up → (t.port x).egress = (s.port x).egress ++ (frames ++
            [mkFrame 1 rack dev 0 0 ((spGet 0 (s.part h.p).putSent dev + frames.length) % 2 ^ 16 + tid * 2 ^ 16)
              zeros64]).map fun f => (f, none)))) ∧
    (s.issuing g 4 .done = some h → obs.parity = false →
      let pa := (tget 0 (s.str g 4).a (h.lw.f 0 31 28)).toNat
      (pa % 64 = 0 → pa + 64 ≤ (s.part h.p).size → pa < (s.part h.p).slotLo →
        ∃ t, exec (.done g obs) s = .next t ∧ t.Issued s h g 4 (.line pa) ∧ t.Wrote s h.p g []) ∧
      (pa % 64 ≠ 0 → ∃ t, exec (.done g obs) s = .next t ∧ (t.part h.p).state = 4 ∧ (t.part h.p).ffCode = 0x03) ∧
      (pa % 64 = 0 → (s.part h.p).slotLo ≤ pa →
        ∃ t, exec (.done g obs) s = .next t ∧ (t.part h.p).state = 4 ∧ (t.part h.p).ffCode = 0x04)) ∧
    (s.issuing g 4 .fence = some h → obs.parity = false →
      ∃ t, exec (.fence g obs) s = .next t ∧ t.Issued s h g 4 .earlier ∧ t.Wrote s h.p g [] ∧
        ∀ op, t.issuing g 4 op = none)

/-! ## Rally links -/

/-- R380, R388, R390, R392 to R394, R406: a WRITE frame of a member stores its bytes below image slot memory and is counted;
one into slot memory, to a FAULTED or RESETTING partition or from outside the group is counted, its refusal kept, and stores
nothing. A READREQ enters the flush table or waits in its buffer; the first whose count is reached leaves it, is answered
with the refusal kept, and clears that; a READRSP ends its PUT, or faults the partition with RANGE or PEER_ABORT. Under
EXTEST no frame arrives (R500). Readings: assumption 15. -/
def Obligations.WriteAndReadFrames : Prop :=
  ∀ (s s1 : State) (x : PortNo) (f : Frame) (p : Nat), s.sized = true → s.memOk = true → s.courtsOk = true →
    spWf 0 (s.part p).rxCount = true → spWf 0 (s.part p).rxRefuse = true → s.portPart x = some p →
    s.receive x f = (true, s1) →
    (s.extest = true → exec (.frameWrite x f {}) s = .next s ∧ exec (.frameReadreq x f) s = .next s ∧
      exec (.frameReadrsp x f) s = .next s) ∧
    (s.extest = false → f.cls = 0 → s.writeHeld x f = [] →
      let w := writeSpan f
      let counted (t : State) := spGet 0 (t.part p).rxCount f.src = (spGet 0 (s.part p).rxCount f.src + 1) % 2 ^ 16
      let kept (t : State) (k : Nat) := spGet 0 (t.part p).rxRefuse f.src =
        if spGet 0 (s.part p).rxRefuse f.src = 0 then k else spGet 0 (s.part p).rxRefuse f.src
      (s1.target x f false = .here p →
        ((s.part p).stat = .up → w.1 / 64 * 64 + 64 ≤ (s.part p).slotLo →
          ∃ t, exec (.frameWrite x f {}) s = .next t ∧ counted t ∧ (t.part p).rxRefuse = (s.part p).rxRefuse ∧ t.cl = s.cl ∧
            ∀ a, t.rdDa a = s.afterWrite ((cellsAt w.1 w.2).map fun c => ((s.part p).da c.1, c.2)) a) ∧
        ((s.part p).stat = .up → (s.part p).slotLo < w.1 / 64 * 64 + 64 →
          ∃ t, exec (.frameWrite x f {}) s = .next t ∧ counted t ∧ kept t 1 ∧ t.dram = s.dram) ∧
        ((s.part p).stat = .faulted ∨ (s.part p).stat = .resetting →
          ∃ t, exec (.frameWrite x f {}) s = .next t ∧ counted t ∧ kept t 3 ∧ t.dram = s.dram)) ∧
      (s1.target x f false = .dropped →
        ∃ t, exec (.frameWrite x f {}) s = .next t ∧ counted t ∧ kept t 2 ∧ t.dram = s.dram ∧
          (t.port x).drops = min 0xFFFFFFFF ((s1.port x).drops + 1))) ∧
    (s.extest = false → f.cls = 1 → s1.target x f false = .here p → (s.part p).stat = .up →
      ∃ t, exec (.frameReadreq x f) s = .next t ∧ t.parts = s.parts ∧ t.dram = s.dram ∧
        (if (s1.port x).flush.length < 64 then
          (t.port x).flush = (s1.port x).flush ++ [⟨f.src, bits f.c8 23 16, bits f.c8 15 0⟩] ∧
          (t.port x).waitRx = (s1.port x).waitRx
        else (t.port x).flush = (s1.port x).flush ∧ (t.port x).waitRx = (s1.port x).waitRx ++ [(f, false)])) ∧
    (∀ (e : FlushEnt) (r : Nat) (y : PortNo), (s.port x).flush.find? (fun e => (s.part p).reached e.src e.wcnt) = some e →
      (∀ k ∈ (s.port x).waitRx, k.1.cls ≠ 1) → s.dev.rack = some r → s.routeOf p e.src = some y.val → (s.port y).st ≠ .up →
      ∃ t, exec (.flushTableRelease x) s = .next t ∧ (t.port x).flush = (s.port x).flush.erase e ∧
        spGet 0 (t.part p).rxRefuse e.src = 0 ∧ (t.port y).egress = (s.port y).egress ++
          [(mkFrame 2 r e.src 0 0 (e.tid * 2 ^ 16 + spGet 0 (s.part p).rxRefuse e.src * 2 ^ 24) zeros64, none)]) ∧
    (∀ g fl, s.extest = false → f.cls = 2 → s1.target x f false = .here p → (s.part p).stat = .up →
      s.putWaiting p f.src (bits f.c8 23 16) = some (g, fl) →
      ∃ t, exec (.frameReadrsp x f) s = .next t ∧ t.Abandoned s (s.inFlight p) ∧
        (bits f.c8 31 24 = 0 → t.dram = s.dram ∧ t.parts = s.parts ∧
          ∀ k ∈ (t.str g 4).flight, k.waits ≠ .put f.src (bits f.c8 23 16)) ∧
        (bits f.c8 31 24 = 3 → (t.part p).state = 4 ∧ (t.part p).ffCode = 0x09) ∧
        (bits f.c8 31 24 = 1 ∨ bits f.c8 31 24 = 2 → (s.part p).state = 3 →
          (t.part p).state = 4 ∧ (t.part p).ffCode = 0x04))

/-- R375, R378, R390, R398, R404, R494: the first child of a line opens a slot at its home port; the last child of the last
line emits the root, frees the slot and gives the RLY all it needs, whose results are written, unless they cover a part of a
scratchpad word that meets an uncorrectable error (R438; which ones do is free, assumption 2). HELLO ends the training of a
cabled port that has been answered its own. An ABORT of the group faults the partition with PEER_ABORT once for each abort
id. IDLE frames change ports only, but that they may end training. Readings: assumptions 10 and 15. -/
def Obligations.ReduceAndControlFrames : Prop :=
  ∀ (s s1 : State) (x : PortNo) (f : Frame) (p : Nat), s.sized = true → s.memOk = true → s.courtsOk = true →
    s.portPart x = some p → (s.part p).stat = .up → s.extest = false → s.receive x f = (true, s1) →
    (∀ (b : Bool) (y : Nat), f.cls = 3 → s1.target x f false = .here p → (s.part p).courts[bits f.c8 31 29]? = some y →
      (∀ k, (s1.port k).waitRx = []) →
      let c := childOf f b
      ((s1.port y).slots = [] → (s.part p).rlys = [] →
        ∃ t, exec (.frameReduce x f b) s = .next t ∧ (t.port y).slots = [c] ∧ t.parts = s.parts ∧ t.cl = s.cl ∧
          t.dram = s.dram) ∧
      (∀ (c0 : RSlot) (r : RlyReg) (run : Running) (sf df : Fmt), (s1.port y).slots = [c0] → (s.part p).rlys = [r] →
        (c0.rid, c0.epoch, c0.line, c0.fmt, c0.fn, c0.kind, c0.axc, c0.nrtz) =
          (c.rid, c.epoch, c.line, c.fmt, c.fn, c.kind, c.axc, c.nrtz) →
        (∀ a ∈ c0.children, a.1 ≠ bits f.c8 28 23) → c0.children.length + 1 = r.shard.total →
        (r.rid, r.epoch, r.g / 12) = (c.rid, c.epoch, y) → r.need = [c.line] → r.agrees c = true → r.own = [] → r.g < 96 →
        (s.part p).run = some run → Fmt.ofCode r.fmt = some sf → r.dst.format = some df → r.dst.space = 1 →
        let row := (List.range r.shard.total).map fun k =>
          (((c0.children ++ c.children).find? fun a => a.1 == k).map (·.2.2)).getD []
        let done : RlyReg := { r with
          need := [], rows := spSet [] r.rows c.line row, counted := r.counted || c0.susp || b }
        let res := done.results (applyNco run.actx r.nco) sf df
        let dst := plainArg r.dst r.ebase
        ∃ t, exec (.frameReduce x f b) s = .next t ∧ ((dst.merged ≠ [] ∧ (t.part p).state = 4 ∧ (t.part p).ffCode = 0x02) ∨
          (t.port y).slots = [] ∧ (t.part p).rlys = [done] ∧ (t.str r.g 2).flight = (s.str r.g 2).flight ∧
          (∀ a, spGet 0 (t.clu r.g).sp a =
            (lastAt (dst.cells (res.map (·.code))) a).getD (spGet 0 (s.clu r.g).sp a)) ∧
          t.dram = s.dram))) ∧
    (f.cls = 4 → f.c7 = 0 → ∃ t, exec (.frameHello x f) s = .next t ∧ t.parts = s.parts ∧ t.cl = s.cl ∧ t.dram = s.dram ∧
      (t.port x).helloRx = true ∧
      (t.port x).st = (if (s1.port x).st = .training ∧ (s1.port x).replay = [] ∧ s.cabled x = true then .up
        else (s1.port x).st)) ∧
    (∀ (gr : Group) (r : Nat), f.cls = 4 → f.c7 = 1 → s1.target x f true = .here p → (s.part p).rally.group = some gr →
      s.dev.rack = some r →
      let origin := leNat ((f.payload.drop 2).take 1)
      let n := leNat ((f.payload.drop 4).take 2)
      let mine := leNat (f.payload.take 2) = gr.id
      (mine → (origin, n) ∉ (s.part p).aborts → ∃ t, exec (.frameAbort x f) s = .next t ∧ (t.part p).state = 4 ∧
        (t.part p).ffCode = 0x09 ∧ (origin, n) ∈ (t.part p).aborts ∧ t.Abandoned s (s.inFlight p)) ∧
      (mine → (origin, n) ∈ (s.part p).aborts → ∃ t, exec (.frameAbort x f) s = .next t ∧ t.parts = s.parts) ∧
      (¬ mine → ∃ t, exec (.frameAbort x f) s = .next t ∧ t.parts = s.parts ∧
        (t.port x).drops = min 0xFFFFFFFF ((s1.port x).drops + 1))) ∧
    (f.cls = 5 → ∃ t, exec (.frameIdle x f) s = .next t ∧ t.parts = s.parts ∧ t.cl = s.cl ∧ t.dram = s.dram ∧
      t.dev = s.dev ∧ ((s.port x).st = .up → t.windows = s.windows ∧ t.host = s.host))

/-- R376, R379, R391: 2 µs without a good frame, or a frame sent 8 times, takes a port down: its buffers are empty, it trains
again 10 ms later (under EXTEST it cannot yet, R500), no frame waits elsewhere in its buffers, and a RUNNING partition faults
with LINK_DOWN. A rally wait that lasts the group's timeout faults the partition with REDUCTION_TIMEOUT. Readings:
assumptions 14 and 15. -/
def Obligations.LinkTimersAndTimeouts : Prop :=
  ∀ (s : State) (x : PortNo) (p : Nat), s.sized = true → s.courtsOk = true → s.portPart x = some p →
    (∀ c : Instr, (s.port x).st = .up →
      c = .linkCrcTimeout x ∨ (c = .linkReplayLimit x ∧ ∃ n ∈ (s.port x).tries, 8 ≤ n) →
      ∃ t, exec c s = .next t ∧ (t.port x).st = .down ∧ (t.port x).retry = true ∧ (t.port x).hold = false ∧
        (t.port x).replay = [] ∧ (t.port x).waitRx = [] ∧ (s.memOk = true → t.Abandoned s (s.inFlight p)) ∧
        (∀ y, ∀ f ∈ (t.port y).egress, f.2 ≠ some x.val) ∧
        ((s.part p).state = 3 → (t.part p).state = 4 ∧ (t.part p).ffCode = 0x08) ∧
        ((s.part p).state ≠ 3 → t.parts = s.parts ∧ t.cl = s.cl ∧ t.dram = s.dram)) ∧
    ((∀ n ∈ (s.port x).tries, n < 8) → exec (.linkReplayLimit x) s = .next s) ∧
    ((s.port x).st = .down → (s.port x).retry = true → (s.port x).hold = false → s.extest = true →
      ∃ t, exec (.linkRetryTimer x) s = .next t ∧ (t.port x).st = .down ∧ (t.port x).retry = true ∧ t.out = s.out) ∧
    ((s.port x).st = .down → (s.port x).retry = true → (s.port x).hold = false → s.extest = false →
      ∃ t fr, exec (.linkRetryTimer x) s = .next t ∧ (t.port x).st = .training ∧ (t.port x).retry = false ∧
        (t.port x).replay = [fr] ∧ (t.port x).tries = [1] ∧ fr.cls = 4 ∧ fr.c7 = 0 ∧ fr.src = s.dev.rack.getD 0 ∧
        (t.port x).egress = (s.port x).egress ∧ t.out = s.out ++ [.frame x fr] ∧ t.parts = s.parts) ∧
    (∀ (g : Clu) (st : Strm) (gr : Group) (fl : Flight) (addr : Nat), s.ownerG g = some p → (s.part p).state = 3 →
      (s.part p).rally.group = some gr → (s.str g st).flight = [fl] →
      (∃ e, fl.waits = .rly addr e) ∨ (∃ tid, fl.waits = .put addr tid) →
      ∃ t, exec (.reductionTimeout g st) s = .next t ∧ (t.part p).state = 4 ∧ (t.part p).ffCode = 0x0D ∧
        tget 0 (t.part p).ffrec 2 = BitVec.ofNat 32 addr)

/-! ## Faults, sensors, power and boot -/

/-- R443: of the errors of one cycle that would raise faults the one with the lowest code is latched, then that of the lowest
cluster, then that of the lowest stream; every other one is a late error. All of them would while the partition is RUNNING,
PEER_ABORT alone while it is DEFINED or LOADED (R442). Every error names a code, unit and space that are not reserved, and a
cluster, stream and court of the device or none (R441, R444). -/
def Obligations.FaultLatchTakesTheLowest : Prop :=
  ∀ (s : State) (p : Part) (errs : List HwErr) (e : HwErr), s.sized = true → s.courtsOk = true → (s.part p).stat = .up →
    (∀ a ∈ errs, 1 ≤ a.code ∧ a.code ≤ 0x0D ∧ 1 ≤ a.unit ∧ a.unit ≤ 0x0D ∧ a.space ≤ 2 ∧ (a.cluster < 96 ∨ a.cluster = 255) ∧
      (a.stream ≤ 4 ∨ a.stream = 7) ∧ (a.court ≤ 7 ∨ a.court = 15)) →
    let raise := errs.filter fun a => decide ((s.part p).state = 3) || a.code == 0x09
    e ∈ raise →
    (∀ a ∈ raise, a ≠ e → e.code < a.code ∨ (e.code = a.code ∧
      (e.cluster < a.cluster ∨ (e.cluster = a.cluster ∧ e.stream < a.stream)))) →
    ∃ t, exec (.faultLatch p errs) s = .next t ∧ (t.part p).state = 4 ∧ (t.part p).ffCode = e.code ∧
      (t.part p).ffrec = ffrecOf e (1 < raise.length) (s.part p).run ∧
      (t.part p).late = min 0xFFFF ((s.part p).late + (raise.length - 1))

/-- R410, R432, R442, R445 to R451: errors after a fault are late, and none latches while nothing runs; the reports of a
fault end the launch and empty the queue; the reset scrubs the clusters, keeps their hardware counters and rewrites poisoned
lines with zeros; at its end VERIFIED slots wait, and re-verification makes them VERIFIED again or EMPTY, whereupon a LOADED
partition takes its pending settings (R292). Readings: assumptions 14 and 20. -/
def Obligations.FaultReportsAndPartitionResets : Prop :=
  ∀ (s : State) (p : Part) (obs : HwObs), s.sized = true → s.courtsOk = true → s.memOk = true → s.dev.dfault = none →
    (∀ errs : List HwErr, errs ≠ [] →
      (∀ a ∈ errs, latchable a = true ∧ a.code ≠ 0x09) →
      ((s.part p).stat = .up → (s.part p).state ≠ 3 → exec (.faultLatch p errs) s = .next s) ∧
      ((s.part p).stat = .faulted ∨ (s.part p).stat = .resetting → ∃ t, exec (.faultLatch p errs) s = .next t ∧
        (t.part p).late = min 0xFFFF ((s.part p).late + errs.length) ∧ (t.part p).stat = (s.part p).stat ∧ t.cl = s.cl)) ∧
    (∀ r, (s.part p).stat = .faulted → (s.part p).phase = .report → (s.part p).run = some r → (s.part p).jobs = [] →
      (s.part p).reports = [] → r.la.done = none → (∀ la ∈ (s.part p).queue, la.done = none) →
      ∃ t, exec (.faultReport p obs) s = .next t ∧ (t.part p).stat = .faulted ∧ (t.part p).phase = .none ∧ (t.part p).run = none ∧
        (t.part p).queue = [] ∧ (t.part p).ffrec = (s.part p).ffrec ∧ t.dram = s.dram ∧
        ((s.part p).ringEn = false → (t.part p).reports = []) ∧ (∀ q, q ≠ p.val → t.part q = s.part q)) ∧
    ((s.part p).stat = .faulted → (s.part p).phase = .none → (s.part p).reports = [] → s.snoopAll (s.part p).courts = [] →
      ∃ t, exec (.partitionReset p false) s = .next t ∧ (t.part p).state = 5 ∧ (t.part p).tickets = 0 ∧
        (t.part p).gate = false ∧ (t.part p).slots = (s.part p).slots ∧ (t.part p).session = (s.part p).session ∧
        (∀ g ∈ (s.part p).clusters, (t.clu g).sp = [] ∧ (t.clu g).vr = [] ∧ (t.clu g).icache = [] ∧
          (t.clu g).suspect = (s.clu g).suspect ∧ (t.clu g).dFails = (s.clu g).dFails ∧ (t.clu g).spce = (s.clu g).spce) ∧
        (∀ g, g ∉ (s.part p).clusters → t.clu g = s.clu g) ∧
        (∀ q, q ≠ p.val → t.part q =
          { s.part q with drill := (s.part q).drill.map fun j => j.without (s.part p).courts }) ∧
        (s.poison = [] → t.dram = s.dram) ∧
        (∀ l c, s.cause l = some c → c ≠ .held → 64 * l / courtBytes ∈ (s.part p).courts →
          l ∈ (s.chan (chanOf (64 * l))).table → t.cause l = none ∧ ∀ k < 64, t.rdDa (64 * l + k) = 0)) ∧
    ((s.part p).stat = .faulted → (s.part p).phase = .none → (s.part p).reports = [] → s.snoopAll (s.part p).courts = [] →
      ∃ t, exec (.partitionReset p true) s = .next t ∧ t.dev.dfault = some 7) ∧
    ((s.part p).stat = .resetting → (s.part p).phase = .scrubbed →
      ∃ t, exec (.partitionResetEnd p) s = .next t ∧ (t.part p).stat = .up ∧ (t.part p).phase = .verify ∧
        (∀ b, ((s.part p).slot b).st = .verified → ((t.part p).slot b).st = .empty) ∧
        (t.part p).revfy = (s.part p).slots.map (fun k => k.st == .verified) ∧ t.cl = s.cl ∧ t.dram = s.dram) ∧
    ((s.part p).stat = .up → (s.part p).phase = .verify →
      (∀ b, s.snooped ((s.part p).slotLines b ((s.part p).slot b).len) = []) →
      ∃ t, exec (.reverifyDone p {}) s = .next t ∧ (t.part p).phase = .none ∧ t.dram = s.dram ∧
        ((t.part p).state = 2 → (t.part p).set = (s.part p).pendP.getD (s.part p).set ∧ (t.part p).pendP = none) ∧
        ∀ b, (t.part p).slot b =
          let old := (s.part p).slot b
          let bytes := s.slotBytesOf p b old.len
          if tget false (s.part p).revfy (b2n b) = false then old
          else if (s.part p).slotLines b old.len |>.any fun l => (s.cause l).isSome then {}
          else if (verifyImage bytes (s.part p).courts.length old.len).isSome then {} else slotOf bytes old.len)

/-- R344, R446, R452 to R454, R480, R481, R512: a device fault is counted, keeps its cause, faults every partition that is
not FREE, keeps the tally copy of a launch it stops and asserts FAULT_N; one that leaves the core unable to run its handler
is reported on no window, and none takes a line. Another one while it holds is counted, beside a late error in each of those
partitions, but for a thermal trip (readings: assumption 17; that every window's busy work ends then: assumption 14). Under
EXTEST the boundary register drives the device's part of FAULT_N (R500). A sample of nine readings is kept and trips at 110
°C; patrol moves on in whichever state the device is, and marks and counts an uncorrectable line. -/
def Obligations.DeviceFaultsAndSensors : Prop :=
  ∀ (s : State), s.sized = true → s.courtsOk = true → s.memOk = true →
    (∀ cause handler, 1 ≤ cause → cause ≤ 8 → s.dev.stage ≠ 0 →
      (s.dev.dfault = none → ∃ t, exec (.deviceFault cause handler) s = .next t ∧ t.dev.dfault = some cause ∧
        t.dev.dfCount = min 0xFFFF (s.dev.dfCount + 1) ∧ t.dev.lastDf = cause ∧ t.mute = !handler ∧
        t.Abandoned s ((List.range 8).flatMap s.inFlight) ∧ (s.extest = false → t.faultN = !s.board.standby) ∧
        (∀ w, (t.win w).busy = none ∧ (handler = false → (t.win w).reply = (s.win w).reply)) ∧
        (∀ p, (s.part p).stat ≠ .free → (t.part p).state = 4) ∧ (∀ p, (s.part p).stat = .free → (t.part p).state = 0) ∧
        (∀ p, (s.part p).stat = .up → (t.part p).ffCode = 0x1F ∧ ∀ r, (s.part p).run = some r →
          (∃ c, (t.part p).copy = some c ∧ c.tag = r.la.ctx.tag ∧ c.seq = r.la.seq ∧ c.sets = s.tallySets p))) ∧
      (∀ k, s.dev.dfault = some k → cause ≠ 5 → ∃ t, exec (.deviceFault cause handler) s = .next t ∧ t.cl = s.cl ∧
        t.dev = { s.dev with dfCount := min 0xFFFF (s.dev.dfCount + 1), lastDf := cause } ∧
        (∀ p < 8, (s.part p).stat ≠ .free → (t.part p).late = min 0xFFFF ((s.part p).late + 1)) ∧
        ∀ p, (s.part p).stat = .free → t.part p = s.part p) ∧
      (s.dev.dfault ≠ none → exec (.deviceFault 5 handler) s = .next s)) ∧
    (∀ cause handler, s.dev.stage = 0 → exec (.deviceFault cause handler) s = .next s) ∧
    (∀ temps : List (BitVec 8), s.dev.stage ≠ 0 → temps.length = 9 →
      ((∀ v ∈ temps, v.toInt < 110) → s.dev.stage ≠ 1 → exec (.thermalSample temps) s =
        .next (s.updDev fun d => { d with temps := temps.map fun v => some v.toInt })) ∧
      ((∃ v ∈ temps, 110 ≤ v.toInt) → s.dev.dfault = none → ∃ t, exec (.thermalSample temps) s = .next t ∧
        t.dev.trips = min 0xFFFF (s.dev.trips + 1) ∧ t.board.tripSeen = true ∧ t.dev.dfault = some 5)) ∧
    (∀ da, s.board.railsGood = true → da < 8 * courtBytes → s.cause (da / 64) = none →
      exec (.patrolRead da {}) s = .next (s.updDev fun d => { d with patrol := da / 64 }) ∧
      ∃ t, exec (.patrolRead da { dramUe := [da] }) s = .next t ∧ t.cause (da / 64) = some .patrol ∧ t.dram = s.dram ∧
        (t.chan (chanOf (64 * (da / 64)))).pue = min 0xFFFFFFFF ((s.chan (chanOf (64 * (da / 64)))).pue + 1) ∧
        (da / 64 ∈ (t.chan (chanOf (64 * (da / 64)))).table ∨ (t.chan (chanOf (64 * (da / 64)))).ovf = true))

/-- R467, R468, R479, R491 to R493: every device reset returns the machine to its state after reset, its UART at 115,200 baud
and without echo (R271) and without an ephemeral key (R419), but for what R468 keeps, the board, the levels of the UART's two
handshake pins, and device memory, which boot zeroes later (R345); a PERST_N that the board hears resets a device whose link
has reached DL_Up; the loss of the host's REFCLK takes the link down, or ends its training, in common-clock mode only; a
write of the flash that a reset cuts off leaves its bank invalid and the other one as it is. Boot begins at stage 1 when the
last source is released; the release of PERST_N chooses the clocking mode. Reset values the spec does not give: assumption 6.
-/
def Obligations.DeviceResets : Prop :=
  ∀ (s : State),
    (∀ (c : Instr) (r : RstSource) (ns : Nat) (b rc : Bool),
      (c = .resetN ns ∧ 1000 ≤ ns ∧ r = .resetN) ∨
      (c = .perstN b ∧ (if b then s.board.wiring.b else s.board.wiring.a) = true ∧ s.board.linkSeen = true ∧
        r = if b then .perstB else .perstA) ∨
      (c = .hotReset ∧ s.host.dlUp = true ∧ r = .hot) ∨
      (c = .dlDown rc ∧ s.host.dlUp = true ∧ (rc = true → s.board.sris = false) ∧ r = .dl) →
      ∃ t, exec c s = .next t ∧ (∀ k, k ∈ t.dev.resets ↔ k = r ∨ k ∈ s.dev.resets) ∧
        t.dev = { State.reset.dev with
          resets := t.dev.resets, stage := 0, reports := s.dev.reports, dfCount := s.dev.dfCount, trips := s.dev.trips
          lastDf := s.dev.lastDf, jtagSeen := s.dev.jtagSeen, abortN := s.dev.abortN, patrol := s.dev.patrol } ∧
        t.uart = { State.reset.uart with rts := s.uart.rts, cts := false } ∧ t.mute = false ∧
        t.dram = s.dram ∧ t.poison = s.poison ∧ t.parts = State.reset.parts ∧ t.windows = State.reset.windows ∧
        t.cl = State.reset.cl ∧ t.courts = State.reset.courts ∧
        t.chans = State.reset.chans ∧ t.ports = State.reset.ports ∧ t.ide = State.reset.ide ∧ t.host = State.reset.host ∧
        t.spdm = State.reset.spdm ∧ t.fuses = s.fuses ∧ t.running = State.reset.running ∧
        { t.board with perstA := s.board.perstA, perstB := s.board.perstB, refclk := s.board.refclk } = s.board ∧
        (s.dev.fw = none → t.flash = s.flash) ∧
        (∀ j, s.dev.fw = some j → s.flash.length = 2 →
          (t.bankOf j.bank).valid = false ∧ t.bankOf (!j.bank) = s.bankOf (!j.bank))) ∧
    (∀ ns, ns < 1000 → exec (.resetN ns) s = .next s) ∧
    (∀ b, (if b then s.board.wiring.b else s.board.wiring.a) = false → exec (.perstN b) s = .next s) ∧
    (∀ b, (if b then s.board.wiring.b else s.board.wiring.a) = true → s.board.linkSeen = false →
      ∃ t, exec (.perstN b) s = .next t ∧ t.dev = s.dev ∧ t.parts = s.parts ∧ t.host.training = false ∧
        t.board.perst = true) ∧
    (s.board.sris = true → exec (.dlDown true) s = .next (s.updBoard fun b => { b with refclk := false })) ∧
    (s.board.sris = false → s.host.dlUp = false → exec (.dlDown true) s =
      .next ((s.updBoard fun b => { b with refclk := false }).updHost fun h => { h with training := false })) ∧
    (∀ src rc, src ∈ [RstSource.resetN, .hot, .dl] → s.dev.resets = [src] → exec (.resetRelease src rc) s =
      .next ((s.updDev fun d => { d with resets := [], stage := 1 }).updUart fun u => { u with cts := true })) ∧
    (∀ src k rc, src ∈ [RstSource.resetN, .hot, .dl] → s.dev.resets = [src, k] → k ≠ src →
      exec (.resetRelease src rc) s = .next (s.updDev fun d => { d with resets := [k] })) ∧
    (∀ (b rc : Bool), (if b then s.board.wiring.b else s.board.wiring.a) = true →
      let src : RstSource := if b then .perstB else .perstA
      ∃ t, exec (.resetRelease src rc) s = .next t ∧ (if b then t.board.perstB else t.board.perstA) = false ∧
        t.board.refclk = rc ∧ t.board.sris = (if t.board.perst then s.board.sris else !rc) ∧
        t.dev.resets = s.dev.resets.filter (· != src) ∧
        (src ∈ s.dev.resets → (∀ k ∈ s.dev.resets, k = src) → t.dev.stage = 1 ∧ t.uart.cts = true))

/-- R464 to R466, R489, R490, R494 to R500: the input raises and removes the rails, standby power apart, and everything but
flash and fuses is lost with them; a rail fault latches until RESTART and asserts FAULT_N; a module over 1.5 W trips its cage
until it is removed; a cage's trip or the removal of its module takes its port down and faults a RUNNING partition; the meter
follows an input that crosses no threshold (R498). JTAG becomes active only where its fuse allows it; SAMPLE and PRELOAD capture
the pins, PRELOAD and EXTEST load the boundary register, EXTEST has it drive the pins and carries no link, every other
instruction selects bypass; TRST_N, and five TCK with TMS high, bring Test-Logic-Reset back, with every pin at its function. The
TAP's states and data are those of IEEE 1149.1 (assumption 28); readings of the board: assumption 22. -/
def Obligations.PowerAndBoard : Prop :=
  ∀ (s : State),
    (∀ mv wiring, 44000 ≤ mv → mv ≤ 60000 → s.board.inRange = false → s.board.overVolt = false → s.board.railFlt = none →
      ∃ t, exec (.powerOn mv wiring) s = .next t ∧
        t.board = { s.board with
          mv := mv, inRange := true, wiring := wiring, rails := 8, linkSeen := false, tap := {} } ∧
        .power ∈ t.dev.resets ∧ t.dev.stage = 0 ∧ t.dram = [] ∧ t.poison = [] ∧ t.parts = State.reset.parts ∧
        t.running = State.reset.running ∧ t.fuses = s.fuses ∧ (s.dev.fw = none → t.flash = s.flash) ∧
        (t.dev.reports, t.dev.dfCount, t.dev.trips, t.dev.abortN) = (0, 0, 0, 0)) ∧
    (s.board.rails = 8 → s.dev.resets = [.power] → exec .powerOnResetRelease s =
      .next ((s.updDev fun d => { d with resets := [], stage := 1 }).updUart fun u => { u with cts := true })) ∧
    (∀ mv hdr, mv < 41000 ∨ 60000 < mv → ∃ t, exec (.powerOff mv hdr) s = .next t ∧
      t.board.rails = (if t.board.wiring.hdr = true ∨ 0 < mv then 1 else 0) ∧ (mv < 41000 → t.board.wiring.hdr = hdr) ∧
      t.board.inRange = false ∧ t.board.mv = mv ∧ t.board.overVolt = decide (60000 < mv) ∧ .power ∈ t.dev.resets ∧
      t.dram = [] ∧ t.parts = State.reset.parts ∧ t.fuses = s.fuses ∧ (s.dev.fw = none → t.flash = s.flash)) ∧
    (∀ mv, 41000 ≤ mv → mv < 59000 → s.board.overVolt = true → s.board.railFlt = none →
      ∃ t, exec (.overvoltageRestart mv) s = .next t ∧ .power ∈ t.dev.resets ∧
        t.board = { s.board with
          mv := mv, inRange := true, overVolt := false, rails := 8, linkSeen := false, tap := {} }) ∧
    (∀ (c : Instr) (mv : Nat), s.board.inRange = true → s.board.overVolt = false → s.board.rails = 8 → 41000 ≤ mv → mv ≤ 60000 →
      (∃ wiring, c = .powerOn mv wiring) ∨ (∃ hdr, c = .powerOff mv hdr) ∨ c = .overvoltageRestart mv →
      exec c s = .next (s.updBoard fun b => { b with mv := mv }) ∧
        let vin := (s.updBoard fun b => { b with mv := mv }).vin
        99 * mv ≤ 1000 * vin ∧ 1000 * vin ≤ 101 * mv) ∧
    (∀ rail, s.board.rails = 8 → ∃ t, exec (.railFault rail) s = .next t ∧ t.dram = [] ∧ .power ∈ t.dev.resets ∧
      t.board = { s.board with
        rails := if s.board.standby then 1 else 0, railFlt := some rail.val, linkSeen := false, tap := {} } ∧
      (s.board.standby = true → t.faultN = false)) ∧
    (s.board.railFlt ≠ none → s.board.standby = true → ∃ t, exec (.restart 0xA5) s = .next t ∧ t.board.railFlt = none ∧
      (s.board.inRange = true → t.board.rails = 8 ∧ .power ∈ t.dev.resets)) ∧
    (∀ (k : PortNo) (copper : Bool), exec (.cableChange k (some copper)) s = .next (s.updBoard fun b =>
      { b with cages := b.cages.modify k fun c =>
        { present := true, copper := copper, tripped := c.tripped && c.present } })) ∧
    (∀ (k : PortNo) (c : Instr) (cage : Cage), s.sized = true → s.courtsOk = true → s.board.cages.length = 8 →
      let now : Cage := tget {} s.board.cages k
      (∃ mw, c = .cageTrip k mw ∧ 1500 < mw ∧ now.present = true ∧ cage = { now with tripped := true }) ∨
        (c = .cableChange k none ∧ cage = {}) →
      ∃ t, exec c s = .next t ∧ tget {} t.board.cages k = cage ∧ (t.port k).st ≠ .up ∧ t.cabled k = false ∧
        (∀ j, j ≠ k.val → tget {} t.board.cages j = tget {} s.board.cages j) ∧
        ((s.port k).st ≠ .up → t.ports = s.ports ∧ t.parts = s.parts) ∧
        ∀ p, s.portPart k = some p → (s.part p).state = 3 → (s.port k).st = .up →
          (t.part p).state = 4 ∧ (t.part p).ffCode = 0x08) ∧
    (∀ ir clocks, ¬ (s.fuses.jtag = true ∧ s.board.rails = 8) → exec (.jtagTapActive ir clocks) s = .next s) ∧
    (∀ ir, s.fuses.jtag = true → s.board.rails = 8 →
      ∃ t, exec (.jtagTapActive ir [{ tms := true }, { tms := true }, { tms := true }, { tms := true }, { tms := true }]) s =
          .next t ∧ t.board.tap.st = .testLogicReset ∧ t.board.tap.ir = none ∧ t.extest = false ∧
        (ir ≠ .extest → s.extest = false → t.ports = s.ports ∧ { t.board with tap := s.board.tap } = s.board)) ∧
    (∀ ir tms tdi, s.fuses.jtag = true → s.board.rails = 8 →
      exec (.jtagTapActive ir [{ tms := tms, tdi := tdi, trst := true }]) s =
        .next (s.updBoard fun b => { b with tap := { b.tap with st := .testLogicReset, ir := none } })) ∧
    (∀ ir, s.fuses.jtag = true → s.board.rails = 8 → s.board.tap.st = .testLogicReset → s.sized = true →
      ∃ t, exec (.jtagTapActive ir [{ tms := false }, { tms := true }, { tms := true }, { tms := false }, { tms := false },
          { tms := true }, { tms := true }]) s = .next t ∧
        t.board = { s.board with
          tap := { s.board.tap with st := .updateIr, ir := some ir, irSh := shiftIn irCaptured true } } ∧
        t.dev.jtagSeen = true) ∧
    (∀ ir tms tdi, s.fuses.jtag = true → s.board.rails = 8 →
      let a := s.board.tap
      let boundary : Prop := a.ir = some .sample ∨ a.ir = some .preload ∨ a.ir = some .extest
      ∃ t, exec (.jtagTapActive ir [{ tms := tms, tdi := tdi }]) s = .next t ∧
        let b := t.board.tap
        b.st = a.st.next tms ∧ (b.st = .testLogicReset → b.ir = none) ∧ (b.st = .updateIr → b.ir = some ir) ∧
        (b.st ≠ .testLogicReset → b.st ≠ .updateIr → b.ir = some (a.ir.getD .bypass)) ∧
        (a.st = .captureDr → (boundary → b.bsr = s.pinLevels) ∧ (¬ boundary → b.byp = false)) ∧
        (a.st = .shiftDr → (boundary → b.bsr = (a.bsr ++ [tdi]).drop 1) ∧ (¬ boundary → b.byp = tdi)) ∧
        (b.st = .shiftDr → (boundary → ∀ x, b.bsr.head? = some x → .tdo x ∈ t.out) ∧ (¬ boundary → .tdo b.byp ∈ t.out)) ∧
        (b.st = .updateDr → (a.ir = some .preload ∨ a.ir = some .extest) → b.load = a.bsr) ∧
        ((b.st ≠ .updateDr ∨ (a.ir ≠ some .preload ∧ a.ir ≠ some .extest)) → b.load = a.load)) ∧
    (s.extest = true → ∀ k, s.cell k = some ((s.board.tap.load[Config.boundaryCell k]?).getD
        (Config.boundaryInit (Config.boundaryCell k))) ∧ s.txdPin = s.cell 2 ∧
      (s.board.standby = true → s.faultN = ((s.cell 0).getD true && s.board.railFlt.isNone) ∧
        s.ctsPin = (s.cell 1).map not)) ∧
    (∀ ir, s.fuses.jtag = true → s.board.rails = 8 → s.sized = true →
      ∃ t, exec (.jtagTapActive ir) s = .next t ∧ t.dev.jtagSeen = true ∧
        t.board.tap = { s.board.tap with st := .runTestIdle, ir := some ir } ∧
        (ir = .extest → t.host.dlUp = false ∧ t.host.training = false ∧ ∀ x, (t.port x).st = .down ∧ t.cabled x = false) ∧
        (ir ≠ .extest → t = (s.updDev fun d => { d with jtagSeen := true }).updBoard fun b =>
          { b with tap := { b.tap with st := .runTestIdle, ir := some ir } }))

/-- R345, R467, R470, R471, R473 to R477, R484, R491, R515: the boot stages in order, what each does, and how boot stops: a
thermal hold at 100 °C, which follows every sample in stage 1, no bank that verifies, a channel that does not train, a device
fault. What becomes ready holds the values of R477's table. The host link trains from stage 3 on, while no PERST_N and no
EXTEST holds it and it has a clock, and comes up at a width and rate of R515, at most x8 without connector B. Readings of
boot: assumption 22; device memory before stage 5: assumption 18. -/
def Obligations.BootStages : Prop :=
  ∀ (s : State), s.dev.resets = [] → s.dev.dfault = none → s.dev.ready = false →
    (s.dev.bootErr ≠ 1 → s.dev.bootErr ≠ 2 →
      (∀ c m, 1 ≤ c → c ≤ 8 → 1 ≤ s.dev.stage →
        ∃ t, exec (.bootStageAdvance { cause := some c, chan := m }) s = .next t ∧ t.dev.dfault = some c) ∧
      (s.dev.stage = 1 → exec (.bootStageAdvance {}) s = .next (s.updDev fun d =>
        if s.tooHot then { d with bootErr := 3 } else { d with bootErr := 0, stage := 2 })) ∧
      (∀ b, s.dev.stage = 2 → s.flash.length = 2 → (s.bankOf b).next = true → (s.bankOf (!b)).next = false →
        (s.bankOf b).attempts < 3 → (s.bankOf b).valid = true → (s.bankOf (!b)).valid = false →
        ∃ t, exec (.bootStageAdvance {}) s = .next t ∧
          t.bankOf b = { s.bankOf b with attempts := (s.bankOf b).attempts + 1 } ∧
          (s.bundleOk (s.bankOf b).bundle = true → t.dev.stage = 3 ∧ t.dev.bank = b ∧ t.dev.memInfo = true ∧
            t.bankOf (!b) = s.bankOf (!b) ∧ t.running.bundle = (s.bankOf b).bundle) ∧
          (s.bundleOk (s.bankOf b).bundle = false → t.dev.stage = 2 ∧ t.dev.bootErr = 1)) ∧
      (s.dev.stage = 2 → s.flash.length = 2 → (∀ b, (s.bankOf b).valid = false) →
        ∃ t, exec (.bootStageAdvance {}) s = .next t ∧ t.dev.stage = 2 ∧ t.dev.bootErr = 1) ∧
      (s.dev.stage = 3 → exec (.bootStageAdvance {}) s = .next (s.updDev fun d => { d with stage := 4 })) ∧
      (s.dev.stage = 4 → exec (.bootStageAdvance {}) s = .next (s.updDev fun d => { d with stage := 5 }) ∧
        ∀ m, exec (.bootStageAdvance { chan := some m }) s =
          .next (s.updDev fun d => { d with bootErr := 2, beChan := m.val })) ∧
      (s.dev.stage = 5 → ∃ t, exec (.bootStageAdvance {}) s = .next t ∧ t.dev.stage = 6 ∧ t.dram = [] ∧ t.poison = [] ∧
        t.parts = s.parts) ∧
      (s.dev.stage = 6 → s.flash.length = 2 → ∃ t, exec (.bootStageAdvance {}) s = .next t ∧ t.dev.ready = true ∧
        t.dev.memAct = true ∧ t.dev.rack = none ∧ (t.bankOf s.dev.bank).attempts = 0 ∧ t.chans = State.reset.chans ∧
        t.parts = State.reset.parts ∧ t.ports = State.reset.ports ∧ t.cl = State.reset.cl ∧ t.dram = [] ∧
        t.poison = [] ∧ t.ide = State.reset.ide ∧ t.host.hdm = none ∧ t.host.msixEn = false ∧ t.uart.baud = 115200 ∧
        (t.host.aerEn, t.host.aerUnc, t.host.aerPtr, t.host.mbox) = (s.host.aerEn, s.host.aerUnc, s.host.aerPtr, s.host.mbox) ∧
        t.board = s.board ∧ (∀ v e, .msix v e ∈ t.out → .msix v e ∈ s.out) ∧
        (t.win 8).reply = okLine {} [kv "part" s.partName, asc "step=a1", kv "fw" (versionText s.running), asc "rack=none",
          asc "ready=1", asc "df=0x00"] ++ [10] ∧
        t.fuses = (if s.running.parts.2.2.2.2.2.2.2 = true ∧ s.fuses.raises < 63 ∧
            s.fuses.minSec < s.running.parts.2.2.2.2.2.2.1 then
          { s.fuses with minSec := s.running.parts.2.2.2.2.2.2.1, raises := s.fuses.raises + 1 } else s.fuses))) ∧
    (s.dev.bootErr = 1 ∨ s.dev.bootErr = 2 → exec (.bootStageAdvance {}) s = .next s) ∧
    (∀ temps : List (BitVec 8), s.dev.stage = 1 → temps.length = 9 → (∀ v ∈ temps, v.toInt < 110) →
      ∃ t, exec (.thermalSample temps) s = .next t ∧ t.dev = { s.dev with
        temps := temps.map (fun v => some v.toInt)
        bootErr := if ∃ v ∈ temps, 100 ≤ v.toInt then 3 else if s.dev.bootErr = 3 then 0 else s.dev.bootErr }) ∧
    (3 ≤ s.dev.stage → s.host.dlUp = false → s.board.perst = false → s.extest = false →
      (s.board.refclk = true ∨ s.board.sris = true) →
      exec .hostLinkTraining s = .next (s.updHost fun h => { h with training := true })) ∧
    (∀ width rate cxl, s.extest = true ∨ (s.board.refclk = false ∧ s.board.sris = false) →
      exec .hostLinkTraining s = .next s ∧ exec (.dlUp width rate cxl) s = .next s) ∧
    (∀ width rate cxl, s.host.training = true → s.extest = false → (s.board.refclk = true ∨ s.board.sris = true) →
      1 ≤ rate → rate ≤ 6 →
      (width ∈ [1, 2, 4, 8] ∨ (width = 16 ∧ s.board.wiring.b = true) →
        exec (.dlUp width rate cxl) s = .next ((s.updHost fun h =>
          { h with training := false, dlUp := true, width := width, rate := rate, cxl := cxl }).updBoard fun b =>
            { b with linkSeen := true })) ∧
      (width = 16 → s.board.wiring.b = false → exec (.dlUp width rate cxl) s = .next s))
end

