-- ==== Sys2Proof/Laws/State.lean ====
section
/-! SUPPORT. What each update of the state does to each field: one lemma for each pair. -/

namespace Sys2Proof.Machine

variable (s : State)

/-! ## updPart -/

@[simp] theorem updPart_pending (p : Nat) (f : Partition → Partition) : (s.updPart p f).pending = s.pending := rfl
@[simp] theorem updPart_free (p : Nat) (f : Partition → Partition) : (s.updPart p f).free = s.free := rfl
@[simp] theorem updPart_undo (p : Nat) (f : Partition → Partition) : (s.updPart p f).undo = s.undo := rfl
@[simp] theorem updPart_out (p : Nat) (f : Partition → Partition) : (s.updPart p f).out = s.out := rfl
@[simp] theorem updPart_fuses (p : Nat) (f : Partition → Partition) : (s.updPart p f).fuses = s.fuses := rfl
@[simp] theorem updPart_flash (p : Nat) (f : Partition → Partition) : (s.updPart p f).flash = s.flash := rfl
@[simp] theorem updPart_running (p : Nat) (f : Partition → Partition) : (s.updPart p f).running = s.running := rfl
@[simp] theorem updPart_dev (p : Nat) (f : Partition → Partition) : (s.updPart p f).dev = s.dev := rfl
@[simp] theorem updPart_windows (p : Nat) (f : Partition → Partition) : (s.updPart p f).windows = s.windows := rfl
@[simp] theorem updPart_uart (p : Nat) (f : Partition → Partition) : (s.updPart p f).uart = s.uart := rfl
@[simp] theorem updPart_parts (p : Nat) (f : Partition → Partition) : (s.updPart p f).parts = s.parts.modify p f := rfl
@[simp] theorem updPart_courts (p : Nat) (f : Partition → Partition) : (s.updPart p f).courts = s.courts := rfl
@[simp] theorem updPart_cl (p : Nat) (f : Partition → Partition) : (s.updPart p f).cl = s.cl := rfl
@[simp] theorem updPart_chans (p : Nat) (f : Partition → Partition) : (s.updPart p f).chans = s.chans := rfl
@[simp] theorem updPart_ports (p : Nat) (f : Partition → Partition) : (s.updPart p f).ports = s.ports := rfl
@[simp] theorem updPart_dram (p : Nat) (f : Partition → Partition) : (s.updPart p f).dram = s.dram := rfl
@[simp] theorem updPart_poison (p : Nat) (f : Partition → Partition) : (s.updPart p f).poison = s.poison := rfl
@[simp] theorem updPart_ide (p : Nat) (f : Partition → Partition) : (s.updPart p f).ide = s.ide := rfl
@[simp] theorem updPart_host (p : Nat) (f : Partition → Partition) : (s.updPart p f).host = s.host := rfl
@[simp] theorem updPart_spdm (p : Nat) (f : Partition → Partition) : (s.updPart p f).spdm = s.spdm := rfl
@[simp] theorem updPart_board (p : Nat) (f : Partition → Partition) : (s.updPart p f).board = s.board := rfl

/-! ## updWin -/

@[simp] theorem updWin_pending (w : Nat) (f : Window → Window) : (s.updWin w f).pending = s.pending := rfl
@[simp] theorem updWin_free (w : Nat) (f : Window → Window) : (s.updWin w f).free = s.free := rfl
@[simp] theorem updWin_undo (w : Nat) (f : Window → Window) : (s.updWin w f).undo = s.undo := rfl
@[simp] theorem updWin_out (w : Nat) (f : Window → Window) : (s.updWin w f).out = s.out := rfl
@[simp] theorem updWin_fuses (w : Nat) (f : Window → Window) : (s.updWin w f).fuses = s.fuses := rfl
@[simp] theorem updWin_flash (w : Nat) (f : Window → Window) : (s.updWin w f).flash = s.flash := rfl
@[simp] theorem updWin_running (w : Nat) (f : Window → Window) : (s.updWin w f).running = s.running := rfl
@[simp] theorem updWin_dev (w : Nat) (f : Window → Window) : (s.updWin w f).dev = s.dev := rfl
@[simp] theorem updWin_windows (w : Nat) (f : Window → Window) : (s.updWin w f).windows = s.windows.modify w f := rfl
@[simp] theorem updWin_uart (w : Nat) (f : Window → Window) : (s.updWin w f).uart = s.uart := rfl
@[simp] theorem updWin_parts (w : Nat) (f : Window → Window) : (s.updWin w f).parts = s.parts := rfl
@[simp] theorem updWin_courts (w : Nat) (f : Window → Window) : (s.updWin w f).courts = s.courts := rfl
@[simp] theorem updWin_cl (w : Nat) (f : Window → Window) : (s.updWin w f).cl = s.cl := rfl
@[simp] theorem updWin_chans (w : Nat) (f : Window → Window) : (s.updWin w f).chans = s.chans := rfl
@[simp] theorem updWin_ports (w : Nat) (f : Window → Window) : (s.updWin w f).ports = s.ports := rfl
@[simp] theorem updWin_dram (w : Nat) (f : Window → Window) : (s.updWin w f).dram = s.dram := rfl
@[simp] theorem updWin_poison (w : Nat) (f : Window → Window) : (s.updWin w f).poison = s.poison := rfl
@[simp] theorem updWin_ide (w : Nat) (f : Window → Window) : (s.updWin w f).ide = s.ide := rfl
@[simp] theorem updWin_host (w : Nat) (f : Window → Window) : (s.updWin w f).host = s.host := rfl
@[simp] theorem updWin_spdm (w : Nat) (f : Window → Window) : (s.updWin w f).spdm = s.spdm := rfl
@[simp] theorem updWin_board (w : Nat) (f : Window → Window) : (s.updWin w f).board = s.board := rfl

/-! ## updCourt -/

@[simp] theorem updCourt_pending (c : Nat) (f : CourtSt → CourtSt) : (s.updCourt c f).pending = s.pending := rfl
@[simp] theorem updCourt_free (c : Nat) (f : CourtSt → CourtSt) : (s.updCourt c f).free = s.free := rfl
@[simp] theorem updCourt_undo (c : Nat) (f : CourtSt → CourtSt) : (s.updCourt c f).undo = s.undo := rfl
@[simp] theorem updCourt_out (c : Nat) (f : CourtSt → CourtSt) : (s.updCourt c f).out = s.out := rfl
@[simp] theorem updCourt_fuses (c : Nat) (f : CourtSt → CourtSt) : (s.updCourt c f).fuses = s.fuses := rfl
@[simp] theorem updCourt_flash (c : Nat) (f : CourtSt → CourtSt) : (s.updCourt c f).flash = s.flash := rfl
@[simp] theorem updCourt_running (c : Nat) (f : CourtSt → CourtSt) : (s.updCourt c f).running = s.running := rfl
@[simp] theorem updCourt_dev (c : Nat) (f : CourtSt → CourtSt) : (s.updCourt c f).dev = s.dev := rfl
@[simp] theorem updCourt_windows (c : Nat) (f : CourtSt → CourtSt) : (s.updCourt c f).windows = s.windows := rfl
@[simp] theorem updCourt_uart (c : Nat) (f : CourtSt → CourtSt) : (s.updCourt c f).uart = s.uart := rfl
@[simp] theorem updCourt_parts (c : Nat) (f : CourtSt → CourtSt) : (s.updCourt c f).parts = s.parts := rfl
@[simp] theorem updCourt_courts (c : Nat) (f : CourtSt → CourtSt) : (s.updCourt c f).courts = s.courts.modify c f := rfl
@[simp] theorem updCourt_cl (c : Nat) (f : CourtSt → CourtSt) : (s.updCourt c f).cl = s.cl := rfl
@[simp] theorem updCourt_chans (c : Nat) (f : CourtSt → CourtSt) : (s.updCourt c f).chans = s.chans := rfl
@[simp] theorem updCourt_ports (c : Nat) (f : CourtSt → CourtSt) : (s.updCourt c f).ports = s.ports := rfl
@[simp] theorem updCourt_dram (c : Nat) (f : CourtSt → CourtSt) : (s.updCourt c f).dram = s.dram := rfl
@[simp] theorem updCourt_poison (c : Nat) (f : CourtSt → CourtSt) : (s.updCourt c f).poison = s.poison := rfl
@[simp] theorem updCourt_ide (c : Nat) (f : CourtSt → CourtSt) : (s.updCourt c f).ide = s.ide := rfl
@[simp] theorem updCourt_host (c : Nat) (f : CourtSt → CourtSt) : (s.updCourt c f).host = s.host := rfl
@[simp] theorem updCourt_spdm (c : Nat) (f : CourtSt → CourtSt) : (s.updCourt c f).spdm = s.spdm := rfl
@[simp] theorem updCourt_board (c : Nat) (f : CourtSt → CourtSt) : (s.updCourt c f).board = s.board := rfl

/-! ## updClu -/

@[simp] theorem updClu_pending (g : Nat) (f : Cluster → Cluster) : (s.updClu g f).pending = s.pending := rfl
@[simp] theorem updClu_free (g : Nat) (f : Cluster → Cluster) : (s.updClu g f).free = s.free := rfl
@[simp] theorem updClu_undo (g : Nat) (f : Cluster → Cluster) : (s.updClu g f).undo = s.undo := rfl
@[simp] theorem updClu_out (g : Nat) (f : Cluster → Cluster) : (s.updClu g f).out = s.out := rfl
@[simp] theorem updClu_fuses (g : Nat) (f : Cluster → Cluster) : (s.updClu g f).fuses = s.fuses := rfl
@[simp] theorem updClu_flash (g : Nat) (f : Cluster → Cluster) : (s.updClu g f).flash = s.flash := rfl
@[simp] theorem updClu_running (g : Nat) (f : Cluster → Cluster) : (s.updClu g f).running = s.running := rfl
@[simp] theorem updClu_dev (g : Nat) (f : Cluster → Cluster) : (s.updClu g f).dev = s.dev := rfl
@[simp] theorem updClu_windows (g : Nat) (f : Cluster → Cluster) : (s.updClu g f).windows = s.windows := rfl
@[simp] theorem updClu_uart (g : Nat) (f : Cluster → Cluster) : (s.updClu g f).uart = s.uart := rfl
@[simp] theorem updClu_parts (g : Nat) (f : Cluster → Cluster) : (s.updClu g f).parts = s.parts := rfl
@[simp] theorem updClu_courts (g : Nat) (f : Cluster → Cluster) : (s.updClu g f).courts = s.courts := rfl
@[simp] theorem updClu_cl (g : Nat) (f : Cluster → Cluster) : (s.updClu g f).cl = s.cl.modify g f := rfl
@[simp] theorem updClu_chans (g : Nat) (f : Cluster → Cluster) : (s.updClu g f).chans = s.chans := rfl
@[simp] theorem updClu_ports (g : Nat) (f : Cluster → Cluster) : (s.updClu g f).ports = s.ports := rfl
@[simp] theorem updClu_dram (g : Nat) (f : Cluster → Cluster) : (s.updClu g f).dram = s.dram := rfl
@[simp] theorem updClu_poison (g : Nat) (f : Cluster → Cluster) : (s.updClu g f).poison = s.poison := rfl
@[simp] theorem updClu_ide (g : Nat) (f : Cluster → Cluster) : (s.updClu g f).ide = s.ide := rfl
@[simp] theorem updClu_host (g : Nat) (f : Cluster → Cluster) : (s.updClu g f).host = s.host := rfl
@[simp] theorem updClu_spdm (g : Nat) (f : Cluster → Cluster) : (s.updClu g f).spdm = s.spdm := rfl
@[simp] theorem updClu_board (g : Nat) (f : Cluster → Cluster) : (s.updClu g f).board = s.board := rfl

/-! ## updChan -/

@[simp] theorem updChan_pending (m : Nat) (f : Channel → Channel) : (s.updChan m f).pending = s.pending := rfl
@[simp] theorem updChan_free (m : Nat) (f : Channel → Channel) : (s.updChan m f).free = s.free := rfl
@[simp] theorem updChan_undo (m : Nat) (f : Channel → Channel) : (s.updChan m f).undo = s.undo := rfl
@[simp] theorem updChan_out (m : Nat) (f : Channel → Channel) : (s.updChan m f).out = s.out := rfl
@[simp] theorem updChan_fuses (m : Nat) (f : Channel → Channel) : (s.updChan m f).fuses = s.fuses := rfl
@[simp] theorem updChan_flash (m : Nat) (f : Channel → Channel) : (s.updChan m f).flash = s.flash := rfl
@[simp] theorem updChan_running (m : Nat) (f : Channel → Channel) : (s.updChan m f).running = s.running := rfl
@[simp] theorem updChan_dev (m : Nat) (f : Channel → Channel) : (s.updChan m f).dev = s.dev := rfl
@[simp] theorem updChan_windows (m : Nat) (f : Channel → Channel) : (s.updChan m f).windows = s.windows := rfl
@[simp] theorem updChan_uart (m : Nat) (f : Channel → Channel) : (s.updChan m f).uart = s.uart := rfl
@[simp] theorem updChan_parts (m : Nat) (f : Channel → Channel) : (s.updChan m f).parts = s.parts := rfl
@[simp] theorem updChan_courts (m : Nat) (f : Channel → Channel) : (s.updChan m f).courts = s.courts := rfl
@[simp] theorem updChan_cl (m : Nat) (f : Channel → Channel) : (s.updChan m f).cl = s.cl := rfl
@[simp] theorem updChan_chans (m : Nat) (f : Channel → Channel) : (s.updChan m f).chans = s.chans.modify m f := rfl
@[simp] theorem updChan_ports (m : Nat) (f : Channel → Channel) : (s.updChan m f).ports = s.ports := rfl
@[simp] theorem updChan_dram (m : Nat) (f : Channel → Channel) : (s.updChan m f).dram = s.dram := rfl
@[simp] theorem updChan_poison (m : Nat) (f : Channel → Channel) : (s.updChan m f).poison = s.poison := rfl
@[simp] theorem updChan_ide (m : Nat) (f : Channel → Channel) : (s.updChan m f).ide = s.ide := rfl
@[simp] theorem updChan_host (m : Nat) (f : Channel → Channel) : (s.updChan m f).host = s.host := rfl
@[simp] theorem updChan_spdm (m : Nat) (f : Channel → Channel) : (s.updChan m f).spdm = s.spdm := rfl
@[simp] theorem updChan_board (m : Nat) (f : Channel → Channel) : (s.updChan m f).board = s.board := rfl

/-! ## updPort -/

@[simp] theorem updPort_pending (x : Nat) (f : Port → Port) : (s.updPort x f).pending = s.pending := rfl
@[simp] theorem updPort_free (x : Nat) (f : Port → Port) : (s.updPort x f).free = s.free := rfl
@[simp] theorem updPort_undo (x : Nat) (f : Port → Port) : (s.updPort x f).undo = s.undo := rfl
@[simp] theorem updPort_out (x : Nat) (f : Port → Port) : (s.updPort x f).out = s.out := rfl
@[simp] theorem updPort_fuses (x : Nat) (f : Port → Port) : (s.updPort x f).fuses = s.fuses := rfl
@[simp] theorem updPort_flash (x : Nat) (f : Port → Port) : (s.updPort x f).flash = s.flash := rfl
@[simp] theorem updPort_running (x : Nat) (f : Port → Port) : (s.updPort x f).running = s.running := rfl
@[simp] theorem updPort_dev (x : Nat) (f : Port → Port) : (s.updPort x f).dev = s.dev := rfl
@[simp] theorem updPort_windows (x : Nat) (f : Port → Port) : (s.updPort x f).windows = s.windows := rfl
@[simp] theorem updPort_uart (x : Nat) (f : Port → Port) : (s.updPort x f).uart = s.uart := rfl
@[simp] theorem updPort_parts (x : Nat) (f : Port → Port) : (s.updPort x f).parts = s.parts := rfl
@[simp] theorem updPort_courts (x : Nat) (f : Port → Port) : (s.updPort x f).courts = s.courts := rfl
@[simp] theorem updPort_cl (x : Nat) (f : Port → Port) : (s.updPort x f).cl = s.cl := rfl
@[simp] theorem updPort_chans (x : Nat) (f : Port → Port) : (s.updPort x f).chans = s.chans := rfl
@[simp] theorem updPort_ports (x : Nat) (f : Port → Port) : (s.updPort x f).ports = s.ports.modify x f := rfl
@[simp] theorem updPort_dram (x : Nat) (f : Port → Port) : (s.updPort x f).dram = s.dram := rfl
@[simp] theorem updPort_poison (x : Nat) (f : Port → Port) : (s.updPort x f).poison = s.poison := rfl
@[simp] theorem updPort_ide (x : Nat) (f : Port → Port) : (s.updPort x f).ide = s.ide := rfl
@[simp] theorem updPort_host (x : Nat) (f : Port → Port) : (s.updPort x f).host = s.host := rfl
@[simp] theorem updPort_spdm (x : Nat) (f : Port → Port) : (s.updPort x f).spdm = s.spdm := rfl
@[simp] theorem updPort_board (x : Nat) (f : Port → Port) : (s.updPort x f).board = s.board := rfl

/-! ## updIde -/

@[simp] theorem updIde_pending (k : Nat) (f : IdeSlot → IdeSlot) : (s.updIde k f).pending = s.pending := rfl
@[simp] theorem updIde_free (k : Nat) (f : IdeSlot → IdeSlot) : (s.updIde k f).free = s.free := rfl
@[simp] theorem updIde_undo (k : Nat) (f : IdeSlot → IdeSlot) : (s.updIde k f).undo = s.undo := rfl
@[simp] theorem updIde_out (k : Nat) (f : IdeSlot → IdeSlot) : (s.updIde k f).out = s.out := rfl
@[simp] theorem updIde_fuses (k : Nat) (f : IdeSlot → IdeSlot) : (s.updIde k f).fuses = s.fuses := rfl
@[simp] theorem updIde_flash (k : Nat) (f : IdeSlot → IdeSlot) : (s.updIde k f).flash = s.flash := rfl
@[simp] theorem updIde_running (k : Nat) (f : IdeSlot → IdeSlot) : (s.updIde k f).running = s.running := rfl
@[simp] theorem updIde_dev (k : Nat) (f : IdeSlot → IdeSlot) : (s.updIde k f).dev = s.dev := rfl
@[simp] theorem updIde_windows (k : Nat) (f : IdeSlot → IdeSlot) : (s.updIde k f).windows = s.windows := rfl
@[simp] theorem updIde_uart (k : Nat) (f : IdeSlot → IdeSlot) : (s.updIde k f).uart = s.uart := rfl
@[simp] theorem updIde_parts (k : Nat) (f : IdeSlot → IdeSlot) : (s.updIde k f).parts = s.parts := rfl
@[simp] theorem updIde_courts (k : Nat) (f : IdeSlot → IdeSlot) : (s.updIde k f).courts = s.courts := rfl
@[simp] theorem updIde_cl (k : Nat) (f : IdeSlot → IdeSlot) : (s.updIde k f).cl = s.cl := rfl
@[simp] theorem updIde_chans (k : Nat) (f : IdeSlot → IdeSlot) : (s.updIde k f).chans = s.chans := rfl
@[simp] theorem updIde_ports (k : Nat) (f : IdeSlot → IdeSlot) : (s.updIde k f).ports = s.ports := rfl
@[simp] theorem updIde_dram (k : Nat) (f : IdeSlot → IdeSlot) : (s.updIde k f).dram = s.dram := rfl
@[simp] theorem updIde_poison (k : Nat) (f : IdeSlot → IdeSlot) : (s.updIde k f).poison = s.poison := rfl
@[simp] theorem updIde_ide (k : Nat) (f : IdeSlot → IdeSlot) : (s.updIde k f).ide = s.ide.modify k f := rfl
@[simp] theorem updIde_host (k : Nat) (f : IdeSlot → IdeSlot) : (s.updIde k f).host = s.host := rfl
@[simp] theorem updIde_spdm (k : Nat) (f : IdeSlot → IdeSlot) : (s.updIde k f).spdm = s.spdm := rfl
@[simp] theorem updIde_board (k : Nat) (f : IdeSlot → IdeSlot) : (s.updIde k f).board = s.board := rfl

/-! ## updDev -/

@[simp] theorem updDev_pending (f : Device → Device) : (s.updDev f).pending = s.pending := rfl
@[simp] theorem updDev_free (f : Device → Device) : (s.updDev f).free = s.free := rfl
@[simp] theorem updDev_undo (f : Device → Device) : (s.updDev f).undo = s.undo := rfl
@[simp] theorem updDev_out (f : Device → Device) : (s.updDev f).out = s.out := rfl
@[simp] theorem updDev_fuses (f : Device → Device) : (s.updDev f).fuses = s.fuses := rfl
@[simp] theorem updDev_flash (f : Device → Device) : (s.updDev f).flash = s.flash := rfl
@[simp] theorem updDev_running (f : Device → Device) : (s.updDev f).running = s.running := rfl
@[simp] theorem updDev_dev (f : Device → Device) : (s.updDev f).dev = f s.dev := rfl
@[simp] theorem updDev_windows (f : Device → Device) : (s.updDev f).windows = s.windows := rfl
@[simp] theorem updDev_uart (f : Device → Device) : (s.updDev f).uart = s.uart := rfl
@[simp] theorem updDev_parts (f : Device → Device) : (s.updDev f).parts = s.parts := rfl
@[simp] theorem updDev_courts (f : Device → Device) : (s.updDev f).courts = s.courts := rfl
@[simp] theorem updDev_cl (f : Device → Device) : (s.updDev f).cl = s.cl := rfl
@[simp] theorem updDev_chans (f : Device → Device) : (s.updDev f).chans = s.chans := rfl
@[simp] theorem updDev_ports (f : Device → Device) : (s.updDev f).ports = s.ports := rfl
@[simp] theorem updDev_dram (f : Device → Device) : (s.updDev f).dram = s.dram := rfl
@[simp] theorem updDev_poison (f : Device → Device) : (s.updDev f).poison = s.poison := rfl
@[simp] theorem updDev_ide (f : Device → Device) : (s.updDev f).ide = s.ide := rfl
@[simp] theorem updDev_host (f : Device → Device) : (s.updDev f).host = s.host := rfl
@[simp] theorem updDev_spdm (f : Device → Device) : (s.updDev f).spdm = s.spdm := rfl
@[simp] theorem updDev_board (f : Device → Device) : (s.updDev f).board = s.board := rfl

/-! ## updHost -/

@[simp] theorem updHost_pending (f : HostLink → HostLink) : (s.updHost f).pending = s.pending := rfl
@[simp] theorem updHost_free (f : HostLink → HostLink) : (s.updHost f).free = s.free := rfl
@[simp] theorem updHost_undo (f : HostLink → HostLink) : (s.updHost f).undo = s.undo := rfl
@[simp] theorem updHost_out (f : HostLink → HostLink) : (s.updHost f).out = s.out := rfl
@[simp] theorem updHost_fuses (f : HostLink → HostLink) : (s.updHost f).fuses = s.fuses := rfl
@[simp] theorem updHost_flash (f : HostLink → HostLink) : (s.updHost f).flash = s.flash := rfl
@[simp] theorem updHost_running (f : HostLink → HostLink) : (s.updHost f).running = s.running := rfl
@[simp] theorem updHost_dev (f : HostLink → HostLink) : (s.updHost f).dev = s.dev := rfl
@[simp] theorem updHost_windows (f : HostLink → HostLink) : (s.updHost f).windows = s.windows := rfl
@[simp] theorem updHost_uart (f : HostLink → HostLink) : (s.updHost f).uart = s.uart := rfl
@[simp] theorem updHost_parts (f : HostLink → HostLink) : (s.updHost f).parts = s.parts := rfl
@[simp] theorem updHost_courts (f : HostLink → HostLink) : (s.updHost f).courts = s.courts := rfl
@[simp] theorem updHost_cl (f : HostLink → HostLink) : (s.updHost f).cl = s.cl := rfl
@[simp] theorem updHost_chans (f : HostLink → HostLink) : (s.updHost f).chans = s.chans := rfl
@[simp] theorem updHost_ports (f : HostLink → HostLink) : (s.updHost f).ports = s.ports := rfl
@[simp] theorem updHost_dram (f : HostLink → HostLink) : (s.updHost f).dram = s.dram := rfl
@[simp] theorem updHost_poison (f : HostLink → HostLink) : (s.updHost f).poison = s.poison := rfl
@[simp] theorem updHost_ide (f : HostLink → HostLink) : (s.updHost f).ide = s.ide := rfl
@[simp] theorem updHost_host (f : HostLink → HostLink) : (s.updHost f).host = f s.host := rfl
@[simp] theorem updHost_spdm (f : HostLink → HostLink) : (s.updHost f).spdm = s.spdm := rfl
@[simp] theorem updHost_board (f : HostLink → HostLink) : (s.updHost f).board = s.board := rfl

/-! ## updUart -/

@[simp] theorem updUart_pending (f : Uart → Uart) : (s.updUart f).pending = s.pending := rfl
@[simp] theorem updUart_free (f : Uart → Uart) : (s.updUart f).free = s.free := rfl
@[simp] theorem updUart_undo (f : Uart → Uart) : (s.updUart f).undo = s.undo := rfl
@[simp] theorem updUart_out (f : Uart → Uart) : (s.updUart f).out = s.out := rfl
@[simp] theorem updUart_fuses (f : Uart → Uart) : (s.updUart f).fuses = s.fuses := rfl
@[simp] theorem updUart_flash (f : Uart → Uart) : (s.updUart f).flash = s.flash := rfl
@[simp] theorem updUart_running (f : Uart → Uart) : (s.updUart f).running = s.running := rfl
@[simp] theorem updUart_dev (f : Uart → Uart) : (s.updUart f).dev = s.dev := rfl
@[simp] theorem updUart_windows (f : Uart → Uart) : (s.updUart f).windows = s.windows := rfl
@[simp] theorem updUart_uart (f : Uart → Uart) : (s.updUart f).uart = f s.uart := rfl
@[simp] theorem updUart_parts (f : Uart → Uart) : (s.updUart f).parts = s.parts := rfl
@[simp] theorem updUart_courts (f : Uart → Uart) : (s.updUart f).courts = s.courts := rfl
@[simp] theorem updUart_cl (f : Uart → Uart) : (s.updUart f).cl = s.cl := rfl
@[simp] theorem updUart_chans (f : Uart → Uart) : (s.updUart f).chans = s.chans := rfl
@[simp] theorem updUart_ports (f : Uart → Uart) : (s.updUart f).ports = s.ports := rfl
@[simp] theorem updUart_dram (f : Uart → Uart) : (s.updUart f).dram = s.dram := rfl
@[simp] theorem updUart_poison (f : Uart → Uart) : (s.updUart f).poison = s.poison := rfl
@[simp] theorem updUart_ide (f : Uart → Uart) : (s.updUart f).ide = s.ide := rfl
@[simp] theorem updUart_host (f : Uart → Uart) : (s.updUart f).host = s.host := rfl
@[simp] theorem updUart_spdm (f : Uart → Uart) : (s.updUart f).spdm = s.spdm := rfl
@[simp] theorem updUart_board (f : Uart → Uart) : (s.updUart f).board = s.board := rfl

/-! ## updBoard -/

@[simp] theorem updBoard_pending (f : Board → Board) : (s.updBoard f).pending = s.pending := rfl
@[simp] theorem updBoard_free (f : Board → Board) : (s.updBoard f).free = s.free := rfl
@[simp] theorem updBoard_undo (f : Board → Board) : (s.updBoard f).undo = s.undo := rfl
@[simp] theorem updBoard_out (f : Board → Board) : (s.updBoard f).out = s.out := rfl
@[simp] theorem updBoard_fuses (f : Board → Board) : (s.updBoard f).fuses = s.fuses := rfl
@[simp] theorem updBoard_flash (f : Board → Board) : (s.updBoard f).flash = s.flash := rfl
@[simp] theorem updBoard_running (f : Board → Board) : (s.updBoard f).running = s.running := rfl
@[simp] theorem updBoard_dev (f : Board → Board) : (s.updBoard f).dev = s.dev := rfl
@[simp] theorem updBoard_windows (f : Board → Board) : (s.updBoard f).windows = s.windows := rfl
@[simp] theorem updBoard_uart (f : Board → Board) : (s.updBoard f).uart = s.uart := rfl
@[simp] theorem updBoard_parts (f : Board → Board) : (s.updBoard f).parts = s.parts := rfl
@[simp] theorem updBoard_courts (f : Board → Board) : (s.updBoard f).courts = s.courts := rfl
@[simp] theorem updBoard_cl (f : Board → Board) : (s.updBoard f).cl = s.cl := rfl
@[simp] theorem updBoard_chans (f : Board → Board) : (s.updBoard f).chans = s.chans := rfl
@[simp] theorem updBoard_ports (f : Board → Board) : (s.updBoard f).ports = s.ports := rfl
@[simp] theorem updBoard_dram (f : Board → Board) : (s.updBoard f).dram = s.dram := rfl
@[simp] theorem updBoard_poison (f : Board → Board) : (s.updBoard f).poison = s.poison := rfl
@[simp] theorem updBoard_ide (f : Board → Board) : (s.updBoard f).ide = s.ide := rfl
@[simp] theorem updBoard_host (f : Board → Board) : (s.updBoard f).host = s.host := rfl
@[simp] theorem updBoard_spdm (f : Board → Board) : (s.updBoard f).spdm = s.spdm := rfl
@[simp] theorem updBoard_board (f : Board → Board) : (s.updBoard f).board = f s.board := rfl

/-! ## updSpdm -/

@[simp] theorem updSpdm_pending (f : Spdm → Spdm) : (s.updSpdm f).pending = s.pending := rfl
@[simp] theorem updSpdm_free (f : Spdm → Spdm) : (s.updSpdm f).free = s.free := rfl
@[simp] theorem updSpdm_undo (f : Spdm → Spdm) : (s.updSpdm f).undo = s.undo := rfl
@[simp] theorem updSpdm_out (f : Spdm → Spdm) : (s.updSpdm f).out = s.out := rfl
@[simp] theorem updSpdm_fuses (f : Spdm → Spdm) : (s.updSpdm f).fuses = s.fuses := rfl
@[simp] theorem updSpdm_flash (f : Spdm → Spdm) : (s.updSpdm f).flash = s.flash := rfl
@[simp] theorem updSpdm_running (f : Spdm → Spdm) : (s.updSpdm f).running = s.running := rfl
@[simp] theorem updSpdm_dev (f : Spdm → Spdm) : (s.updSpdm f).dev = s.dev := rfl
@[simp] theorem updSpdm_windows (f : Spdm → Spdm) : (s.updSpdm f).windows = s.windows := rfl
@[simp] theorem updSpdm_uart (f : Spdm → Spdm) : (s.updSpdm f).uart = s.uart := rfl
@[simp] theorem updSpdm_parts (f : Spdm → Spdm) : (s.updSpdm f).parts = s.parts := rfl
@[simp] theorem updSpdm_courts (f : Spdm → Spdm) : (s.updSpdm f).courts = s.courts := rfl
@[simp] theorem updSpdm_cl (f : Spdm → Spdm) : (s.updSpdm f).cl = s.cl := rfl
@[simp] theorem updSpdm_chans (f : Spdm → Spdm) : (s.updSpdm f).chans = s.chans := rfl
@[simp] theorem updSpdm_ports (f : Spdm → Spdm) : (s.updSpdm f).ports = s.ports := rfl
@[simp] theorem updSpdm_dram (f : Spdm → Spdm) : (s.updSpdm f).dram = s.dram := rfl
@[simp] theorem updSpdm_poison (f : Spdm → Spdm) : (s.updSpdm f).poison = s.poison := rfl
@[simp] theorem updSpdm_ide (f : Spdm → Spdm) : (s.updSpdm f).ide = s.ide := rfl
@[simp] theorem updSpdm_host (f : Spdm → Spdm) : (s.updSpdm f).host = s.host := rfl
@[simp] theorem updSpdm_spdm (f : Spdm → Spdm) : (s.updSpdm f).spdm = f s.spdm := rfl
@[simp] theorem updSpdm_board (f : Spdm → Spdm) : (s.updSpdm f).board = s.board := rfl

/-! ## send -/

@[simp] theorem send_pending (o : Output) : (s.send o).pending = s.pending := rfl
@[simp] theorem send_free (o : Output) : (s.send o).free = s.free := rfl
@[simp] theorem send_undo (o : Output) : (s.send o).undo = s.undo := rfl
@[simp] theorem send_out (o : Output) : (s.send o).out = s.out ++ [o] := rfl
@[simp] theorem send_fuses (o : Output) : (s.send o).fuses = s.fuses := rfl
@[simp] theorem send_flash (o : Output) : (s.send o).flash = s.flash := rfl
@[simp] theorem send_running (o : Output) : (s.send o).running = s.running := rfl
@[simp] theorem send_dev (o : Output) : (s.send o).dev = s.dev := rfl
@[simp] theorem send_windows (o : Output) : (s.send o).windows = s.windows := rfl
@[simp] theorem send_uart (o : Output) : (s.send o).uart = s.uart := rfl
@[simp] theorem send_parts (o : Output) : (s.send o).parts = s.parts := rfl
@[simp] theorem send_courts (o : Output) : (s.send o).courts = s.courts := rfl
@[simp] theorem send_cl (o : Output) : (s.send o).cl = s.cl := rfl
@[simp] theorem send_chans (o : Output) : (s.send o).chans = s.chans := rfl
@[simp] theorem send_ports (o : Output) : (s.send o).ports = s.ports := rfl
@[simp] theorem send_dram (o : Output) : (s.send o).dram = s.dram := rfl
@[simp] theorem send_poison (o : Output) : (s.send o).poison = s.poison := rfl
@[simp] theorem send_ide (o : Output) : (s.send o).ide = s.ide := rfl
@[simp] theorem send_host (o : Output) : (s.send o).host = s.host := rfl
@[simp] theorem send_spdm (o : Output) : (s.send o).spdm = s.spdm := rfl
@[simp] theorem send_board (o : Output) : (s.send o).board = s.board := rfl

/-! ## fresh -/

@[simp] theorem fresh_pending : (s.fresh).pending = s.pending := rfl
@[simp] theorem fresh_free : (s.fresh).free = s.free + 1 := rfl
@[simp] theorem fresh_undo : (s.fresh).undo = s.undo := rfl
@[simp] theorem fresh_out : (s.fresh).out = s.out := rfl
@[simp] theorem fresh_fuses : (s.fresh).fuses = s.fuses := rfl
@[simp] theorem fresh_flash : (s.fresh).flash = s.flash := rfl
@[simp] theorem fresh_running : (s.fresh).running = s.running := rfl
@[simp] theorem fresh_dev : (s.fresh).dev = s.dev := rfl
@[simp] theorem fresh_windows : (s.fresh).windows = s.windows := rfl
@[simp] theorem fresh_uart : (s.fresh).uart = s.uart := rfl
@[simp] theorem fresh_parts : (s.fresh).parts = s.parts := rfl
@[simp] theorem fresh_courts : (s.fresh).courts = s.courts := rfl
@[simp] theorem fresh_cl : (s.fresh).cl = s.cl := rfl
@[simp] theorem fresh_chans : (s.fresh).chans = s.chans := rfl
@[simp] theorem fresh_ports : (s.fresh).ports = s.ports := rfl
@[simp] theorem fresh_dram : (s.fresh).dram = s.dram := rfl
@[simp] theorem fresh_poison : (s.fresh).poison = s.poison := rfl
@[simp] theorem fresh_ide : (s.fresh).ide = s.ide := rfl
@[simp] theorem fresh_host : (s.fresh).host = s.host := rfl
@[simp] theorem fresh_spdm : (s.fresh).spdm = s.spdm := rfl
@[simp] theorem fresh_board : (s.fresh).board = s.board := rfl

/-! ## land -/

@[simp] theorem land_pending (clu : Option Nat) (adrs : List Nat) : (s.land clu adrs).pending = s.pending := rfl
@[simp] theorem land_free (clu : Option Nat) (adrs : List Nat) : (s.land clu adrs).free = s.free := rfl
@[simp] theorem land_undo (clu : Option Nat) (adrs : List Nat) : (s.land clu adrs).undo =
  s.undo.map fun e => { e with bytes := e.bytes.filter fun o => !o.covered (adrs.map fun a => (clu, a)) } := rfl
@[simp] theorem land_out (clu : Option Nat) (adrs : List Nat) : (s.land clu adrs).out = s.out := rfl
@[simp] theorem land_fuses (clu : Option Nat) (adrs : List Nat) : (s.land clu adrs).fuses = s.fuses := rfl
@[simp] theorem land_flash (clu : Option Nat) (adrs : List Nat) : (s.land clu adrs).flash = s.flash := rfl
@[simp] theorem land_running (clu : Option Nat) (adrs : List Nat) : (s.land clu adrs).running = s.running := rfl
@[simp] theorem land_dev (clu : Option Nat) (adrs : List Nat) : (s.land clu adrs).dev = s.dev := rfl
@[simp] theorem land_windows (clu : Option Nat) (adrs : List Nat) : (s.land clu adrs).windows = s.windows := rfl
@[simp] theorem land_uart (clu : Option Nat) (adrs : List Nat) : (s.land clu adrs).uart = s.uart := rfl
@[simp] theorem land_parts (clu : Option Nat) (adrs : List Nat) : (s.land clu adrs).parts = s.parts := rfl
@[simp] theorem land_courts (clu : Option Nat) (adrs : List Nat) : (s.land clu adrs).courts = s.courts := rfl
@[simp] theorem land_cl (clu : Option Nat) (adrs : List Nat) : (s.land clu adrs).cl = s.cl := rfl
@[simp] theorem land_chans (clu : Option Nat) (adrs : List Nat) : (s.land clu adrs).chans = s.chans := rfl
@[simp] theorem land_ports (clu : Option Nat) (adrs : List Nat) : (s.land clu adrs).ports = s.ports := rfl
@[simp] theorem land_dram (clu : Option Nat) (adrs : List Nat) : (s.land clu adrs).dram = s.dram := rfl
@[simp] theorem land_poison (clu : Option Nat) (adrs : List Nat) : (s.land clu adrs).poison = s.poison := rfl
@[simp] theorem land_ide (clu : Option Nat) (adrs : List Nat) : (s.land clu adrs).ide = s.ide := rfl
@[simp] theorem land_host (clu : Option Nat) (adrs : List Nat) : (s.land clu adrs).host = s.host := rfl
@[simp] theorem land_spdm (clu : Option Nat) (adrs : List Nat) : (s.land clu adrs).spdm = s.spdm := rfl
@[simp] theorem land_board (clu : Option Nat) (adrs : List Nat) : (s.land clu adrs).board = s.board := rfl

/-! ## Reading back a numbered item -/

theorem tget_modify_same {α : Type} (d : α) (l : List α) (i : Nat) (f : α → α) (h : i < l.length) :
    tget d (l.modify i f) i = f (tget d l i) := by
  simp [tget, List.getD_eq_getElem?_getD, h]

theorem tget_modify_ne {α : Type} (d : α) (l : List α) (i j : Nat) (f : α → α) (h : i ≠ j) :
    tget d (l.modify i f) j = tget d l j := by
  simp [tget, List.getD_eq_getElem?_getD, h]

@[simp] theorem part_updPart_same (i : Nat) (f : Partition → Partition) (h : i < s.parts.length) :
    (s.updPart i f).part i = f (s.part i) := tget_modify_same _ _ _ _ h

@[simp] theorem part_updPart_ne (i j : Nat) (f : Partition → Partition) (h : i ≠ j) :
    (s.updPart i f).part j = s.part j := tget_modify_ne _ _ _ _ _ h

@[simp] theorem part_updWin (i j : Nat) (f : Window → Window) : (s.updWin i f).part j = s.part j := rfl
@[simp] theorem part_updCourt (i j : Nat) (f : CourtSt → CourtSt) : (s.updCourt i f).part j = s.part j := rfl
@[simp] theorem part_updClu (i j : Nat) (f : Cluster → Cluster) : (s.updClu i f).part j = s.part j := rfl
@[simp] theorem part_updChan (i j : Nat) (f : Channel → Channel) : (s.updChan i f).part j = s.part j := rfl
@[simp] theorem part_updPort (i j : Nat) (f : Port → Port) : (s.updPort i f).part j = s.part j := rfl
@[simp] theorem part_updIde (i j : Nat) (f : IdeSlot → IdeSlot) : (s.updIde i f).part j = s.part j := rfl
@[simp] theorem part_updDev (f : Device → Device) (j : Nat) : (s.updDev f).part j = s.part j := rfl
@[simp] theorem part_updHost (f : HostLink → HostLink) (j : Nat) : (s.updHost f).part j = s.part j := rfl
@[simp] theorem part_updUart (f : Uart → Uart) (j : Nat) : (s.updUart f).part j = s.part j := rfl
@[simp] theorem part_updBoard (f : Board → Board) (j : Nat) : (s.updBoard f).part j = s.part j := rfl
@[simp] theorem part_updSpdm (f : Spdm → Spdm) (j : Nat) : (s.updSpdm f).part j = s.part j := rfl
@[simp] theorem part_send (o : Output) (j : Nat) : (s.send o).part j = s.part j := rfl
@[simp] theorem part_fresh (j : Nat) : (s.fresh).part j = s.part j := rfl
@[simp] theorem part_land (clu : Option Nat) (adrs : List Nat) (j : Nat) : (s.land clu adrs).part j = s.part j := rfl

@[simp] theorem win_updWin_same (i : Nat) (f : Window → Window) (h : i < s.windows.length) :
    (s.updWin i f).win i = f (s.win i) := tget_modify_same _ _ _ _ h

@[simp] theorem win_updWin_ne (i j : Nat) (f : Window → Window) (h : i ≠ j) :
    (s.updWin i f).win j = s.win j := tget_modify_ne _ _ _ _ _ h

@[simp] theorem win_updPart (i j : Nat) (f : Partition → Partition) : (s.updPart i f).win j = s.win j := rfl
@[simp] theorem win_updCourt (i j : Nat) (f : CourtSt → CourtSt) : (s.updCourt i f).win j = s.win j := rfl
@[simp] theorem win_updClu (i j : Nat) (f : Cluster → Cluster) : (s.updClu i f).win j = s.win j := rfl
@[simp] theorem win_updChan (i j : Nat) (f : Channel → Channel) : (s.updChan i f).win j = s.win j := rfl
@[simp] theorem win_updPort (i j : Nat) (f : Port → Port) : (s.updPort i f).win j = s.win j := rfl
@[simp] theorem win_updIde (i j : Nat) (f : IdeSlot → IdeSlot) : (s.updIde i f).win j = s.win j := rfl
@[simp] theorem win_updDev (f : Device → Device) (j : Nat) : (s.updDev f).win j = s.win j := rfl
@[simp] theorem win_updHost (f : HostLink → HostLink) (j : Nat) : (s.updHost f).win j = s.win j := rfl
@[simp] theorem win_updUart (f : Uart → Uart) (j : Nat) : (s.updUart f).win j = s.win j := rfl
@[simp] theorem win_updBoard (f : Board → Board) (j : Nat) : (s.updBoard f).win j = s.win j := rfl
@[simp] theorem win_updSpdm (f : Spdm → Spdm) (j : Nat) : (s.updSpdm f).win j = s.win j := rfl
@[simp] theorem win_send (o : Output) (j : Nat) : (s.send o).win j = s.win j := rfl
@[simp] theorem win_fresh (j : Nat) : (s.fresh).win j = s.win j := rfl
@[simp] theorem win_land (clu : Option Nat) (adrs : List Nat) (j : Nat) : (s.land clu adrs).win j = s.win j := rfl

@[simp] theorem court_updCourt_same (i : Nat) (f : CourtSt → CourtSt) (h : i < s.courts.length) :
    (s.updCourt i f).court i = f (s.court i) := tget_modify_same _ _ _ _ h

@[simp] theorem court_updCourt_ne (i j : Nat) (f : CourtSt → CourtSt) (h : i ≠ j) :
    (s.updCourt i f).court j = s.court j := tget_modify_ne _ _ _ _ _ h

@[simp] theorem court_updPart (i j : Nat) (f : Partition → Partition) : (s.updPart i f).court j = s.court j := rfl
@[simp] theorem court_updWin (i j : Nat) (f : Window → Window) : (s.updWin i f).court j = s.court j := rfl
@[simp] theorem court_updClu (i j : Nat) (f : Cluster → Cluster) : (s.updClu i f).court j = s.court j := rfl
@[simp] theorem court_updChan (i j : Nat) (f : Channel → Channel) : (s.updChan i f).court j = s.court j := rfl
@[simp] theorem court_updPort (i j : Nat) (f : Port → Port) : (s.updPort i f).court j = s.court j := rfl
@[simp] theorem court_updIde (i j : Nat) (f : IdeSlot → IdeSlot) : (s.updIde i f).court j = s.court j := rfl
@[simp] theorem court_updDev (f : Device → Device) (j : Nat) : (s.updDev f).court j = s.court j := rfl
@[simp] theorem court_updHost (f : HostLink → HostLink) (j : Nat) : (s.updHost f).court j = s.court j := rfl
@[simp] theorem court_updUart (f : Uart → Uart) (j : Nat) : (s.updUart f).court j = s.court j := rfl
@[simp] theorem court_updBoard (f : Board → Board) (j : Nat) : (s.updBoard f).court j = s.court j := rfl
@[simp] theorem court_updSpdm (f : Spdm → Spdm) (j : Nat) : (s.updSpdm f).court j = s.court j := rfl
@[simp] theorem court_send (o : Output) (j : Nat) : (s.send o).court j = s.court j := rfl
@[simp] theorem court_fresh (j : Nat) : (s.fresh).court j = s.court j := rfl
@[simp] theorem court_land (clu : Option Nat) (adrs : List Nat) (j : Nat) : (s.land clu adrs).court j = s.court j := rfl

@[simp] theorem clu_updClu_same (i : Nat) (f : Cluster → Cluster) (h : i < s.cl.length) :
    (s.updClu i f).clu i = f (s.clu i) := tget_modify_same _ _ _ _ h

@[simp] theorem clu_updClu_ne (i j : Nat) (f : Cluster → Cluster) (h : i ≠ j) :
    (s.updClu i f).clu j = s.clu j := tget_modify_ne _ _ _ _ _ h

@[simp] theorem clu_updPart (i j : Nat) (f : Partition → Partition) : (s.updPart i f).clu j = s.clu j := rfl
@[simp] theorem clu_updWin (i j : Nat) (f : Window → Window) : (s.updWin i f).clu j = s.clu j := rfl
@[simp] theorem clu_updCourt (i j : Nat) (f : CourtSt → CourtSt) : (s.updCourt i f).clu j = s.clu j := rfl
@[simp] theorem clu_updChan (i j : Nat) (f : Channel → Channel) : (s.updChan i f).clu j = s.clu j := rfl
@[simp] theorem clu_updPort (i j : Nat) (f : Port → Port) : (s.updPort i f).clu j = s.clu j := rfl
@[simp] theorem clu_updIde (i j : Nat) (f : IdeSlot → IdeSlot) : (s.updIde i f).clu j = s.clu j := rfl
@[simp] theorem clu_updDev (f : Device → Device) (j : Nat) : (s.updDev f).clu j = s.clu j := rfl
@[simp] theorem clu_updHost (f : HostLink → HostLink) (j : Nat) : (s.updHost f).clu j = s.clu j := rfl
@[simp] theorem clu_updUart (f : Uart → Uart) (j : Nat) : (s.updUart f).clu j = s.clu j := rfl
@[simp] theorem clu_updBoard (f : Board → Board) (j : Nat) : (s.updBoard f).clu j = s.clu j := rfl
@[simp] theorem clu_updSpdm (f : Spdm → Spdm) (j : Nat) : (s.updSpdm f).clu j = s.clu j := rfl
@[simp] theorem clu_send (o : Output) (j : Nat) : (s.send o).clu j = s.clu j := rfl
@[simp] theorem clu_fresh (j : Nat) : (s.fresh).clu j = s.clu j := rfl
@[simp] theorem clu_land (clu : Option Nat) (adrs : List Nat) (j : Nat) : (s.land clu adrs).clu j = s.clu j := rfl

@[simp] theorem chan_updChan_same (i : Nat) (f : Channel → Channel) (h : i < s.chans.length) :
    (s.updChan i f).chan i = f (s.chan i) := tget_modify_same _ _ _ _ h

@[simp] theorem chan_updChan_ne (i j : Nat) (f : Channel → Channel) (h : i ≠ j) :
    (s.updChan i f).chan j = s.chan j := tget_modify_ne _ _ _ _ _ h

@[simp] theorem chan_updPart (i j : Nat) (f : Partition → Partition) : (s.updPart i f).chan j = s.chan j := rfl
@[simp] theorem chan_updWin (i j : Nat) (f : Window → Window) : (s.updWin i f).chan j = s.chan j := rfl
@[simp] theorem chan_updCourt (i j : Nat) (f : CourtSt → CourtSt) : (s.updCourt i f).chan j = s.chan j := rfl
@[simp] theorem chan_updClu (i j : Nat) (f : Cluster → Cluster) : (s.updClu i f).chan j = s.chan j := rfl
@[simp] theorem chan_updPort (i j : Nat) (f : Port → Port) : (s.updPort i f).chan j = s.chan j := rfl
@[simp] theorem chan_updIde (i j : Nat) (f : IdeSlot → IdeSlot) : (s.updIde i f).chan j = s.chan j := rfl
@[simp] theorem chan_updDev (f : Device → Device) (j : Nat) : (s.updDev f).chan j = s.chan j := rfl
@[simp] theorem chan_updHost (f : HostLink → HostLink) (j : Nat) : (s.updHost f).chan j = s.chan j := rfl
@[simp] theorem chan_updUart (f : Uart → Uart) (j : Nat) : (s.updUart f).chan j = s.chan j := rfl
@[simp] theorem chan_updBoard (f : Board → Board) (j : Nat) : (s.updBoard f).chan j = s.chan j := rfl
@[simp] theorem chan_updSpdm (f : Spdm → Spdm) (j : Nat) : (s.updSpdm f).chan j = s.chan j := rfl
@[simp] theorem chan_send (o : Output) (j : Nat) : (s.send o).chan j = s.chan j := rfl
@[simp] theorem chan_fresh (j : Nat) : (s.fresh).chan j = s.chan j := rfl
@[simp] theorem chan_land (clu : Option Nat) (adrs : List Nat) (j : Nat) : (s.land clu adrs).chan j = s.chan j := rfl

@[simp] theorem port_updPort_same (i : Nat) (f : Port → Port) (h : i < s.ports.length) :
    (s.updPort i f).port i = f (s.port i) := tget_modify_same _ _ _ _ h

@[simp] theorem port_updPort_ne (i j : Nat) (f : Port → Port) (h : i ≠ j) :
    (s.updPort i f).port j = s.port j := tget_modify_ne _ _ _ _ _ h

@[simp] theorem port_updPart (i j : Nat) (f : Partition → Partition) : (s.updPart i f).port j = s.port j := rfl
@[simp] theorem port_updWin (i j : Nat) (f : Window → Window) : (s.updWin i f).port j = s.port j := rfl
@[simp] theorem port_updCourt (i j : Nat) (f : CourtSt → CourtSt) : (s.updCourt i f).port j = s.port j := rfl
@[simp] theorem port_updClu (i j : Nat) (f : Cluster → Cluster) : (s.updClu i f).port j = s.port j := rfl
@[simp] theorem port_updChan (i j : Nat) (f : Channel → Channel) : (s.updChan i f).port j = s.port j := rfl
@[simp] theorem port_updIde (i j : Nat) (f : IdeSlot → IdeSlot) : (s.updIde i f).port j = s.port j := rfl
@[simp] theorem port_updDev (f : Device → Device) (j : Nat) : (s.updDev f).port j = s.port j := rfl
@[simp] theorem port_updHost (f : HostLink → HostLink) (j : Nat) : (s.updHost f).port j = s.port j := rfl
@[simp] theorem port_updUart (f : Uart → Uart) (j : Nat) : (s.updUart f).port j = s.port j := rfl
@[simp] theorem port_updBoard (f : Board → Board) (j : Nat) : (s.updBoard f).port j = s.port j := rfl
@[simp] theorem port_updSpdm (f : Spdm → Spdm) (j : Nat) : (s.updSpdm f).port j = s.port j := rfl
@[simp] theorem port_send (o : Output) (j : Nat) : (s.send o).port j = s.port j := rfl
@[simp] theorem port_fresh (j : Nat) : (s.fresh).port j = s.port j := rfl
@[simp] theorem port_land (clu : Option Nat) (adrs : List Nat) (j : Nat) : (s.land clu adrs).port j = s.port j := rfl

@[simp] theorem ideSlot_updIde_same (i : Nat) (f : IdeSlot → IdeSlot) (h : i < s.ide.length) :
    (s.updIde i f).ideSlot i = f (s.ideSlot i) := tget_modify_same _ _ _ _ h

@[simp] theorem ideSlot_updIde_ne (i j : Nat) (f : IdeSlot → IdeSlot) (h : i ≠ j) :
    (s.updIde i f).ideSlot j = s.ideSlot j := tget_modify_ne _ _ _ _ _ h

@[simp] theorem ideSlot_updPart (i j : Nat) (f : Partition → Partition) : (s.updPart i f).ideSlot j = s.ideSlot j := rfl
@[simp] theorem ideSlot_updWin (i j : Nat) (f : Window → Window) : (s.updWin i f).ideSlot j = s.ideSlot j := rfl
@[simp] theorem ideSlot_updCourt (i j : Nat) (f : CourtSt → CourtSt) : (s.updCourt i f).ideSlot j = s.ideSlot j := rfl
@[simp] theorem ideSlot_updClu (i j : Nat) (f : Cluster → Cluster) : (s.updClu i f).ideSlot j = s.ideSlot j := rfl
@[simp] theorem ideSlot_updChan (i j : Nat) (f : Channel → Channel) : (s.updChan i f).ideSlot j = s.ideSlot j := rfl
@[simp] theorem ideSlot_updPort (i j : Nat) (f : Port → Port) : (s.updPort i f).ideSlot j = s.ideSlot j := rfl
@[simp] theorem ideSlot_updDev (f : Device → Device) (j : Nat) : (s.updDev f).ideSlot j = s.ideSlot j := rfl
@[simp] theorem ideSlot_updHost (f : HostLink → HostLink) (j : Nat) : (s.updHost f).ideSlot j = s.ideSlot j := rfl
@[simp] theorem ideSlot_updUart (f : Uart → Uart) (j : Nat) : (s.updUart f).ideSlot j = s.ideSlot j := rfl
@[simp] theorem ideSlot_updBoard (f : Board → Board) (j : Nat) : (s.updBoard f).ideSlot j = s.ideSlot j := rfl
@[simp] theorem ideSlot_updSpdm (f : Spdm → Spdm) (j : Nat) : (s.updSpdm f).ideSlot j = s.ideSlot j := rfl
@[simp] theorem ideSlot_send (o : Output) (j : Nat) : (s.send o).ideSlot j = s.ideSlot j := rfl
@[simp] theorem ideSlot_fresh (j : Nat) : (s.fresh).ideSlot j = s.ideSlot j := rfl
@[simp] theorem ideSlot_land (clu : Option Nat) (adrs : List Nat) (j : Nat) : (s.land clu adrs).ideSlot j = s.ideSlot j := rfl

@[simp] theorem str_updStr_same (g st : Nat) (f : StreamSt → StreamSt) (h : g < s.cl.length)
    (hs : st < (s.clu g).streams.length) : (s.updStr g st f).str g st = f (s.str g st) := by
  have : (s.updStr g st f).clu g = (s.clu g).updStr st f := clu_updClu_same s g _ h
  simp only [State.str, this, Cluster.str, Cluster.updStr]
  exact tget_modify_same _ _ _ _ hs

theorem clu_updStr_ne (g j st : Nat) (f : StreamSt → StreamSt) (h : g ≠ j) : (s.updStr g st f).clu j = s.clu j :=
  clu_updClu_ne s g j _ h

end Sys2Proof.Machine
end

