-- ==== Sys2Proof/Laws/Memory.lean ====
section
/-! SUPPORT. The laws of sparse memories: a read after a write, and that every memory operation keeps the canonical form. -/

namespace Sys2Proof.Machine

variable {α : Type} [DecidableEq α]

/-- What the canonical form says of a list with a first entry. -/
theorem spWf_cons (d : α) (k : Nat) (v : α) (m : List (Nat × α)) :
    spWf d ((k, v) :: m) = true ↔ v ≠ d ∧ (∀ c ∈ m, k < c.1) ∧ spWf d m = true := by
  induction m generalizing k v with
  | nil => simp [spWf]
  | cons c r ih =>
    obtain ⟨k', v'⟩ := c
    have hr := ih k' v'
    simp only [spWf, Bool.and_eq_true, decide_eq_true_eq, List.mem_cons, forall_eq_or_imp]
    constructor
    · rintro ⟨⟨h1, h2⟩, h3⟩
      obtain ⟨-, h5, -⟩ := hr.mp h3
      exact ⟨h1, ⟨h2, fun c hc => Nat.lt_trans h2 (h5 c hc)⟩, h3⟩
    · rintro ⟨h1, ⟨h2, -⟩, h3⟩
      exact ⟨⟨h1, h2⟩, h3⟩

/-- The keys of a written store are old ones and the written one. -/
theorem spSet_keys (d : α) (m : List (Nat × α)) (a : Nat) (v : α) :
    ∀ c ∈ spSet d m a v, c.1 = a ∨ c ∈ m := by
  induction m with
  | nil => intro c hc; simp only [spSet] at hc; split at hc <;> simp_all
  | cons e r ih =>
    obtain ⟨k, w⟩ := e
    intro c hc
    simp only [spSet] at hc
    split at hc
    · split at hc
      · exact .inr hc
      · rcases List.mem_cons.mp hc with rfl | h
        · exact .inl rfl
        · exact .inr h
    · split at hc
      · split at hc
        · exact .inr (List.mem_cons_of_mem _ hc)
        · rcases List.mem_cons.mp hc with rfl | h
          · exact .inl rfl
          · exact .inr (List.mem_cons_of_mem _ h)
      · rcases List.mem_cons.mp hc with rfl | h
        · exact .inr (List.mem_cons_self ..)
        · exact (ih c h).imp id (List.mem_cons_of_mem _)

/-- A write keeps the canonical form. -/
theorem spSet_wf (d : α) (m : List (Nat × α)) (a : Nat) (v : α) (h : spWf d m = true) : spWf d (spSet d m a v) = true := by
  induction m with
  | nil => by_cases hv : v = d <;> simp [spSet, spWf, hv]
  | cons e r ih =>
    obtain ⟨k, w⟩ := e
    obtain ⟨h1, h2, h3⟩ := (spWf_cons d k w r).mp h
    simp only [spSet]
    split
    · rename_i hlt
      split
      · exact h
      · rename_i hv
        refine (spWf_cons d a v _).mpr ⟨hv, ?_, h⟩
        intro c hc
        rcases List.mem_cons.mp hc with rfl | hc
        · exact hlt
        · exact Nat.lt_trans hlt (h2 c hc)
    · rename_i hge
      split
      · rename_i heq
        split
        · exact h3
        · rename_i hv
          exact (spWf_cons d a v r).mpr ⟨hv, fun c hc => heq ▸ h2 c hc, h3⟩
      · rename_i hne
        refine (spWf_cons d k w _).mpr ⟨h1, ?_, ih h3⟩
        intro c hc
        rcases spSet_keys d r a v c hc with rfl | hc
        · omega
        · exact h2 c hc

omit [DecidableEq α] in
/-- A read below every key reads the default. -/
theorem spGet_lt (d : α) (m : List (Nat × α)) (a : Nat) (h : ∀ c ∈ m, a < c.1) : spGet d m a = d := by
  induction m with
  | nil => rfl
  | cons e r ih =>
    obtain ⟨k, w⟩ := e
    have := h _ (List.mem_cons_self ..)
    simp only [spGet]
    rw [if_neg (by simp only at this; omega), ih fun c hc => h c (List.mem_cons_of_mem _ hc)]

/-- A read after a write. -/
theorem spGet_spSet (d : α) (m : List (Nat × α)) (a b : Nat) (v : α) (h : spWf d m = true) :
    spGet d (spSet d m a v) b = if b = a then v else spGet d m b := by
  induction m with
  | nil =>
    by_cases hv : v = d <;> by_cases hb : b = a <;> simp [spSet, spGet, hv, hb]
  | cons e r ih =>
    obtain ⟨k, w⟩ := e
    obtain ⟨-, h2, h3⟩ := (spWf_cons d k w r).mp h
    simp only [spSet]
    split
    · rename_i hlt
      split
      · rename_i hv
        by_cases hb : b = a
        · subst hb
          rw [if_pos rfl, spGet, if_neg (by omega), spGet_lt d r b fun c hc => Nat.lt_trans hlt (h2 c hc), hv]
        · rw [if_neg hb]
      · by_cases hb : b = a <;> simp [spGet, hb]
    · split
      · rename_i heq
        subst heq
        split
        · rename_i hv
          by_cases hb : b = a
          · rw [if_pos hb, hb, spGet_lt d r a h2, hv]
          · rw [if_neg hb, spGet, if_neg hb]
        · by_cases hb : b = a <;> simp [spGet, hb]
      · rename_i hne
        simp only [spGet]
        by_cases hk : b = k
        · rw [if_pos hk, if_pos hk, if_neg (by omega)]
        · rw [if_neg hk, if_neg hk, ih h3]

/-- Entries removed keep the canonical form. -/
theorem spDrop_wf (d : α) (p : Nat → Bool) (m : List (Nat × α)) (h : spWf d m = true) : spWf d (spDrop p m) = true := by
  induction m with
  | nil => exact h
  | cons e r ih =>
    obtain ⟨k, w⟩ := e
    obtain ⟨h1, h2, h3⟩ := (spWf_cons d k w r).mp h
    by_cases hp : p k
    · have : spDrop p ((k, w) :: r) = spDrop p r := by simp [spDrop, hp]
      rw [this]; exact ih h3
    · have : spDrop p ((k, w) :: r) = (k, w) :: spDrop p r := by simp [spDrop, hp]
      rw [this]
      exact (spWf_cons d k w _).mpr ⟨h1, fun c hc => h2 c (List.mem_filter.mp hc).1, ih h3⟩

/-- A list of writes keeps the canonical form. -/
theorem writes_wf (cells : List Host.Cell) (m : Mem) (h : Memory.wf m = true) :
    Memory.wf (cells.foldl (fun m c => spSet 0 m c.1 c.2) m) = true := by
  induction cells generalizing m with
  | nil => exact h
  | cons c r ih => exact ih _ (spSet_wf 0 m c.1 c.2 h)

/-- What a list of writes leaves at an address. -/
theorem writes_get (cells : List Host.Cell) (m : Mem) (a : Nat) (h : Memory.wf m = true) :
    spGet 0 (cells.foldl (fun m c => spSet 0 m c.1 c.2) m) a = (lastAt cells a).getD (spGet 0 m a) := by
  induction cells generalizing m with
  | nil => rfl
  | cons c r ih =>
    rw [List.foldl_cons, ih _ (spSet_wf 0 m c.1 c.2 h), spGet_spSet 0 m c.1 a c.2 h]
    simp only [lastAt, List.reverse_cons, List.find?_append]
    cases hf : r.reverse.find? fun c => c.1 == a with
    | some e => simp
    | none =>
      by_cases hc : a = c.1
      · simp [hc]
      · have : (c.1 == a) = false := by simp; omega
        simp [hc, this]

/-! ## Device memory -/

/-- A property of states that every step of a fold keeps. -/
theorem foldl_keeps {β γ : Type} (P : γ → Prop) (f : γ → β → γ) (l : List β) (s : γ) (h : P s)
    (hf : ∀ s b, P s → P (f s b)) : P (l.foldl f s) := by
  induction l generalizing s with
  | nil => exact h
  | cons b r ih => exact ih _ (hf _ _ h)

theorem unmark_dram (s : State) (l : Nat) : (s.unmark l).dram = s.dram := rfl

/-- Writing device memory keeps its canonical form. -/
theorem wrDa_wf (s : State) (cells : List Host.Cell) (h : Memory.wf s.dram = true) :
    Memory.wf (s.wrDa cells).dram = true := by
  unfold State.wrDa
  split
  · exact writes_wf cells _ h
  · refine foldl_keeps (fun s => Memory.wf s.dram = true) _ _ s h ?_
    intro s l hs
    dsimp only
    split
    · exact hs
    · split
      · exact writes_wf _ _ hs
      · exact writes_wf _ _ hs

theorem wrPa_wf (s : State) (p : Nat) (cells : List Host.Cell) (h : Memory.wf s.dram = true) :
    Memory.wf (s.wrPa p cells).dram = true := wrDa_wf s _ h

theorem zeroCourt_wf (s : State) (c : Nat) (h : Memory.wf s.dram = true) : Memory.wf (s.zeroCourt c).dram = true :=
  spDrop_wf 0 (fun a => a / courtBytes == c) s.dram h

theorem mark_poison_wf (s : State) (l : Nat) (c : Cause) (h : spWf none s.poison = true) :
    spWf none (s.mark l c).poison = true := by
  unfold State.mark
  split
  · exact h
  · split <;> exact spSet_wf none _ _ _ h

theorem unmark_poison_wf (s : State) (l : Nat) (h : spWf none s.poison = true) : spWf none (s.unmark l).poison = true :=
  spSet_wf none _ _ _ h

theorem wrDa_poison_wf (s : State) (cells : List Host.Cell) (h : spWf none s.poison = true) :
    spWf none (s.wrDa cells).poison = true := by
  unfold State.wrDa
  split
  · exact h
  · refine foldl_keeps (fun s => spWf none s.poison = true) _ _ s h ?_
    intro s l hs
    dsimp only
    split
    · exact hs
    · split
      · exact unmark_poison_wf _ _ hs
      · exact hs

theorem zeroCourt_poison_wf (s : State) (c : Nat) (h : spWf none s.poison = true) :
    spWf none (s.zeroCourt c).poison = true := spDrop_wf none (fun l => 64 * l / courtBytes == c) s.poison h

/-- A write of device memory where no line is poisoned leaves at each address the last byte written there. -/
theorem wrDa_get (s : State) (cells : List Host.Cell) (a : Nat) (h : Memory.wf s.dram = true) (hp : s.poison = []) :
    (s.wrDa cells).rdDa a = (lastAt cells a).getD (s.rdDa a) := by
  unfold State.wrDa State.rdDa
  rw [if_pos (by simp [hp])]
  exact writes_get cells s.dram a h

/-- Everything a write of device memory can change: its bytes, the poison marks, the poison tables of the channels, what of the
long words in flight a fault may still undo. -/
theorem wrDa_frame (s : State) (cells : List Host.Cell) :
    s.wrDa cells =
      { s with dram := (s.wrDa cells).dram, poison := (s.wrDa cells).poison
               chans := (s.wrDa cells).chans, undo := (s.wrDa cells).undo } := by
  unfold State.wrDa
  split
  · rfl
  · refine foldl_keeps (fun t => t = { s with dram := t.dram, poison := t.poison, chans := t.chans, undo := t.undo }) _ _ s
      rfl ?_
    intro t l ht
    dsimp only
    split
    · exact ht
    · split
      · rw [ht]; rfl
      · rw [ht]; rfl

end Sys2Proof.Machine
end

