-- ==== Sys2Proof/Laws/Ops.lean ====
section
/-! SUPPORT. What each shared operation can do, said once: the fields it may change, and the condition under which a line or a
long word takes effect. -/

namespace Sys2Proof.Machine

variable (s : State)

/-! ## Sending (R269, R274, R279 to R283, R373) -/

/-- An interrupt cause changes the host link's pending bits and what is sent, nothing else. -/
theorem msix_frame (v : Nat) : s.msix v = { s with host := (s.msix v).host, out := (s.msix v).out } := by
  unfold State.msix
  split
  · rfl
  · split <;> rfl

/-- Bytes on the UART's transmit pin change what is sent, nothing else. -/
theorem txd_frame (b : List Byte) : s.txd b = { s with out := (s.txd b).out } := by
  unfold State.txd
  split <;> rfl

/-- Bytes to the UART change the UART and what is sent, nothing else. -/
theorem uartSend_frame (b : List Byte) : s.uartSend b = { s with uart := (s.uartSend b).uart, out := (s.uartSend b).out } := by
  unfold State.uartSend
  split
  · rw [txd_frame]
  · split <;> rfl

/-- An error that AER logs changes the host link and what is sent, nothing else (R346). -/
theorem aer_frame (b : Nat) : s.aer b = { s with host := (s.aer b).host, out := (s.aer b).out } := by
  unfold State.aer
  dsimp only
  split <;> rfl

/-- Bytes to a reply buffer change that window, the host link's pending bits and what is sent. -/
theorem replyPut_frame (w : Nat) (b : List Byte) :
    s.replyPut w b =
      { s with windows := (s.replyPut w b).windows, host := (s.replyPut w b).host, out := (s.replyPut w b).out } := by
  unfold State.replyPut
  dsimp only
  split
  · split
    · rw [msix_frame]; rfl
    · rfl
  · rfl

/-- The reply sequence number is all that counting a line changes. -/
theorem countLine_frame (w : Nat) : s.countLine w = { s with parts := (s.countLine w).parts } := by
  unfold State.countLine
  split <;> rfl

/-- A delivered line changes windows, the UART, pending bits and what is sent, nothing else. -/
theorem deliver_frame (w : Nat) (u : Bool) (line : List Byte) :
    s.deliver w u line =
      { s with windows := (s.deliver w u line).windows, uart := (s.deliver w u line).uart
               host := (s.deliver w u line).host, out := (s.deliver w u line).out } := by
  unfold State.deliver
  split
  · rw [uartSend_frame]
  · rw [replyPut_frame]

/-- A written line changes windows, partitions (the reply sequence number), the UART, pending bits and what is sent. -/
theorem emit_frame (w : Nat) (u : Bool) (line : List Byte) :
    s.emit w u line =
      { s with windows := (s.emit w u line).windows, parts := (s.emit w u line).parts, uart := (s.emit w u line).uart
               host := (s.emit w u line).host, out := (s.emit w u line).out } := by
  unfold State.emit
  rw [deliver_frame, countLine_frame]

/-- A line of an unlocked window changes no partition. -/
theorem emit_parts (w : Nat) (u : Bool) (line : List Byte) (h : s.winKey w = none) : (s.emit w u line).parts = s.parts := by
  unfold State.emit State.countLine
  rw [deliver_frame, h]
  rfl

theorem ok_eq (w : Nat) (l : LineCtx) (ks : List (List Byte)) : s.ok w l ks = s.emit w l.uart (okLine l ks) := rfl
theorem no_eq (w : Nat) (l : LineCtx) (why : String) (ks : List (List Byte)) :
    s.no w l why ks = s.emit w l.uart (noLine l why ks) := rfl

/-- An ignored line changes its window's counts and, with echo, the UART and what is sent. -/
theorem ignore_frame (w : Nat) (l : LineCtx) (why : Why) :
    s.ignore w l why =
      { s with windows := s.windows.modify w fun q => { q with ign := satAdd 0xFFFFFFFF q.ign 1, ignWhy := why.code }
               uart := (s.ignore w l why).uart, out := (s.ignore w l why).out } := by
  unfold State.ignore
  dsimp only
  split
  · rw [uartSend_frame]; rfl
  · rfl

/-! ## Lines (R286 to R288) -/

/-- A line that takes effect now has its verb's effect. -/
theorem atLine_takes (w : Nat) (i : Instr) (body : State → State) (h : s.takes w i = true) :
    s.atLine w i body = body s := by
  simp only [State.takes, Bool.and_eq_true, Bool.not_eq_eq_eq_not, Bool.not_true, Option.isNone_iff_eq_none,
    List.isEmpty_iff] at h
  obtain ⟨⟨⟨⟨h1, h2⟩, h3⟩, h4⟩, h5⟩ := h
  simp [State.atLine, h1, h2, h3, h4, h5]

/-- A line whose parser is stopped, or that waits, is kept by its window. -/
theorem atLine_holds (w : Nat) (i : Instr) (body : State → State) (h1 : (s.win w).held = none) (h2 : s.mute = false)
    (h3 : s.stopped w = true ∨ s.waitsFor i = true) : s.atLine w i body = s.hold w i := by
  rcases h3 with h3 | h3 <;> simp [State.atLine, h1, h2, h3]

/-! ## What goes on by itself (R438, R478) -/

/-- With no write of the flash under way and no poison held by a court cache, nothing goes on by itself. -/
theorem tick_idle (hf : s.dev.fw = none) (hp : s.poison.all (fun e => e.2 != some .held) = true) : s.tick = s := by
  unfold State.tick
  rw [show s.flashDone = s by simp [State.flashDone, hf]]
  unfold State.evictPoison
  rw [if_pos hp]

/-! ## Long words (R150, R156) -/

/-- A long word at the head of its stream that issues now has its operation's effect. -/
theorem withHead_issuing (g st : Nat) (op : Op) (f : Head → State) (h : Head) (hh : s.issuing g st op = some h) :
    withHead s g st op f = f h := by
  unfold State.issuing at hh
  unfold withHead
  cases hk : s.head g st with
  | none => simp [hk] at hh
  | some k =>
    simp only [hk] at hh ⊢
    by_cases hc : k.op = op ∧ ready s k g st = true
    · rw [if_pos hc] at hh ⊢
      exact congrArg f (Option.some.inj hh)
    · rw [if_neg hc] at hh
      cases hh

/-- An operation that passes its checks has its effect on its operands, and what it wrote is kept while it is in flight. -/
theorem withArgs_passes (g st : Nat) (op : Op) (obs : HwObs) (f : Head → List Arg → State → State) (h : Head)
    (args : List Arg) (t : State) (hp : s.passes g st op obs = some (h, args, t)) :
    withArgs s g st op obs f = (f h args t).remember t h.p g st (writesOf t h.p g op args) := by
  unfold State.passes at hp
  cases hk : s.issuing g st op with
  | none => simp [hk] at hp
  | some k =>
    unfold withArgs
    rw [withHead_issuing s g st op _ k hk]
    simp only [hk] at hp
    by_cases hs : (s.snooped (s.descLines k g st op.opnds)).isEmpty = true
    · simp only [hs, Bool.not_true, Bool.false_eq_true, if_false] at hp ⊢
      cases has : resolveAll (s.readDescs k g st op obs) k g st op.opnds with
      | error e => simp [has] at hp
      | ok as =>
        simp only [has] at hp ⊢
        by_cases hc : s.checksOk (s.readDescs k g st op obs) k g st op obs as = true
        · rw [if_pos hc] at hp
          simp only [State.checksOk, Bool.and_eq_true, Bool.not_eq_eq_eq_not, Bool.not_true,
            Option.isNone_iff_eq_none] at hc
          obtain ⟨⟨⟨⟨⟨h1, h2⟩, h3⟩, h4⟩, h5⟩, h6⟩ := hc
          simp only [Option.some.injEq, Prod.mk.injEq] at hp
          obtain ⟨rfl, rfl, rfl⟩ := hp
          simp [h1, h2, h3, h4, h5, h6]
        · rw [if_neg hc] at hp
          cases hp
    · simp [hs] at hp

/-- An operation on registers and regions that meets no error has its effect, and what it wrote is kept while it is in
flight. -/
theorem withRegions_passes (g : Nat) (op : Op) (obs : HwObs) (srcs dsts : LW → List Arg) (f : Head → State → State)
    (h : Head) (t : State) (hp : s.passesRegions g op obs srcs dsts = some (h, t)) :
    withRegions s g op obs srcs dsts f = (f h t).remember t h.p g 1 ((dsts h.lw).map Arg.full) := by
  unfold State.passesRegions at hp
  cases hk : s.issuing g 1 op with
  | none => simp [hk] at hp
  | some k =>
    unfold withRegions
    rw [withHead_issuing s g 1 op _ k hk]
    simp only [hk] at hp
    by_cases hc : ((readErr (s.spSeen [g] obs) k g 1 obs ((srcs k.lw).map Arg.whole)).isNone &&
        (destErr (s.spSeen [g] obs) k g 1 obs (dsts k.lw)).isNone) = true
    · rw [if_pos hc] at hp
      simp only [Bool.and_eq_true, Option.isNone_iff_eq_none] at hc
      simp only [Option.some.injEq, Prod.mk.injEq] at hp
      obtain ⟨rfl, rfl⟩ := hp
      simp [hc.1, hc.2]
    · rw [if_neg hc] at hp
      cases hp

/-- What a long word wrote is kept, nothing else changes. -/
theorem remember_frame (t : State) (p g st : Nat) (ws : List ArgWr) :
    t.remember s p g st ws = { t with undo := (t.remember s p g st ws).undo } := by
  unfold State.remember
  split <;> rfl

/-- What a result in flight wrote is kept, nothing else changes. -/
theorem keepLate_frame (t : State) (p g st : Nat) (ws : Waits) (dsts : List Arg) :
    t.keepLate s p g st ws dsts = { t with undo := (t.keepLate s p g st ws dsts).undo } := by
  unfold State.keepLate
  dsimp only
  split <;> rfl

/-- A signal joins those in transit of its partition, nothing else. -/
theorem signal_frame (p g : Nat) (w : LW) : s.signal p g w = { s with parts := (s.signal p g w).parts } := by
  unfold State.signal
  split <;> rfl

/-- Steps and breaks change the partition, nothing else. -/
theorem issueStop_frame (h : Head) (st n : Nat) : s.issueStop h st n = { s with parts := (s.issueStop h st n).parts } := by
  unfold State.issueStop
  dsimp only
  split
  · rfl
  · split <;> rfl

/-- The common part of an issue changes clusters and partitions, nothing else. -/
theorem issueWith_frame (h : Head) (g st : Nat) (ws : Waits) (adv : StreamSt → StreamSt) :
    issueWith s h g st ws adv =
      { s with cl := (issueWith s h g st ws adv).cl, parts := (issueWith s h g st ws adv).parts } := by
  unfold issueWith
  dsimp only
  split
  · rw [issueStop_frame, signal_frame]; rfl
  · rw [issueStop_frame]; rfl

/-! ## Ports (R376 to R385) -/

/-- A state differs from another in its ports and in what is sent at most. -/
def SameButPorts (s t : State) : Prop := t = { s with ports := t.ports, out := t.out }

theorem SameButPorts.trans {s t u : State} (h : SameButPorts s t) (k : SameButPorts t u) : SameButPorts s u := by
  unfold SameButPorts at *
  rw [k, h]

theorem updPort_sameButPorts (x : Nat) (f : Port → Port) : SameButPorts s (s.updPort x f) := rfl

theorem sendFrame_sameButPorts (x : Nat) (f : Frame) : SameButPorts s (s.sendFrame x f) := by
  unfold State.sendFrame
  split <;> rfl

theorem idle_sameButPorts (x : Nat) (want : Option Nat) : SameButPorts s (s.idle x want) := by
  unfold State.idle
  split
  · rfl
  · exact sendFrame_sameButPorts s _ _

theorem freeBuf_sameButPorts (x : Nat) (f : Frame) : SameButPorts s (s.freeBuf x f) := by
  unfold State.freeBuf
  extract_lets t
  have h : SameButPorts s t := rfl
  refine SameButPorts.trans ?_ (idle_sameButPorts _ _ _)
  split
  · exact h.trans (idle_sameButPorts _ _ _)
  · exact h

/-- A port's buffers are discarded, at the cost of ports and frames sent only. -/
theorem emptyPort_sameButPorts (x : Nat) : SameButPorts s (s.emptyPort x) := by
  unfold State.emptyPort
  refine foldl_keeps (SameButPorts s) _ _ _ rfl fun t f h => ?_
  split
  · split
    · exact h
    · exact h.trans (freeBuf_sameButPorts t _ _)
  · exact h

/-- A port leaves the link: nothing but ports and frames sent changes. -/
theorem portDown_sameButPorts (x : Nat) (hold retry : Bool) : SameButPorts s (s.portDown x hold retry) :=
  (emptyPort_sameButPorts s x).trans (updPort_sameButPorts _ x _)

/-- A port begins to train: nothing but ports and frames sent changes. -/
theorem train_sameButPorts (x : Nat) : SameButPorts s (s.train x) := by
  unfold State.train
  split
  · rfl
  · exact SameButPorts.trans (t := (s.updPort x _).updPort x _) rfl (sendFrame_sameButPorts _ _ _)

end Sys2Proof.Machine
end

