-- ==== Sys2Proof/Tests/Slice0.lean ====
section
/-! SUPPORT. Tests of the model: ill-formed commands, values that the spec works out, and for each statement with hypotheses
states and operands that meet them, with what the command then does. -/

namespace Sys2Proof.Tests

open Sys2Proof Sys2Proof.Machine

-- one theorem at a time, for the memory it takes
set_option Elab.async false

/-! ## Helpers -/

/-- What holds of the next state that a command answers. -/
def ends (c : Instr) (s : State) (f : State → Bool) : Bool := match exec c s with | .next t => f t | _ => false
def badTag : LineCtx := { tag := some 65536 }
def huge : Nat := 2 ^ 64
def zeros (n : Nat) : List Byte := List.replicate n 0
def bs (l : List Nat) : List Byte := l.map byteOf

def fast : ACtx := { strict := false, flush := false, sat := true, nanProp := true, round := .rne }
def verified : Slot := { st := .verified, len := 4096 }
/-- A launch of a debug image, tag none, number 1. -/
def run0 : Running :=
  { la := { b := false, args := 0, dl := 10000, nc := {}, done := none, ctx := {}, gated := false, seq := 1 }, ctx := {},
    strict := false, debug := true }
def z0 : Session := { prk := zeros 48, kIn := zeros 48, kOut := zeros 48, kLock := zeros 48, kWrap := zeros 32 }
/-- A ready device whose host link is up as CXL. -/
def st0 : State := { State.reset with
  dev := { stage := 6, ready := true }, host := { dlUp := true, cxl := true, bme := true, hdm := some 0 } }
/-- Partition p0 on court c0, slot a verified. -/
def p0 : Partition := { stat := .up, courts := [0], mhz := 1750, slots := [verified, {}] }
def withP (q : Partition) : State := { st0 with parts := q :: List.replicate 7 {} }
def up : State := withP p0
/-- The same, running the debug image; and with its window locked. -/
def runs : State := withP { p0 with run := some run0, seq := 1 }
def locked : State := withP { p0 with session := some z0 }
/-- What a window's reply buffer holds. -/
def said (t : State) (w : Nat) (text : String) : Bool := (t.win w).reply == asc text ++ [10]
/-- A line on a window takes effect now. -/
def takesAll (s : State) (w : Nat) (l : List Instr) : Bool := l.all (s.takes w)
def slotA : Nat := 0xBC000000
def exReport : Report :=
  { tag := 14, status := 0, code := 0, flags := 0, suspect := 0, tally := 2, seq := 1, runtime := 0x285, done := none,
    line := [], ctx := {}, faultVec := false, recorded := false }
/-! ## Ill-formed commands -/

theorem test_wf_refuses_tags : [Instr.hello badTag none, .part badTag 0 [0] false, .free badTag 0, .clock badTag 0 800,
    .linkReport badTag none, .linkOpUp badTag 0, .linkOpDown badTag 0, .linkOpRetrain badTag 0, .linkRack badTag none,
    .route badTag 0 0 none, .group badTag 0 none none none, .attest badTag [], .session badTag 0 [], .fwStat badTag,
    .fwWrite badTag 0 64, .statDevice badTag, .statParts badTag, .statCourts badTag, .statDeviceCounters badTag, .temp badTag,
    .echo badTag true, .drillCourts badTag [0], .resetCommand badTag, .load badTag 0 false 0 64, .swap badTag 0,
    .go badTag 0 none none none {} none, .wait badTag 0, .sig badTag 0, .halt badTag 0, .abort badTag 0,
    .set badTag 0 none (some 1), .shard badTag 0 0 [] [] [] [], .shardDrop badTag 0 0, .commit badTag 0,
    .statPartition badTag 0, .statSlots badTag 0, .statKeys badTag 0, .statPartCounters badTag 0, .statShard badTag 0 0,
    .statPoison badTag 0, .tally badTag 0 none, .key badTag 0 0 [], .unkey badTag 0 0, .move badTag 0 false 0 0 64 none,
    .fill badTag 0 0 64 0, .breakCount badTag 0 0 0 1, .breakTag badTag 0 0, .breakDrop badTag 0, .step badTag 0 0 0 1,
    .cont badTag 0, .peek badTag 0 0 .t none (some 0) none none, .poke badTag 0 0 .t none (some 0) none (some 0) none,
    .drillPartition badTag 0, .lock badTag 0 []].all (fun i => !wellFormed i) = true := by decide +kernel

theorem test_wf_refuses_numbers : [Instr.hello {} (some huge), .clock {} 0 huge, .linkRack {} (some huge), .route {} 0 huge none,
    .group {} 0 (some huge) none none, .group {} 0 none (some [(0, huge)]) none, .group {} 0 none none (some huge),
    .fwWrite {} huge 64, .fwWrite {} 0 huge, .load {} 0 false huge 64, .load {} 0 false 0 huge,
    .go {} 0 none (some huge) none {} none, .go {} 0 none none (some huge) {} none, .go {} 0 none none none {} (some huge),
    .go {} 0 none none none { flush := some huge } none, .go {} 0 none none none { sat := some huge } none,
    .go {} 0 none none none { seed := some huge } none, .set {} 0 none (some huge), .set {} 0 (some { seed := some huge }) none,
    .shard {} 0 huge [] [] [] [], .shard {} 0 0 [huge] [1] [0] [], .shard {} 0 0 [1] [huge] [0] [],
    .shard {} 0 0 [1] [1] [huge] [], .shard {} 0 0 [1] [1] [0] [(huge, 0)], .shardDrop {} 0 huge, .statShard {} 0 huge,
    .tally {} 0 (some huge), .key {} 0 huge [], .unkey {} 0 huge, .move {} 0 true huge 0 64 none, .move {} 0 true 0 huge 64 none,
    .move {} 0 true 0 0 huge none, .move {} 0 true 0 0 64 (some huge), .fill {} 0 huge 64 0, .fill {} 0 0 huge 0,
    .fill {} 0 0 64 huge, .breakCount {} 0 huge 0 1, .breakCount {} 0 0 huge 1, .breakCount {} 0 0 0 huge, .breakTag {} 0 huge,
    .step {} 0 huge 0 1, .step {} 0 0 huge 1, .step {} 0 0 0 huge, .peek {} 0 huge .t none none none none,
    .peek {} 0 0 .t (some huge) none none none, .peek {} 0 0 .t none (some huge) none none,
    .peek {} 0 0 .t none none (some huge) none, .peek {} 0 0 .t none none none (some huge),
    .poke {} 0 huge .t none none none (some 0) none, .poke {} 0 0 .t (some huge) none none (some 0) none,
    .poke {} 0 0 .t none (some huge) none (some 0) none, .poke {} 0 0 .t none none (some huge) (some 0) none,
    .poke {} 0 0 .t none none none (some huge) none].all (fun i => !wellFormed i) = true := by decide +kernel

theorem test_wf_refuses_forms : [Instr.part {} 0 [] false, .drillCourts {} [], .set {} 0 none none,
    .poke {} 0 0 .t none none none none none, .poke {} 0 0 .t none none none (some 0) (some []),
    .cmdinWrite 0 none [] 0, .cmdinWrite 0 none (List.replicate 64 (some 0)) 1, .cmdinWrite 0 none [none] 0,
      .replyoutRead 0 none 0x40 0, .replyoutRead 0 none 0x3F 1,
    .replyoutRead 0 none 0x80 1, .ringbaseWrite 0 none none none, .cxlMemWrite 0 none (zeros 63) 0 false {},
    .cxlMemWrite 0 none (zeros 64) huge false {}, .birsp 0 (some (zeros 63)), .birsp 1 none, .bar4Read 0 0 none {},
    .bar4Read 4095 2 none {}, .bar4Read (2 ^ 35) 1 none {}, .bar4Write 0 [] none false {},
    .ideKmKeyProg 0 0 false false 0 (zeros 31), .challenge 0 (zeros 33), .keyExchange (zeros 95),
    .vendorDefinedRequest 0 (some (.keyProg 0 false false 0 (zeros 31))), .signalArrive 0 0 0, .deviceFault 0 true, .deviceFault 9 false,
    .thermalSample (zeros 8), .patrolRead 0x600000000 {}, .hostReadCompletion 0 0 1 none,
    .hostReadCompletion 0 0 0 (some (zeros 63))].all (fun i => !wellFormed i) = true := by decide +kernel

theorem test_wf_refuses_frames : (let f0 := idleFrame 0
    [{ f0 with cls := 8 }, { f0 with hop := 4 }, { f0 with crcls := 8 },
    { f0 with crlvl := 4 }, { f0 with crcnt := 64 }, { f0 with seq := 1024 },
    { f0 with ack := 1024 }, { f0 with cx := 8 }, { f0 with src := 256 }, { f0 with dst := 256 },
    { f0 with c7 := 256 }, { f0 with c8 := 2 ^ 32 }, { f0 with payload := zeros 63 },
    { f0 with crc := 2 ^ 32 }].all (fun f => !f.ok && !wellFormed (.frameWrite 0 f {}) && !wellFormed (.frameReadreq 0 f) &&
      !wellFormed (.frameReadrsp 0 f) && !wellFormed (.frameReduce 0 f false) && !wellFormed (.frameHello 0 f) &&
      !wellFormed (.frameAbort 0 f) && !wellFormed (.frameIdle 0 f)) = true ∧ f0.ok = true) := by decide +kernel

theorem test_wf_refuses_errors : (let e := errOf 1 1
    [{ e with code := 256 }, { e with cluster := 256 }, { e with stream := 8 }, { e with unit := 0 }, { e with unit := 14 },
      { e with offset := 2 ^ 32 }, { e with addr := 2 ^ 48 }, { e with space := 3 }, { e with court := 16 },
      { e with detail := 256 }].all (fun e => !wellFormed (.faultLatch 0 [e])) = true ∧
    wellFormed (.faultLatch 0 [e]) = true) := by decide +kernel

/-! ## Values that the spec works out -/

/-- The known answer of FIPS 180-4 for SHA-384 of "abc", first eight bytes. -/
theorem test_sha384_abc : (sha384 (asc "abc")).take 8 = bs [0xcb, 0x00, 0x75, 0x3f, 0x45, 0xa3, 0x5e, 0x8b] := by decide +kernel

/-- The Iris4 block of 04_formats.md, packed from BF16. -/
theorem test_iris4_block :
    (let vs := [0x3FC0, 0xC010, 0x3EC0, 0x4090, 0, 0xBF40, 0x3F90, 0x4040] ++ List.replicate 24 0
     let b := packBlock fast (vs.map fun c => packValue fast .bf16 c) []
     (b.1, (b.2.map (·.code)).take 9)) = (0x9E, [4, 0xD, 1, 7, 0, 0xA, 3, 6, 0]) := by decide +kernel

/-- The same block read as BF16, and the same values in Musk8. -/
theorem test_iris4_to_bf16_and_musk8 :
    ([4, 0xD, 1, 7, 0, 0xA, 3, 6].map fun c => (convertIr4 fast .bf16 0x9E c 0).code) =
      [0x3FC0, 0xC010, 0x3EC0, 0x4090, 0, 0xBF40, 0x3F90, 0x4040] ∧
    ([0x3FC0, 0xC010, 0x3EC0, 0x4090, 0, 0xBF40, 0x3F90, 0x4040].map fun c => (convert fast .bf16 .mk8 c 0).code) =
      [0x3C, 0xC1, 0x2C, 0x49, 0, 0xB4, 0x39, 0x44] := by decide +kernel

/-- The six conversions to MK8 of 05_arithmetic.md under RNE, RTZ and RSTO, with what they count. -/
theorem test_mk8_rounding :
    (let vs := [0x43F50000, 0x43F80000, 0xC3960000, 0x3CA80000, 0x3A800000, 0x44160000]
     let under (r : Round) := ((vs.zip [0xB7A2, 0x3A57, 0xA123, 0x7FFF, 0x8000, 0]).map fun v =>
       let k := convert { fast with round := r } .fp32 .mk8 v.1 v.2
       (k.code, k.cnt.sat))
     (under .rne, under .rtz, under .rsto)) =
    ([(0x7F, false), (0x7F, true), (0xF9, false), (0x0A, false), (0, false), (0x7F, true)],
     [(0x7F, false), (0x7F, false), (0xF9, false), (0x0A, false), (0, false), (0x7F, false)],
     [(0x7F, true), (0x7F, false), (0xFA, false), (0x0A, false), (1, false), (0x7F, true)]) := by decide +kernel

/-- Without SAT the overflows of that example are NaN; with FLUSH the subnormal that RSTO reaches is flushed. -/
theorem test_mk8_overflow_and_flush :
    convert { fast with sat := false } .fp32 .mk8 0x43F80000 0 = ⟨0x80, { nan := true }⟩ ∧
    convert { fast with flush := true, round := .rsto } .fp32 .mk8 0x3A800000 0x8000 = ⟨0, { flush := true }⟩ := by
  decide +kernel

/-- R116 and its explanation: IDIV(-7, 2), IREM(-7, 2), SHLS and SHL of 0x1234 by 4. -/
theorem test_integer_operations :
    (intOp fast 0x34 .int16 0xFFF9 2 0).code = 0xFFFD ∧ (intOp fast 0x35 .int16 0xFFF9 2 0).code = 0xFFFF ∧
    intOp fast 0x1D .int16 0x1234 4 0 = ⟨0x7FFF, { sat := true }⟩ ∧ intOp fast 0x1C .int16 0x1234 4 0 = ⟨0x2340, {}⟩ := by
  decide +kernel

/-- The BLOCKED tensor of 06_layouts.md: its descriptor bytes, one address, its footprint. -/
theorem test_blocked_layout :
    (let d := Desc.parse (leBytes 8 0x20000000 ++ leBytes 8 0xFFFF020408100211 ++ leBytes 4 100 ++ leBytes 4 70 ++ zeros 12 ++
       leBytes 4 64 ++ zeros 24)
     ((d.addr d.base [77, 45, 0, 0, 0]).1, d.footprint d.base, d.e0, d.layout, d.fmt)) =
    (0x20002CBA, [(0x20000000, 0x20004FFF)], 4096, 1, 1) := by decide +kernel

/-- The SCALED_IL cache of 06_layouts.md: the value and scale bytes of element (777, 2), the footprint. -/
theorem test_scaled_il_layout :
    (let d := Desc.parse (leBytes 8 0x30000000 ++ leBytes 8 0xFFFF000000000234 ++ leBytes 4 1000 ++ leBytes 4 3 ++ zeros 12 ++
       leBytes 4 12 ++ zeros 24)
     (d.addr d.base [777, 2, 0, 0, 0], d.footprint d.base)) =
    ((0x300007A4, 0x30000709), [(0x30000000, 0x300008FF)]) := by decide +kernel

/-- The stream of 08_encoding.md: VMOV at 0, CHAIN at 16, END at 52. -/
def exWords : List Nat := [0x4A401000, 0x90200000, 0x0C832000, 0x84000000,
  0x43C0F300, 0x11101000, 2, 0x0C430100, 0x0C440C20, 0x1400, 0x0A029000, 0x04011000, 0x0117FC00, 0xFC000000]
def exAt (o : Nat) : LW := LW.parse (fun b => tget 0 exWords (b / 4)) o

theorem test_longword_vmov :
    Op.decode 1 (exAt 0).code = some .vmov ∧ (exAt 0).len = 16 ∧ (exAt 0).mask = 0x2401 ∧ (exAt 0).f 0 31 30 = 2 ∧
    (exAt 0).f 0 29 25 = 8 ∧ (exAt 0).f 0 24 21 = 1 ∧ ((exAt 0).decl 10).map (fun d => (d.first, d.last, d.mode)) = some (50, 50, 0) ∧
    (exAt 0).waitTok = some 2 ∧ (exAt 0).sigTok = none ∧ vmovChecks false (exAt 0) = [] := by decide +kernel

theorem test_longword_chain :
    Op.decode 1 (exAt 16).code = some .chain ∧ (exAt 16).len = 36 ∧ (exAt 16).tally = 3 ∧ (exAt 16).f 0 19 0 = 4096 ∧
    ((exAt 16).uops.map fun q => (q.u, q.dst, q.a, q.b)) = [(3, 1, 0x20, 8), (3, 2, 1, 0x21)] ∧
    ([10, 11, 12].map fun k => ((exAt 16).decl k).map fun d => (d.first, d.last, d.mode)) =
      [some (0, 1, 1), some (40, 41, 0), some (16, 17, 0)] ∧
    (exAt 16).sigTok = some (5, 255) ∧ chainChecks false (exAt 16) = [] ∧ Op.decode 1 (exAt 52).code = some .fin := by
  decide +kernel

/-- Without and with interleave, the device addresses of 02_organisation.md, and their channels. -/
theorem test_address_map :
    (let q : Partition := { stat := .up, courts := [2, 5, 6] }
     (q.da 0x123456780, ({ q with il := true } : Partition).da 0x123456780, chanOf (q.da 0x123456780),
      chanOf (({ q with il := true } : Partition).da 0x123456780))) = (0x423456780, 0x1E1172E80, 11, 4) := by decide +kernel

/-- Slot b of the partition of 10_images.md, and the stream table of its image. -/
theorem test_slot_memory :
    (let q : Partition := { stat := .up, courts := [4, 5] }
     (q.slotPa false, q.slotPa true, q.da (q.slotPa true))) = (0x17C000000, 0x17E000000, 0x47E000000) := by decide +kernel

/-- The REDUCE frame of 14_rally.md: its first twelve bytes, and the child it carries. -/
def exFrame : Frame :=
  { cls := 3, hop := 0, crcls := 5, crlvl := 0, crcnt := 0, seq := 0x13, ack := 0xA7, nak := false, cx := 0, src := 1, dst := 0,
    c7 := 1, c8 := 0x00820040, payload := zeros 64, crc := 0 }

def exSigned : Frame := { exFrame with crc := exFrame.crcOf }

theorem test_reduce_frame : exFrame.head = bs [0x65, 0, 0x13, 0x9C, 2, 1, 0, 1, 0x40, 0, 0x82, 0] ∧ exFrame.reserved = false ∧
    (let c := childOf exFrame false; (c.rid, c.line, c.fmt, c.fn, c.epoch, c.children.map (·.1))) = (0x40, 2, 1, 0, 0, [1]) := by
  decide +kernel

/-- The known answer of CRC-32 for "123456789" (R379). -/
theorem test_crc32 : crc32 (asc "123456789") = 0xCBF43926 := by decide +kernel

/-- The completion record of 13_memory_host.md and its ring entry. -/
theorem test_completion_record :
    (exReport.bytes 1 false, (exReport.bytes 1 true).take 8) =
    (bs [14, 0, 0, 0, 1, 0, 0, 0, 0, 0, 0, 0, 2, 0, 0, 0, 1, 0, 0, 0, 0, 0, 0, 0, 0x85, 2, 0, 0, 0, 0, 0, 0],
     bs [14, 0, 0, 0, 1, 0x80, 0, 0]) := by decide +kernel

/-- The trailer of chunk 2 of the sealed export of 13_memory_host.md, and its initialisation vector. -/
theorem test_seal_trailer :
    (trailer 5 2 12288).take 24 = bs [5, 0, 0, 0, 2, 0, 0, 0, 0, 0, 0, 0, 0, 0x30, 0, 0, 0, 0, 0, 0, 0x45, 0x4D, 0x58, 0x53] ∧
    sealIv 5 2 = bs [5, 0, 0, 0, 2, 0, 0, 0, 0, 0, 0, 0] := by decide +kernel

/-- FFREC of device 3 of 16_faults.md, and word 0 of a peer's. -/
theorem test_fault_record :
    ffrecOf { code := 1, cluster := 14, stream := 0, unit := 6, offset := 448, addr := 0x10009380, space := 0, court := 0, detail := 1 }
      false (some { run0 with la := { run0.la with ctx := { tag := some 41 }, seq := 1207 } }) =
      [0x80010E06, 0x1C0, 0x10009380, 0x01000000, 0x29, 0x4B7] ∧
    (ffrecOf (errOf 9 0x0C 0x30002 2 15 1) false none).take 4 = [0x8009FFEC, 0, 0x30002, 0x012F0000] := by decide +kernel

/-- PSTATE0 of 19_registers.md, unlocked and as another stream reads it locked; the window registers of that ring. -/
theorem test_pstate0 :
    (let q : Partition := { stat := .up, courts := [6, 7], mhz := 1750, slots := [verified, {}] }
     (q.pstate0, ({ q with session := some z0 } : Partition).pstate0, ({ q with session := some z0 } : Partition).fourFields)) =
    (0x23C00202, 0x23C0020A, 0x23C0000A) ∧
    (let q : Partition := { ringBase := 0x100000000, ringLog2 := 8, prod := 0x105, cons := 5 }
     (q.ringFull, q.ringAt, ({ q with cons := 6 } : Partition).ringFull)) = (true, (0x1000000A0, false), false) := by decide +kernel

/-- DEVSTAT0 and DEVSTAT1 of 19_registers.md. -/
theorem test_devstat :
    (let s : State := { State.reset with
       dev := { stage := 6, ready := true, rack := some 5 }, host := { dlUp := true, cxl := true, width := 16, rate := 6 } }
     (s.devstat0, s.devstat1)) = (0xA0000600, 0x00850610) := by decide +kernel

/-- BOARDSTAT of 18_board.md in normal running and after the failure of rail 3. -/
theorem test_boardstat :
    ({ State.reset with dev := { stage := 6, ready := true } } : State).boardstat = 0x000F ∧
    ends (.railFault 3) State.reset (fun t => t.boardstat == 0x00E3 && ends (.restart 0xA5) t (fun u => u.board.rails == 8)) = true := by
  decide +kernel

/-- Two lines of 11_worper.md and 12_commands.md and the commands they spell. -/
theorem test_line_numbers :
    (match parseBody 2 false 0 (asc "@100 go args=0x0 done=0x10_0000") with
     | .ok i => i == .go { tag := some 100 } 2 none (some 0) none {} (some 0x100000)
     | .error _ => false) = true ∧
    (match parseBody 8 false 0 (asc "@1 part p1 courts=c4,c5") with
     | .ok i => i == .part { tag := some 1 } 1 [4, 5] false
     | .error _ => false) = true := by decide +kernel

/-- Lines that 11_worper.md calls ignored, with their reasons. -/
theorem test_ignored_lines :
    ([(2, "go dl=0.5ms"), (8, "go"), (2, "gone"), (2, "load a src=0x0")].map fun l =>
      match parseBody l.1 false 0 (asc l.2) with | .ok _ => 0 | .error e => e.code) = [8, 5, 4, 9] := by
  decide +kernel

/-! ## Witnesses: the machine and the device window -/

theorem wit_reset_invariants : ∃ s : State, s.memOk = true ∧ s.sized = true ∧ s.courtsOk = true ∧
    step s = .next s ∧ s.fuses.raises ≤ 63 := 
  ⟨State.reset, by decide +kernel, by decide +kernel, by decide +kernel, rfl, by decide⟩

/-- A sum of a page and a court with and without interleave lies in the partition's own courts. -/
theorem wit_address_map :
    (let q : Partition := { stat := .up, courts := [2, 5, 6], il := true }
     q.courtsOk = true ∧ q.courts.Nodup ∧ q.size - 1 < q.size ∧ q.paOf (q.da (q.size - 1)) = q.size - 1 ∧
     q.courts.contains (q.da (q.size - 1) / courtBytes) = true) := by decide +kernel

theorem wit_host_write_spares_slots : up.memOk = true ∧ up.courtsOk = true ∧ up.inSlot slotA = true ∧
    ends (.cxlMemWrite slotA none (List.replicate 64 1) (2 ^ 64 - 1) false {}) up (fun t => t.rdDa slotA == 0) = true := by
  decide +kernel

theorem wit_locked_hidden : locked.sized = true ∧ locked.courtsOk = true ∧ locked.owner (64 / courtBytes) = some 0 ∧
    (locked.part 0).locked = true ∧ locked.onStream none 0 = false ∧ locked.decoded 64 = some 64 ∧
    ({ locked with host := { dlUp := true } } : State).host.cxl = false ∧
    ends (.cxlMemRead 64 none false {}) locked (fun t => t.out == [.data [] true]) = true ∧
    ends (.cxlMemWrite 64 none (zeros 64) 1 false {}) locked (fun t => (t.part 0).lockdrop == 1) = true ∧
    locked.pageWord 0 none 0x100 = 0x2301000A ∧ locked.pageWord 0 none 0x84 = 0 := by decide +kernel

theorem wit_resetting_hidden :
    (let s := withP { p0 with stat := .resetting }
     (s.part 0).stat = .resetting ∧ s.owner (64 / courtBytes) = some 0 ∧
     ends (.cxlMemRead 64 none false {}) s (fun t => t.out == [.data [] true]) = true) := by decide +kernel

theorem wit_device_window : takesAll st0 8 [.hello {} none, .hello {} (some 12000000), .hello {} (some 9600), .statDevice {},
      .statParts {}, .statCourts {}, .statDeviceCounters {}, .temp {}, .echo {} true, .echo {} false, .resetCommand {}] = true ∧
    st0.isReady = true ∧
    ends .uartBaudSwitch { st0 with uart := { newBaud := some 921600 } } (fun t => t.uart.baud == 921600) = true ∧
    ends .uartBaudSwitch { st0 with uart := { newBaud := some 921600, tx := [65] } } (fun t => t.uart.baud == 115200) = true ∧
    ([true, false].all fun u =>
      ends .resetCommandFire { st0 with dev := { st0.dev with resetIn := [(u, 0)] } } fun t => t.dev.resets == [.resetN]) = true ∧
    ends .resetCommandFire { st0 with dev := { st0.dev with resetIn := [(true, 1)] }, uart := { tx := [65] } }
      (fun t => t.dev.ready) = true ∧
    ends (.cmdRtsN true) { st0 with dev := { st0.dev with resetIn := [(true, 1)] }, uart := { tx := [65], rts := false } }
      (fun t => t.dev.resetIn == [(true, 0)]) = true ∧
    ends (.replyoutRead 8 none 0x40 2) { st0 with dev := { st0.dev with resetIn := [(false, 5)] } }
      (fun t => t.dev.resetIn == [(false, 3)]) = true ∧
    ends (.resetCommand {}) st0 (fun t => t.dev.resetIn == [(false, 3)] && said t 8 "ok") = true ∧
    ends (.resetCommand {}) { st0 with dev := { st0.dev with resetIn := [(true, 1)] } }
      (fun t => t.dev.resetIn == [(true, 1), (false, 3)]) = true ∧
    ends .resetCommandFire { st0 with dev := { st0.dev with resetIn := [(true, 4), (false, 0)] } }
      (fun t => t.dev.resets == [.resetN]) = true := by decide +kernel

theorem test_hello_rate : ends (.hello { tag := some 3 } (some 9600)) st0 (fun t => said t 8 "no @3 why=range") = true := by
  decide +kernel

/-- R303, R304: `part`, then `free` and its end. -/
theorem wit_part_and_free : st0.sized = true ∧ st0.takes 8 (.part {} 1 [5, 4] false) = true ∧ st0.isReady = true ∧
    (st0.part 1).stat = .free ∧ st0.owner 5 = none ∧ st0.owner 4 = none ∧
    up.courtsOk = true ∧ up.takes 8 (.free {} 0) = true ∧ up.freeOk 0 = true ∧
    (let s := { up with windows := List.replicate 8 {} ++ [{ busy := some (.freeing {} 0) }], dram := [(7, 1), (courtBytes, 1)] }
     (s.win 8).busy = some (.freeing {} 0) ∧ s.dev.dfault = none ∧
     ends (.freeDone 0) s (fun t => (t.part 0).courts == [] && t.dram == [(courtBytes, 1)]) = true) := by decide +kernel

/-- R434: an error in the scrub of `part` or `free`; under EXTEST a port cannot train. -/
theorem wit_scrub_error : st0.takes 8 (.part {} 1 [5, 4] false true) = true ∧ up.takes 8 (.free {} 0 true) = true ∧
    ends (.part {} 1 [5, 4] false true) st0 (fun t => t.dev.dfault == some 7 && (t.part 1).state == 0) = true ∧
    ends (.free {} 0 true) up (fun t => t.dev.dfault == some 7 && (t.part 0).state == 4 && (t.win 8).busy == none) = true ∧
    ends (.part {} 1 [5] false) (st0.updBoard fun b => { b with tap := { ir := some .extest } })
      (fun t => (t.port 5).st == .down && (t.port 5).retry) = true := by decide +kernel

theorem test_part_line : ends (.part { tag := some 2 } 1 [5, 4] false) st0 (fun t => (t.part 1).courts == [4, 5] &&
    said t 8 "ok @2 p1 courts=c4,c5 il=off size=6g") = true := by decide +kernel

/-- R305: 800 MHz, the maximum, and 801 MHz; the end of a relock. -/
theorem wit_clock : takesAll up 8 [.clock {} 0 800, .clock {} 0 1750, .clock {} 0 801] = true ∧ (up.part 0).state = 2 ∧
    (up.part 0).drill = none ∧ (up.part 0).queue = [] ∧ up.gradeMax = 1750 ∧
    ([PStat.faulted, .resetting].all fun st => let s := withP { p0 with stat := st }
      s.takes 8 (.clock {} 0 800) && ends (.clock {} 0 800) s fun t => (t.part 0).mhz == 800) = true ∧
    ends (.clock {} 0 1750) up (fun t => (t.win 8).busy == some (.relocking 0) && (t.part 0).relock == some {}) = true ∧
    ends (.clock {} 0 801) up (fun t => said t 8 "no why=range") = true := by decide +kernel

theorem wit_links :
    (let held := { up with ports := [{ hold := true }] ++ List.replicate 7 {} }
     takesAll up 8 [.linkReport {} none, .linkReport {} (some 7), .linkOpDown {} 0, .linkOpUp {} 0, .linkOpRetrain {} 0] = true ∧
     held.takes 8 (.linkOpUp {} 0) = true ∧ up.linkOpOk 0 = true ∧ held.linkOpOk 0 = true ∧ (up.port 0).hold = false ∧
     ends (.linkOpUp {} 0) held (fun t => (t.port 0).st == .training && !(t.port 0).hold) = true ∧
     ends (.linkOpDown {} 0) up (fun t => (t.port 0).st == .down && (t.port 0).hold) = true) := by decide +kernel

theorem wit_rally_settings : takesAll up 8 [.linkRack {} (some 63), .linkRack {} none, .route {} 0 63 (some 0), .route {} 0 0 none,
      .route {} 0 5 (some 7), .group {} 0 none none none, .group {} 0 (some 65535) (some [(0, 1)]) (some 1000000),
      .group {} 0 (some 1) (some [(4, 7)]) (some 10)] = true ∧ up.isReady = true ∧
    (up.parts.all fun q => q.state != 3 && q.rally.group.isNone && q.pendR.isNone) = true ∧ (up.part 0).stat ≠ .free ∧
    (0 : PortNo).val ∈ (up.part 0).courts ∧ (7 : PortNo).val ∉ (up.part 0).courts ∧
    expandRanges [(4, 7)] = some [4, 5, 6, 7] := by decide +kernel

theorem test_rack_and_group : ends (.linkRack { tag := some 1 } (some 5)) up (fun t => t.dev.rack == some 5 && said t 8 "ok @1 rack=5") = true ∧
    ends (.group {} 0 (some 7) (some [(4, 7)]) (some 200)) up (fun t =>
      (t.part 0).stageR.group == some { id := 7, members := [4, 5, 6, 7], rto := 200 } && (t.part 0).rally.group == none) = true := by
  decide +kernel

/-- R416, R419: the conditions of `attest` and `session`; the device's own point stands for a tenant's key. -/
theorem wit_attest_session :
    (let pub := ecCompress (ecPublic 1)
     let eph := { up with dev := { up.dev with ephem := some (2, []) } }
     up.takes 8 (.attest {} (zeros 32)) = true ∧ up.isReady = true ∧
     ({ up with dev := { up.dev with attests := [{ ctx := {}, nonce := zeros 32 }] } } : State).dev.attests ≠ [] ∧
     eph.takes 8 (.session {} 0 pub) = true ∧ pub.length = 49 ∧ (ecDecompress pub).isSome = true ∧
     ((ecDecompress pub).bind (ecdh 2)).isSome = true ∧ up.takes 8 (.session {} 0 pub) = true ∧ up.dev.ephem = none ∧
     ends (.session {} 0 pub) up (fun t => said t 8 "no why=stale") = true ∧
     ends (.session {} 0 pub) eph (fun t => (t.part 0).pending.isSome && t.dev.ephem.isNone) = true) := by decide +kernel

/-- R312, R478, R479: a write begins in steps; its end; a source in a court that is not FREE; a source that is no bundle. -/
theorem wit_firmware :
    (let s := { st0 with flash := [{ Bank.shipped true with bundle := [1] }, Bank.shipped false] }
     let j : FwJob := { ctx := {}, bank := true, bundle := [1] }
     let w := ({ st0 with dev := { st0.dev with fw := some j } } : State).updWin 8 fun q => { q with busy := some .flashing }
     takesAll s 8 [.fwStat {}, .fwWrite {} (64 * 5) (2 ^ 23), .fwWrite {} 65 64, .fwWrite {} 0 64] = true ∧ s.isReady = true ∧
     s.sized = true ∧ takesAll up 8 [.fwWrite {} 65 64] = true ∧ up.owner (65 / courtBytes) = some 0 ∧ st0.owner 0 = none ∧
     64 * 5 + 2 ^ 23 ≤ 8 * courtBytes ∧ w.pending = [] ∧ w.dev.fw = some j ∧
     ends (.fwWrite {} 65 64) up (fun t => (t.win 8).ignWhy == 0x0C && (t.win 8).reply == []) = true ∧
     ends (.fwWrite {} 65 64) st0 (fun t => said t 8 "no why=range") = true ∧
     ends (.fwWrite {} 0 0) st0 (fun t => said t 8 "no why=verify" && t.flash == st0.flash) = true) := by decide +kernel

theorem wit_drills :
    (let job : DrillJob := { ctx := {}, courts := [0], res := [(0, 144, 0)], wait := [], on := [] }
     let on := { st0 with courts := { drill := true } :: List.replicate 7 {}, cl := List.replicate 96 { drillK := 11 } }
     let end_ := { on with cl := { drillK := 11 } :: List.replicate 95 {} }
     let waits := { end_ with dev := { end_.dev with drills := [{ job with wait := [0] }] } }
     st0.sized = true ∧ takesAll st0 8 [.drillCourts {} [0, 7]] = true ∧ st0.owner 7 = none ∧ st0.dev.drills = [] ∧
     on.takes 8 (.drillCourts {} [0]) = true ∧ on.isReady = true ∧ on.owner 0 = none ∧ (on.court 0).drill = true ∧
     takesAll up 0 [.drillPartition {} 0] = true ∧
     up.legal 0 true true false false = true ∧ (up.part 0).outstanding = false ∧ up.courtsOk = true ∧
     st0.isReady = true ∧ (st0.court 3).drill = false ∧ (on.court (11 / 12)).drill = true ∧ (on.clu 11).drillK < 12 ∧
     on.dev.dfault = none ∧ (end_.clu 0).drillK = 11 ∧ ((List.range 11).all fun i => (end_.clu (i + 1)).drillK == 12) = true ∧
     0 ∈ ((waits.dev.drills.map (·.wait)).head?.getD []) ∧
     ends (.drillCourts {} [0]) on (fun t => t.dev.drills.map (·.wait) == [[0]] && (t.clu 0).drillK == 11) = true ∧
     ends (.drillKernelEnd 11 false {}) on (fun t => (t.clu 11).dFails == 1 && (t.clu 11).dLast == 11 && (t.court 0).drill) = true ∧
     ([({ suspect := true } : HwObs), { parity := true }, { spUe := [(11, 0)] }].all fun o =>
       ends (.drillKernelEnd 11 true o) on fun t => (t.clu 11).dFails == 1 && (t.clu 11).dLast == 11) = true ∧
     ends (.drillKernelEnd 0 true {}) end_ (fun t => !(t.court 0).drill && (t.clu 0).drillK == 12) = true ∧
     ends (.drillKernelEnd 0 true { spCe := [1, 1, 12] }) waits (fun t => (t.court 0).drill && (t.clu 0).drillK == 0 &&
       (t.clu 1).spce == 2 && (t.clu 12).spce == 0 && t.dev.drills.map (·.on) == [[0]]) = true ∧
     ((withP { p0 with drill := some job }).part 0).drill = some job ∧
     ends (.drillPassDone 0) (withP { p0 with drill := some job }) (fun t => said t 0 "ok pass=144 fail=0") = true ∧
     ({ st0 with dev := { st0.dev with drills := [job] } } : State).dev.drills = [job]) := by decide +kernel

/-! ## Witnesses: partition windows -/

/-- An image of 12 clusters whose streams are all one END (R238, R239). -/
def endBody : List Byte := (List.range 60).flatMap (fun _ => leBytes 4 0x300 ++ leBytes 4 4) ++ zeros 32 ++ leBytes 4 0xFC000000 ++ zeros 60
def endImage (debug : Nat) : List Byte :=
  bs [0x45, 0x4D, 0x58, 0x49, 0, 1, 0, debug, 12, 0, 0, 0] ++ leBytes 4 832 ++ leBytes 4 256 ++ zeros 188 ++ sha384 endBody ++ endBody
def loading : State :=
  withP { p0 with slots := [{ st := .loading }, {}], load := some { ctx := { tag := some 12 }, b := false, src := 0, len := 64 } }

theorem test_verify_image : verifyImage (endImage 2) 1 832 = some (.header 7, 3) ∧
    verifyImage (endImage 0) 2 832 = some (.header 8, 4) ∧ verifyImage (endImage 0) 1 896 = some (.header 12, 5) := by decide +kernel

theorem wit_load : takesAll up 0 [.load {} 0 true 0 (2 ^ 25), .load {} 0 true 32 64, .load {} 0 true 0 (2 ^ 25 + 64)] = true ∧
    up.legal 0 true true true true = true ∧ 2 ^ 25 ≤ (up.part 0).slotLo ∧ (up.part 0).bound true = 0 ∧
    runs.takes 0 (.load {} 0 false 0 64) = true ∧ runs.legal 0 true true true true = true ∧ (runs.part 0).bound false ≠ 0 ∧
    ends (.load {} 0 false 0 64) runs (fun t => said t 0 "no why=busy") = true := by decide +kernel

theorem wit_load_done : loading.memOk = true ∧ loading.dev.dfault = none ∧ (loading.part 0).load.isSome = true ∧
    loading.snooped ((loading.part 0).daLines (linesOf 0 64) ++ (loading.part 0).slotLines false 64) = [] ∧
    (((loading.part 0).daLines (linesOf 0 64)).all fun a => ((loading.observe {} [0]).cause a).isNone) = true ∧
    ends (.loadDone 0 {}) loading (fun t => ((t.part 0).slot false).st == .empty && said t 0 "no @12 why=verify at=h:0 code=0x01") = true := by
  decide +kernel

theorem wit_swap :
    (let s := withP { p0 with slots := [verified, verified] }
     takesAll s 0 [.swap {} 0] = true ∧ s.legal 0 false true true true = true ∧ up.takes 0 (.swap {} 0) = true ∧
     ends (.swap {} 0) s (fun t => (t.part 0).active && said t 0 "ok slot=b") = true ∧
     ends (.swap {} 0) up (fun t => !(t.part 0).active && said t 0 "no why=empty") = true) := by decide +kernel

def launch1 : Instr := .go { tag := some 14 } 0 (some false) (some 0) (some 60000000) { sat := some 1 } (some 0x40)

theorem wit_go_wait_sig : up.legal 0 false true true true = true ∧
    takesAll up 0 [launch1, .go {} 0 (some true) (some 64) none {} none, .go {} 0 none none none {} none, .wait {} 0, .sig {} 0] = true ∧
    (withP { p0 with tickets := 255 }).takes 0 (.sig {} 0) = true ∧ 0x40 < (up.part 0).slotLo ∧
    ends launch1 (withP { p0 with gate := true }) (fun t => !(t.part 0).gate && (t.part 0).queue.map (·.gated) == [true] &&
      said t 0 "ok @14") = true ∧
    ends (.go {} 0 (some true) (some 64) none {} none) up (fun t => said t 0 "no why=empty") = true ∧
    ends (.sig {} 0) (withP { p0 with tickets := 255 }) (fun t => said t 0 "no why=full") = true := by decide +kernel

theorem wit_halt_abort : takesAll runs 0 [.halt {} 0, .abort {} 0] = true ∧ runs.legal 0 false true true true = true ∧
    runs.legal 0 false false true true = true ∧ (runs.part 0).run ≠ none ∧ (runs.part 0).queue = [] ∧ (runs.part 0).reports = [] ∧
    ends (.abort {} 0) runs (fun t => (t.part 0).state == 4 && (t.part 0).ffCode == 0x0C) = true := by decide +kernel

theorem wit_settings :
    (let pendR := withP { p0 with pendR := some {} }
     up.legal 0 true true true true = true ∧
     takesAll up 0 [.set {} 0 (some { flush := some 1 }) (some 1), .set {} 0 (some {}) (some 60000000),
       .shard {} 0 255 [4096, 4] [1, 4] [0, 1] [(4, 7)], .shard {} 0 0 [4] [1, 4] [0] [], .shardDrop {} 0 255, .commit {} 0] = true ∧
     (pendR.part 0).pendR = some {} ∧ (pendR.part 0).run = none ∧ pendR.rallyIdle 0 = true ∧
     ends (.shard {} 0 0 [4] [1, 4] [0] []) up (fun t => said t 0 "no why=rank") = true ∧
     ends (.set {} 0 (some { flush := some 1 }) (some 1)) up (fun t => (t.part 0).stageP.dl == 1 && (t.part 0).stageP.ctx.flush &&
       (t.part 0).set.dl == 10000) = true) := by decide +kernel

theorem wit_reports : takesAll up 0 [.statPartition {} 0, .statSlots {} 0, .statKeys {} 0, .statPartCounters {} 0, .statShard {} 0 255,
      .statShard {} 0 256, .statPoison {} 0, .tally {} 0 (some 15)] = true ∧ up.isReady = true ∧ (up.part 0).stat ≠ .free ∧
    ends (.tally {} 0 (some 15)) up (fun t => said t 0 "no why=none") = true ∧
    ends (.statPartition {} 0) up (fun t => said t 0 "ok state=loaded q=0 run=none gate=0 tk=0 slot=a lock=0 pend=0 ff=0x00") = true := by
  decide +kernel

/-- R296, R339, R422: the proof of a pending session locks the window; a zero key wraps to a fixed string (RFC 3394). -/
def pend : State := withP { p0 with pending := some z0 }
def proof0 : List Byte := (hmac384 (zeros 48) (asc "lock" ++ [0])).take 8
theorem wit_lock : pend.sized = true ∧ pend.takes 0 (.lock {} 0 proof0) = true ∧ pend.legal 0 true true false false = true ∧
    (pend.part 0).session = none ∧ takesAll pend 0 [.lock {} 0 (zeros 8), .lock {} 0 []] = true ∧ zeros 8 ≠ proof0 ∧
    ends (.lock {} 0 proof0) pend (fun t => (t.part 0).locked && (t.part 0).txSeq == 1) = true ∧
    ([zeros 8, []].all fun x =>
      ends (.lock {} 0 x) pend (fun t => (t.part 0).pending.isNone && said t 0 "no why=proof")) = true := by decide +kernel

theorem wit_keys : locked.legal 0 true true true true = true ∧ (locked.part 0).session = some z0 ∧
    takesAll locked 0 [.key {} 0 7 (zeros 40), .unkey {} 0 0] = true ∧
    ends (.unkey {} 0 0) (withP { p0 with session := some z0, keys := List.replicate 8 { key := some (zeros 32) } })
      (fun t => (t.part 0).keys.map (fun k => k.key.isNone) == true :: List.replicate 7 false) = true := by decide +kernel

def keyed : State := withP { p0 with keys := List.replicate 8 { key := some (zeros 32), ctr := 5 } }
def job (kind : Nat) (key : Option Nat) (len : Nat) : Job :=
  { id := 3, ctx := {}, kind := kind, key := key, pa := 64, host := 0, len := len, val := 0, latch := none, ctr := 0,
    chunks := [], lines := [], got := [], moved := 0, status := none, after := [] }
def withJob (j : Job) : State := withP { p0 with jobs := [j] }
def full : State := withP { p0 with jobs := List.replicate 16 (job 2 none 64) }

theorem wit_move : keyed.legal 0 true true true true = true ∧ keyed.sized = true ∧
    takesAll keyed 0 [.move {} 0 false 64 64 64 none, .move {} 0 true 64 64 64 none, .move {} 0 true 32 64 64 none,
      .move {} 0 true 4096 4096 4096 (some 7), .move {} 0 false 4096 4096 4096 (some 0), .fill {} 0 64 64 1] = true ∧
    takesAll full 0 [.move {} 0 true 64 64 64 none] = true ∧ (full.part 0).jobCount = 16 ∧ (keyed.part 0).jobCount = 0 ∧
    (keyed.part 0).jobOk 0 none 64 64 64 = true ∧ (keyed.part 0).jobOk 1 none 64 64 64 = true ∧
    (keyed.part 0).jobOk 1 none 32 64 64 = false ∧ (keyed.part 0).jobOk 1 (some 7) 4096 4096 4096 = true ∧
    (keyed.part 0).jobOk 0 (some 0) 4096 4096 4096 = true ∧ (keyed.part 0).jobOk 2 none 64 0 64 = true ∧
    ends (.move {} 0 true 4096 4096 4096 (some 7)) keyed (fun t => ((t.part 0).jobs.map (·.ctr)) == [5] &&
      (tget {} (t.part 0).keys 7).ctr == 6) = true ∧
    ends (.move {} 0 true 64 64 64 none) full (fun t => said t 0 "no why=full") = true := by decide +kernel

theorem wit_mover_data :
    (let j := job 0 none 64
     let host := withJob j
     let late : Job := { j with status := some 4, after := [1] }
     host.jobOf 0 3 = some j ∧ j.nextOf (host.part 0) 1 = true ∧ j.moves (j.courtAt (host.part 0) 0) = true ∧
     host.snooped ((host.part 0).daLines [1]) = [] ∧ j.hostLen = 64 ∧
     late.moves 0 = true ∧ late.moves 1 = false ∧ (late.last 0).moves 0 = false ∧ (late.stopAt 0 2).status = some 2 ∧
     ends (.hostReadCompletion 0 3 0 (some (List.replicate 64 9))) host (fun t => t.rdDa 127 == 9 && t.rdDa 128 == 0) = true ∧
     ends (.hostReadCompletion 0 3 0 none .poison) (host.updHost fun h => { h with aerEn := true }) (fun t =>
       t.host.aerUnc == 0x1000 && t.host.aerPtr == 12 && t.out == [.errMsg 12]) = true ∧
     ends (.hostReadCompletion 0 3 0 none .timeout) host (fun t => t.host.aerUnc == 0x4000 && t.out == []) = true ∧
     ends (.hostReadCompletion 0 3 0 none) host (fun t => (t.part 0).jobs.map (·.status) == [some 4]) = true) := by decide +kernel

/-- R292: pending rally settings take effect in whichever state the partition is, while it runs nothing. -/
theorem wit_rally_apply :
    (let s := withP { p0 with stat := .faulted, pendR := some {} }
     s.rallyIdle 0 = true ∧ (s.part 0).run = none ∧ ends (.rallySetApply 0) s (fun t => (t.part 0).pendR.isNone) = true) := by
  decide +kernel

/-- R362, R364: a chunk leaves sealed and comes back; its conditions at both ends. -/
def sealJob (kind : Nat) : Job := { job kind (some 7) 4096 with pa := 4096, latch := some (7, 0, zeros 32), ctr := 5 }

/-- R362, R367: a failed host read ends a piece when the piece comes to it. -/
theorem wit_host_errors :
    (let two := withJob (job 0 none 128)
     let j : Job := { sealJob 0 with len := 8192 }
     let s := withJob j
     (job 0 none 128).nextOf (two.part 0) 2 = false ∧ j.hostLen = 8320 ∧ j.moves (j.courtAt (s.part 0) 8256) = true ∧ s.jobOf 0 3 = some j ∧
     ends (.hostReadCompletion 0 3 64 none) two (fun t => t == two) = true ∧
     ends (.hostReadCompletion 0 3 8256 (some (List.replicate 64 9))) s (fun t => ((t.part 0).jobs.map fun j => (j.lines, j.got.length)) ==
       [([8256], 64)]) = true ∧
     ends (.hostReadCompletion 0 3 0 none .timeout) s (fun t => (t.part 0).jobs.map (·.status) == [some 4] && t.host.aerUnc == 0x4000) = true ∧
     ends (.hostReadCompletion 0 3 8256 none) s (fun t => ((t.part 0).jobs.map fun j => (j.status, j.fails)) == [(none, [1])]) = true ∧
     (({ j with chunks := [0], fails := [1] } : Job).failNow (s.part 0) 0).status = some 4) := by decide +kernel

theorem wit_seal :
    (let s := { withJob (sealJob 1) with dram := [(4096, 7), (8191, 9)] }
     s.jobOf 0 3 = some (sealJob 1) ∧ (sealJob 1).nextChunk (s.part 0) 0 = true ∧ s.hostOpen = true ∧
     s.snooped ((s.part 0).daLines (linesOf 4096 4096)) = [] ∧
     (((s.part 0).daLines (linesOf 4096 4096)).all fun a => ((s.observe {} ((s.part 0).daLines (linesOf 4096 4096))).cause a).isNone) = true ∧
     ends (.sealChunk 0 3 {} 0) s (fun t => t.out.length == 1 && (t.part 0).jobs.map (·.chunks) == [[0]]) = true) := by decide +kernel

theorem wit_unseal :
    (let j : Job := { sealJob 0 with lines := (List.range 65).map (64 * ·) }
     let s := withJob j
     s.jobOf 0 3 = some j ∧ j.nextChunk (s.part 0) 0 = true ∧ ((List.range 65).all fun i => j.lines.contains (64 * i)) = true ∧
     s.snooped ((s.part 0).daLines (linesOf 4096 4096)) = [] ∧
     ends (.unsealChunk 0 3 0) s (fun t => (t.part 0).jobs.map (fun j => (j.status, j.after)) == [(some 2, [0])]) = true) := by
  decide +kernel

theorem wit_fill :
    (let j : Job := { job 2 none 64 with val := 0x0807060504030201 }
     let s := withJob j
     (s.part 0).stat = .up ∧ s.jobOf 0 3 = some j ∧ s.memOk = true ∧ s.poison = [] ∧
     (s.part 0).reports = [] ∧ s.snooped ((s.part 0).daLines (linesOf 64 64)) = [] ∧ s.sized = true ∧
     ends (.moverJobEnd 0 3 {}) s (fun t => (t.part 0).jobs == [] && t.rdDa 64 == 1 && t.rdDa 127 == 8 && t.rdDa 128 == 0) = true) := by
  decide +kernel

/-- R362, R367, R372: the end of an outbound job without a key; of a job that has moved all, whose report waits for a ring
or goes at once. -/
theorem wit_job_end :
    (let out := { withJob (job 1 none 64) with dram := [(64, 7)] }
     let j : Job := { job 0 none 64 with moved := 64 }
     let stuck : Job := { job 0 none 64 with status := some 4 }
     let s := withJob j
     let ring := withP { p0 with jobs := [j], ringLog2 := 7, ringEn := true }
     let waits := { ring with host := { ring.host with bme := false } }
     (job 1 none 64).key = none ∧ out.hostOpen = true ∧ out.snooped ((out.part 0).daLines (linesOf 64 64)) = [] ∧
     (out.part 0).courtsOk = true ∧ (out.part 0).courts.Nodup ∧ 64 + 64 ≤ (out.part 0).size ∧
     s.jobOf 0 3 = some j ∧ j.late = false ∧ s.dev.dfault = none ∧ (s.part 0).haltReply = none ∧ (ring.part 0).ringFull = false ∧
     ends (.moverJobEnd 0 3 {}) out (fun t => (t.part 0).jobs == [] && t.out == [.hostWrite 0 (7 :: zeros 63)]) = true ∧
     ends (.moverJobEnd 0 3 {}) s (fun t => (t.part 0).reports.length == 0 && said t 0 "ok st=ok bytes=64") = true ∧
     ends (.moverJobEnd 0 3 {}) (withJob stuck) (fun t => said t 0 "ok st=host_error bytes=0") = true ∧
     ends (.moverJobEnd 0 3 {}) ring (fun t => (t.part 0).prod == 1 && t.out == [.hostWrite 0 ((jobReport j 0).bytes 0 true)]) = true ∧
     ends (.moverJobEnd 0 3 {}) waits (fun t => (t.part 0).reports == [jobReport j 0] && t.out == []) = true) := by decide +kernel

/-- A launch of a debug image with a break to come; and one that has stopped. -/
def stopping : State := withP { p0 with run := some { run0 with stop := .stopping [(0, 1)] true }, seq := 1 }
def stoppedS : State := withP { p0 with run := some { run0 with stop := .stopped none }, seq := 1 }
def armed : State := withP { p0 with slots := [{ verified with debug := true }, {}], breaks := List.replicate 4 (.tag 1) }
def dbg : State := withP { p0 with slots := [{ verified with debug := true }, {}] }

theorem wit_breaks : dbg.debugPermitted 0 = true ∧ dbg.legal 0 true true true true = true ∧ dbg.clOk 0 11 4 = true ∧
    takesAll dbg 0 [.breakCount {} 0 11 4 (2 ^ 32 - 1), .breakTag {} 0 65535, .breakDrop {} 0] = true ∧
    armed.debugPermitted 0 = true ∧ armed.takes 0 (.breakTag {} 0 0) = true ∧
    ends (.breakTag {} 0 0) armed (fun t => said t 0 "no why=full") = true ∧
    (stopping.part 0).run.map (·.stop) = some (.stopping [(0, 1)] true) ∧
    ends (.breakStopped 0) stopping (fun t => said t 0 "ev break") = true ∧
    stoppedS.debugPermitted 0 = true ∧ stoppedS.legal 0 false false false true = true ∧
    takesAll stoppedS 0 [.step {} 0 0 0 65535, .cont {} 0] = true ∧
    ends (.step {} 0 0 0 65535) stoppedS (fun t => (t.part 0).run.map (·.stop) == some (.stopped (some (0, 0, 65535)))) = true := by
  decide +kernel

/-- R261, R336, R337: the verbs of a partition without a debug image, and of one in another state. -/
theorem wit_debug_ignored :
    (let quiet := withP { p0 with run := some { run0 with stop := .stopped none, debug := false }, seq := 1 }
     let bad := withP { p0 with stat := .faulted }
     let brk : List Instr := [.breakCount {} 0 12 5 0, .breakTag {} 0 65536, .breakDrop {} 0]
     let go : List Instr := [.step {} 0 0 0 1, .cont {} 0]
     let acc : List Instr := [.peek {} 0 0 .a (some 0) (some 0) none none, .peek {} 0 0 .l (some 4) (some 3) none none,
       .peek {} 0 0 .t none (some 63) none none, .peek {} 0 0 .region none (some 1023) none none,
       .poke {} 0 0 .a (some 0) (some 0) none (some 0) none, .poke {} 0 0 .t none (some 63) none (some 0) none,
       .poke {} 0 0 .e none (some 7) none (some 0) none]
     let ignored (s : State) (why : Nat) (l : List Instr) : Bool := takesAll s 0 l && l.all fun c => ends c s fun t =>
       (t.win 0).ignWhy == why && (t.win 0).reply == [] && t.parts == s.parts && t.cl == s.cl
     up.legal 0 true true true true = true ∧ quiet.legal 0 false false false true = true ∧ quiet.peekState 0 = true ∧
     up.debugPermitted 0 = false ∧ quiet.debugPermitted 0 = false ∧ bad.legal 0 true true true true = false ∧
     up.legal 0 false false false true = false ∧ runs.peekState 0 = false ∧
     (ignored up (Why.code .debug) brk && ignored quiet (Why.code .debug) (go ++ acc) && ignored up (Why.code .debug) acc &&
      ignored bad (Why.code .state) brk && ignored up (Why.code .state) go && ignored runs (Why.code .state) acc) = true) := by
  decide +kernel

theorem wit_peek_poke : dbg.sized = true ∧ dbg.courtsOk = true ∧ dbg.peekState 0 = true ∧ dbg.debugPermitted 0 = true ∧
    takesAll dbg 0 [.peek {} 0 11 .a (some 4) (some 15) none none, .peek {} 0 0 .region none (some 1023) none none,
      .peek {} 0 11 .l (some 4) (some 3) none none, .peek {} 0 11 .t none (some 63) none none,
      .poke {} 0 11 .a (some 4) (some 15) none (some (2 ^ 48 - 1)) none, .poke {} 0 0 .a (some 0) (some 0) none (some (2 ^ 48)) none,
      .poke {} 0 0 .t none (some 63) none (some 255) none, .poke {} 0 0 .e none (some 7) none (some (2 ^ 41 - 1)) none,
      .poke {} 0 0 .e none (some 0) none (some (2 ^ 34 + 5)) none] = true ∧ pokeModeOk (2 ^ 34 + 5) = true ∧
    ends (.poke {} 0 0 .e none (some 0) none (some (2 ^ 34 + 5)) none) dbg (fun t => (tget {} (t.clu 0).e 0).v == 5) = true ∧
    ends (.peek {} 0 0 .t none (some 63) none none) (dbg.updClu 0 fun k => { k with tokens := k.tokens.set 63 7 })
      (fun t => (t.win 0).reply == asc "= val=0x7" ++ [10] ++ asc "ok" ++ [10]) = true ∧
    ends (.peek {} 0 0 .l (some 4) (some 3) none none) (dbg.updStr 0 4 fun t => { t with l := t.l.set 3 9 })
      (fun t => (t.win 0).reply == asc "= val=0x9" ++ [10] ++ asc "ok" ++ [10]) = true ∧
    ends (.poke {} 0 11 .a (some 4) (some 15) none (some 5) none) dbg (fun t => tget 0 (t.str 11 4).a 15 == 5) = true := by
  decide +kernel


/-! ## Witnesses: lines, windows, the UART and the host -/

def typed (w : Nat) (text : String) : State :=
  up.updWin w fun q => { q with fifo := (asc text).map .byte ++ [.byte 10] }

theorem wit_lines :
    (let s := typed 0 "@3 wait"
     s.sized = true ∧ s.mute = false ∧ s.stopped 0 = false ∧ s.winKey 0 = none ∧ (s.win 0).held = none ∧ (s.win 0).asm = [] ∧
     splitMac (asc "@3 wait") = (asc "@3 wait", none) ∧ hasPrefix (asc "@3 wait") = false ∧ (asc "@3 wait").all isSpace = false ∧
     (match parseBody 0 false 0 (asc "@3 wait") with | .ok i => i == .wait { tag := some 3 } 0 | .error _ => false) = true ∧
     ends (.lineParse 0) s (fun t => (t.part 0).gate && said t 0 "ok @3" && (t.win 0).fifo == []) = true ∧
     ends (.lineParse 8 true) (typed 8 "part p1 courts=c4") (fun t => t.dev.dfault == some 7) = true ∧
     ends (.lineParse 0) (typed 0 "wave") (fun t => (t.win 0).ign == 1 && (t.win 0).ignWhy == 4) = true) := by decide +kernel

theorem wit_held_line :
    (let s := up.updWin 0 fun q => { q with held := some (.cmd (.wait {} 0)) }
     (s.win 0).held = some (.cmd (.wait {} 0)) ∧ s.waitsFor (.wait {} 0) = false ∧ s.stopped 0 = false ∧
     ends (.parserResume 0) s (fun t => (t.part 0).gate && (t.win 0).held.isNone) = true) := by decide +kernel

/-- R422: the MAC of a line under the zero key, with line number 0. -/
def mac0 (text : String) : List Byte := (hmac384 (zeros 48) (leBytes 8 0 ++ asc text)).take 8
theorem wit_macs :
    (let good : RawLine := { bytes := asc "wait ~" ++ hexBytes (mac0 "wait") }
     let bad : RawLine := { bytes := asc "wait" }
     let null : RawLine := { bytes := asc "  # note" }
     let blank : RawLine := { bytes := asc " # note ~" ++ hexBytes (mac0 " # note") }
     let lost : RawLine := { good with ovf := true }
     (locked.part 0).session = some z0 ∧ good.ovf = false ∧ good.breaks = [] ∧ splitMac good.bytes = (asc "wait", some (mac0 "wait")) ∧
     (splitMac bad.bytes).2 = none ∧ null.null (splitMac null.bytes).1 (splitMac null.bytes).2.isSome = true ∧
     bad.null (asc "wait") false = false ∧ (parseBody 0 false 0 (lineText (asc "wait"))).toBool = true ∧
     ((locked.takeLine 0 good).part 0).gate = true ∧ ((locked.takeLine 0 good).part 0).rxSeq = 1 ∧
     locked.takeLine 0 null = locked ∧ ((locked.takeLine 0 blank).part 0).rxSeq = 1 ∧
     (((locked.takeLine 0 lost).part 0).rxSeq, ((locked.takeLine 0 lost).win 0).ignWhy) = (1, 0x10) ∧
     ((locked.takeLine 0 bad).win 0).ignWhy = 0x0D ∧ (locked.win 0).held = none ∧ locked.mute = false ∧
     locked.stopped 0 = false ∧
     ends (.lineParse 0) (locked.updWin 0 fun q => { q with uline := some good }) (fun t => (t.part 0).gate && (t.part 0).rxSeq == 1 &&
       (t.win 0).uline == none) = true ∧
     ends (.lineParse 0) (locked.updWin 0 fun q => { q with fifo := good.bytes.map .byte ++ [.byte 10, .byte 65] })
       (fun t => (t.part 0).gate && (t.win 0).fifo == [.byte 65]) = true ∧
     ends (.lineParse 0) (locked.updWin 0 fun q => { q with fifo := [.byte 65] })
       (fun t => (t.win 0).fifo == [] && (t.win 0).asm == [65]) = true) := by decide +kernel

def saying (n : Nat) : State := up.updWin 0 fun q => { q with reply := List.replicate n 65 }
theorem wit_window_registers :
    (let s := (saying 3840).updWin 0 fun q => { q with lost := 2 }
     let w8 := up.updWin 8 fun q => { q with lost := 1 }
     let u := { up with uart := { lost := 3 } }
     up.host.dlUp = true ∧ up.pageOpen 0 none = true ∧ (saying 3).pageOpen 0 none = true ∧ (s.win 0).lost ≠ 0 ∧
     (s.win 0).reply.length + 256 ≤ 4096 ∧ (w8.win 8).lost ≠ 0 ∧ u.uart.lost ≠ 0 ∧ u.uart.tx.length + 256 ≤ 4096 ∧
     ends (.cmdinWrite 0 none (List.replicate 64 (some 0)) 0) up (fun t => (t.win 0).credit == 4032) = true ∧
     ends (.cmdinWrite 0 none [some 5, none, some 6] 1) up (fun t => (t.win 0).fifo == [.byte 5, .byte 6]) = true ∧
     ends (.cmdinWrite 0 none [some 1] 0) (up.updWin 0 fun q => { q with fifo := List.replicate 4096 (.byte 0) })
       (fun t => (t.win 0).fifo.getLast? == some .overrun) = true ∧
     ends (.replyoutRead 0 none 0x40 5) (saying 3) (fun t => t.out == [.data [65, 65, 65, 0, 0] false] && (t.win 0).reply == []) = true ∧
     ends (.replyoutRead 0 none 0x50 64) (saying 3) (fun t => t.out == [.data (zeros 64) false] && (t.win 0).reply.length == 3) = true ∧
     ends (.evLost (some 0)) (s.updDev fun d => { d with dfault := some 3 }) (fun t => (t.win 0).lost == 2) = true ∧
     ends (.winctlWrite 0 none 1) ((saying 3).updHost fun h => { h with msixEn := true }) (fun t => (t.win 0).rie &&
       tget false t.host.pend 17) = true ∧
     ends (.winctlWrite 0 none 1) up (fun t => (t.win 0).rie && !tget false t.host.pend 17) = true ∧
     ends (.winctlWrite 0 none 2) up (fun t => !(t.win 0).rie) = true ∧
     ends (.registerWriteIgnored 0x80 [1, 2, 3, 4]) up (fun t => t == up) = true ∧
     ends (.evLost (some 0)) s (fun t => (t.win 0).lost == 0 && (t.win 0).reply.drop 3840 == asc "ev lost n=2" ++ [10]) = true ∧
     ends (.evLost (some 8)) w8 (fun t => said t 8 "ev lost n=1") = true ∧
     ends (.evLost none) u (fun t => t.uart.lost == 0) = true) := by decide +kernel

theorem test_reply_lost : (let t := (saying 4096).emit 0 false (asc "ok"); ((t.win 0).lost, (t.win 0).reply.length)) = (1, 4096) := by
  decide +kernel

def wired (text : String) : State := { up with uart := { asm := asc text ++ [10] } }
theorem wit_uart :
    (let many := { up with uart := { rx := List.replicate 1024 (.byte 65) } }
     let some767 := { up with uart := { rx := List.replicate 767 (.byte 65) } }
     up.sized = true ∧ up.mute = false ∧ up.uart.full = false ∧ fifoCount many.uart.rx = 1024 ∧ fifoCount some767.uart.rx < 1024 ∧
     ends (.uartByteReceive 65) many (fun t => t.uart.rx.getLast? == some .overrun) = true ∧
     ends (.uartByteReceive 65) up (fun t => t.uart.asm == [65] && t.uart.cts) = true ∧
     up.boundary 7 = true ∧ up.boundary 8 = true ∧ (wired "p7: wait").uart.asmOver = false ∧
     ends .uartLineHandoff (wired "p7: wait") (fun t => (t.win 7).uline.map (·.bytes) == some (asc "wait")) = true ∧
     ends .uartLineHandoff (wired "hello") (fun t => (t.win 8).uline.map (·.bytes) == some (asc "hello")) = true ∧
     ends .uartLineHandoff (wired "p8: wait") (fun t => (t.win 8).ignWhy == 0x0F) = true ∧
     ends .uartLineHandoff (wired "p8: wait ~0011223344556677") (fun t => (t.win 8).ignWhy == 0x0E) = true ∧
     ends (.cmdRtsN true) { up with uart := { tx := [65], rts := false } } (fun t => t.out == [.uart [65]] && t.uart.tx == []) = true ∧
     ends (.cmdRtsN false) up (fun t => !t.uart.rts) = true) := by decide +kernel

def ringed : State := withP { p0 with ringLog2 := 7, ringEn := true, reports := [exReport] }
theorem wit_ring :
    (let s := withP { p0 with ringLog2 := 7 }
     up.pageOpen 0 none = true ∧ (ringed.part 0).reports = [exReport] ∧ exReport.done = none ∧ (ringed.part 0).ringFull = false ∧
     ringed.host.bme = true ∧ ringed.dev.dfault = none ∧
     ends (.ringbaseWrite 0 none (some 0x1FFF) (some 1)) up (fun t => (t.part 0).ringBase == 0x100001000) = true ∧
     ends (.ringbaseWrite 0 none (some 0x1000) (some 1)) ringed (fun t => (t.part 0).ringBase == 0) = true ∧
     ends (.ringsizeWrite 0 none 7) up (fun t => (t.part 0).ringLog2 == 7) = true ∧
     ends (.ringsizeWrite 0 none 17) up (fun t => (t.part 0).ringLog2 == 0) = true ∧
     ends (.ringEnable 0 none true) s (fun t => (t.part 0).ringEn && (t.part 0).ringCie) = true ∧
     ends (.ringEnable 0 none true) up (fun t => !(t.part 0).ringEn) = true ∧
     ends (.ringCieWrite 0 none true) ringed (fun t => (t.part 0).ringCie) = true ∧
     ends (.ringDisable 0 none false) ringed (fun t => !(t.part 0).ringEn) = true ∧
     ends (.ringconsWrite 0 none 6) ringed (fun t => (t.part 0).cons == 6) = true ∧
     ends (.ringEntryWrite 0 {}) ringed (fun t => (t.part 0).prod == 1 && (t.part 0).reports == [] &&
       t.out == [.hostWrite 0 (exReport.bytes 0 true)]) = true) := by decide +kernel

theorem wit_messages :
    (let s := up.updHost fun h => { h with pend := h.pend.set 31 true, msixEn := true }
     let b := { up with host := { up.host with bme := false, msixEn := true, masks := List.replicate 32 false,
                                               pend := List.replicate 32 true } }
     s.host.bme = true ∧ tget false s.host.pend 31 = true ∧ s.host.masks.length = 32 ∧ tget false up.host.pend 0 = false ∧
     tget true b.host.masks 0 = false ∧ tget false b.host.pend 0 = true ∧
     ends (.msixUnmask 31 true none) s (fun t => t.out == [.msix 31 (0, 0)]) = true ∧
     ends (.msixUnmask 31 true (some (0xFEE00000, 7))) s (fun t => t.out == [.msix 31 (0xFEE00000, 7)]) = true ∧ s.host.table.length = 32 ∧
     ends (.msixUnmask 31 true none (some true)) s (fun t => t.out == [] && tget false t.host.masks 31) = true ∧
     ends (.msixUnmask 31 true (some (5, 6)) none) s (fun t => t.out == [] && tget false t.host.masks 31 &&
       tget (0, 0) t.host.table 31 == (5, 6)) = true ∧ tget false s.host.masks 31 = true ∧
     ends (.busMasterEnableSet false (some (true, 0x1000))) (s.updHost fun h => { h with aerUnc := 0x5000 })
       (fun t => t.host.aerEn && t.host.aerUnc == 0x4000) = true ∧
     ends (.msixUnmask 31 false none) s (fun t => t.out == [] && tget false t.host.pend 31) = true ∧
     ends (.busMasterEnableSet true) b (fun t => t.out.length == 32 && t.host.viralEn) = true ∧
     ends .functionLevelReset (withP { p0 with ringEn := true, jobs := [job 0 none 64] }) (fun t => !t.host.bme &&
       !(t.part 0).ringEn && ((t.part 0).jobs.all fun j => j.status == some 4)) = true) := by decide +kernel

theorem wit_cxl :
    (let a := 64 * 3
     let s := { up with dram := [(a, 5)], host := { up.host with biSent := [3] } }
     up.decoded 0x5FFFFFFFF = some 0x5FFFFFFFF ∧ up.decoded 0x600000000 = none ∧ s.memOk = true ∧ s.hostMay none a = true ∧
     s.inSlot a = false ∧ s.cause 3 = none ∧ (s.court 0).mustEvict 3 = none ∧ 3 ∈ s.host.biSent ∧
     ends (.hdmDecoderCommit (2 ^ 28) 0x600000000 1 true) up (fun t => t.host.hdm == some (2 ^ 28) && t.host.biEn) = true ∧
     ends (.hdmDecoderCommit 1 0x600000000 1 true) up (fun t => t.host.hdm == none && t.host.hdmErr) = true ∧
     ends (.cxlMemRead a none true {}) s (fun t => t.out == [.data (5 :: zeros 63) false] && (t.court 0).snoop == [3]) = true ∧
     ends (.cxlMemWrite a none (List.replicate 64 9) 2 false {}) s (fun t => t.rdDa a == 5 && t.rdDa (a + 1) == 9 && t.rdDa (a + 2) == 0) = true ∧
     ends (.cxlMemWrite a none (zeros 64) (2 ^ 64 - 1) true {}) s (fun t => t.cause 3 == some .host && t.rdDa a == 5) = true ∧
     ends (.birsp a (some (List.replicate 64 9))) s (fun t => t.host.biSent == [] && t.rdDa (a + 63) == 9) = true) := by decide +kernel

theorem wit_bar4 :
    (let s := { up with host := { dlUp := true }, dram := [(63, 5)] }
     s.dev.ready = true ∧ s.host.cxl = false ∧ s.hostMay none 62 = true ∧ s.cause 0 = none ∧ s.inSlot 62 = false ∧
     0x5FFFFFFFE + 2 ≤ 0x600000000 ∧ 62 % 64 + 2 ≤ 64 ∧
     ends (.bar4Read 62 2 none {}) s (fun t => t.out == [.data [0, 5] false]) = true ∧
     ends (.bar4Write 62 [8, 9] none false {}) s (fun t => t.rdDa 62 == 8 && t.rdDa 63 == 9) = true ∧
     ends (.bar4Write 62 [8, 9] none false {} [0]) s (fun t => t.rdDa 62 == 0 && t.rdDa 63 == 9) = true ∧
     ends (.bar4Write 0x600000000 [8] none true {}) (s.updHost fun h => { h with aerEn := true })
       (fun t => t.host.aerUnc == 0x1000 && t.out == [.errMsg 12] && t.dram == s.dram) = true ∧
     ends (.bar4Read 0x600000000 4 none {}) s (fun t => t.out == [.data (zeros 4) false]) = true ∧
     ends (.bar4Read 0 4 none {}) { s with dev := {} } (fun t => t.out == [.data [] true]) = true) := by decide +kernel

def ideS (k : IdeSlot) : State := { locked with ide := k :: List.replicate 8 {}, spdm := { sess := [2, 0] } }
theorem wit_ide :
    (let six : IdeSlot := { keys := (List.range 6).map fun i => (i, zeros 32) }
     let s := ideS {}
     (ideS { secure := true }).slotLocked 0 = true ∧ s.doeOpen = true ∧ tget 0 s.spdm.sess 0 = 2 ∧ s.slotLocked 8 = false ∧
     s.slotLocked 0 = true ∧ ((ideS six).ideSlot 0).hasSet false = true ∧ (s.part 0).session = some z0 ∧ (s.ideSlot 0).keys = [] ∧
     ((ideS { secure := true }).ideSlot 0).cur = false ∧
     ends (.ideIntegrityFailure 0) (ideS { six with secure := true }) (fun t => (t.ideSlot 0).gen == 1 && (t.ideSlot 0).keys == [] &&
       t.host.aerUnc == 0x10000000) = true ∧
     ends (.ideKmKeyProg 0 8 true true 2 (zeros 32)) s (fun t => (t.ideSlot 8).keys == [(11, zeros 32)]) = true ∧
     ends (.ideKmKeyProg 0 0 true true 2 (zeros 32)) s (fun t => (t.ideSlot 0).keys == [] && t.out == [.spdm (.ideKm false)]) = true ∧
     ends (.kSetGo 0 0 false) (ideS six) (fun t => (t.ideSlot 0).secure) = true ∧
     ends (.kSetGo 0 0 true) s (fun t => (t.ideSlot 0).secure && (t.ideSlot 0).cur && (t.ideSlot 0).keys.length == 6) = true ∧
     ends (.kSetStop 0 0 false) (ideS { six with secure := true }) (fun t => !(t.ideSlot 0).secure && (t.ideSlot 0).gen == 1) = true) := by
  decide +kernel

theorem wit_spdm :
    (let s := { up with spdm := { version := true, caps := true, algs := true } }
     let h := { up with spdm := { version := true, caps := true, algs := true, sess := [1, 0] } }
     let e := { up with spdm := { version := true, caps := true, algs := true, sess := [2, 0] } }
     s.doeOpen = true ∧ s.spdm.sess.idxOf? 0 = some 0 ∧ tget 0 h.spdm.sess 0 = 1 ∧ tget 0 e.spdm.sess 0 = 2 ∧ up.host.cxl = true ∧
     ends .getVersion up (fun t => t.spdm.version && t.out == [.spdm .version]) = true ∧
     ends .getCapabilities s (fun t => t.out == [.spdm .capabilities]) = true ∧
     ends (.negotiateAlgorithms true true true) s (fun t => t.out == [.spdm .algorithms]) = true ∧
     ends (.spdmUnsupportedRequest 0x99) s (fun t => t.out == [.spdm (.unsupported 7)]) = true ∧
     ends (.heartbeat 0) e (fun t => t.out == [.spdm .heartbeatAck]) = true ∧
     ends (.keyUpdate 0) e (fun t => t.spdm.updates == [1, 0]) = true ∧
     ends (.endSession 0) e (fun t => t.spdm.sess == [0, 0]) = true ∧
     ends (.vendorDefinedRequest 0 none) e (fun t => t.out == [.spdm (.unsupported 7)]) = true) := by decide +kernel

/-! ## Witnesses: launches and the operations of every stream -/

def bytesAt (o : Nat) (b : List Byte) : List Host.Cell := (cellsAt (slotA + o) b).filter fun c => c.2 != 0
/-- A ROW descriptor (R129). -/
def tdesc (space base fmt : Nat) (d s : List Nat) (rclus : Nat := 0) (shard : Nat := 0xFFFF) : List Byte :=
  leBytes 64 (base + space * 2 ^ 48 + rclus * 2 ^ 52 + fmt * 2 ^ 64 + d.length * 2 ^ 72 + shard * 2 ^ 112 +
    (d.zipIdx.map fun e => e.1 * 2 ^ (128 + 32 * e.2)).foldl (· + ·) 0 +
    (s.zipIdx.map fun e => e.1 * 2 ^ (288 + 32 * e.2)).foldl (· + ·) 0)
/-- An image in slot a: stream st of cluster 0 at 0x800, descriptors at 0x400. -/
def timage (st : Nat) (ds : List (List Byte)) (words : List Nat) : Mem :=
  bytesAt 16 (leBytes 4 256 ++ leBytes 4 0x400) ++ bytesAt (256 + 8 * st) (leBytes 4 0x800) ++
  bytesAt 0x400 ds.flatten ++ bytesAt 0x800 (words.flatMap fun w => leBytes 4 w)
def some1 (b : List Host.Cell) : Mem := b.filter fun c => c.2 != 0
/-- Cluster 0 stands at the first long word of stream st, with these bytes in its scratchpad and in device memory. -/
def eng (st : Nat) (ds : List (List Byte)) (words : List Nat) (spad dram : List Host.Cell := []) : State :=
  { runs with
    dram := some1 dram ++ timage st ds words
    cl := { streams := (List.replicate 5 {}).modify st fun _ => { ended := false, fetch := { q := [0] } }
            sp := some1 spad } :: List.replicate 95 {} }
def dref (a b : Nat) : Nat := a * 65536 + b
/-- A header with its code and slots, and the same with NOSCORE. -/
def hd (code : Nat) (slots : List Nat) : Nat := code * 2 ^ 26 + (slots.map fun k => 2 ^ (12 + k)).foldl (· + ·) 0
def hdN (code : Nat) (slots : List Nat) : Nat := hd code slots + 1
/-- 32-bit words in memory, and the word at a scratchpad address. -/
def words (a : Nat) (l : List Nat) : List Host.Cell := cellsAt a (l.flatMap fun w => leBytes 4 w)
def w32 (t : State) (a : Nat) : Nat := leNat ((List.range 4).map fun k => spGet 0 (t.clu 0).sp (a + k))
def l32 (t : State) (a n : Nat) : List Nat := (List.range n).map fun i => w32 t (a + 4 * i)

theorem wit_launch :
    (let s := withP { p0 with queue := [{ run0.la with args := 0x40, gated := true }], tickets := 1, pendP := some { dl := 7 } }
     s.sized = true ∧ s.courtsOk = true ∧ s.mayStart 0 = true ∧ (s.part 0).queue ≠ [] ∧ (s.part 0).breaks = [] ∧
     (let r := { s with parts := s.parts.modify 0 fun q => { q with pendR := some {} } }
      r.mayStart 0 = true ∧ r.rallyIdle 0 = true ∧ ends (.launchStart 0) r (fun t => (t.part 0).pendR.isNone) = true) ∧
     ends (.launchStart 0) s (fun t => (t.part 0).run.isSome && (t.part 0).set.dl == 7 && (t.part 0).tickets == 0 &&
       (t.str 11 4).a.take 3 == [0x40, 11, 12] && !(t.str 11 4).ended) = true ∧
     (runs.part 0).run = some run0 ∧ (runs.part 0).stat = .up ∧ runs.launchOver 0 = true ∧ run0.stop = .running ∧
     (eng 0 [] [0]).launchOver 0 = false ∧
     ends (.launchEnd 0 {}) runs (fun t => (t.part 0).run.isNone && (t.part 0).copy.isSome && (t.win 0).reply == asc "ev done" ++ [10]) = true ∧
     ends (.deadlineExpire 0) (eng 0 [] [0]) (fun t => (t.part 0).state == 4 && (t.part 0).ffCode == 5) = true) := by decide +kernel

/-- R257, R342, R368, R369, R372: what the end of a launch reports, at its done word, in the ring and on the window. -/
theorem wit_launch_report :
    (let r : Running := { run0 with la := { run0.la with done := some 0x1020, ctx := { tag := some 258 } }, suspect := 3 }
     let q : Partition := { p0 with run := some r, seq := 1, ringLog2 := 7, ringEn := true, ringCie := true }
     let s := (withP q).updHost fun h => { h with msixEn := true, masks := List.replicate 32 false }
     let waits := s.updHost fun h => { h with bme := false }
     let poi := { s with poison := [(0x40, some .host)] }
     s.sized = true ∧ s.courtsOk = true ∧ s.memOk = true ∧ (s.part 0).run = some r ∧ r.stop = .running ∧ s.launchOver 0 = true ∧
     (s.part 0).reports = [] ∧ s.snooped [(s.part 0).da 0x1020 / 64] = [] ∧ (s.part 0).haltReply = none ∧ (s.part 0).ringFull = false ∧
     poi.cause ((poi.part 0).da 0x1020 / 64) = some .host ∧
     (s.win 0).reply.length + (s.signedLine 0 (evLine r.la.ctx [asc "done"]) ++ [10]).length ≤ 4096 ∧
     ends (.launchEnd 0 {}) s (fun t => (t.part 0).prod == 1 && said t 0 "ev @258 done" && t.out.length == 2 && (t.part 0).reports.length == 0) = true ∧
     ends (.launchEnd 0 {}) waits (fun t => (t.part 0).reports.map (·.recorded) == [true] && t.out == [] &&
       (t.win 0).reply == []) = true ∧
     ends (.launchEnd 0 {}) poi (fun t => t.dram == [] && said t 0 "ev @258 done") = true ∧
     ends (.ringEntryWrite 0 {}) (withP { p0 with reports := [{ exReport with done := some 0x1020 }] }) (fun t =>
       (List.range 34).map (fun k => t.rdDa (0x101F + k)) == 0 :: exReport.bytes 0 false ++ [0]) = true) := by decide +kernel

/-- An LDX of cluster 1 of the partition; and cluster 0 with a request to grant, and with releases. -/
def ldxS : State := eng 0 [tdesc 2 0 0 [4] [] 1, tdesc 1 0x1000 0 [4] []]
  [hd 0x12 [0, 10, 12], dref 0 1, 0, 1 * 2 ^ 22 + 1 * 2 ^ 12]
def asked : State := runs.updClu 0 fun k => { k with reqs := [⟨1, 0, ⟨0, 0, 0⟩⟩], regions := [(0, ⟨.full, 0⟩)] }
theorem wit_remote :
    ((ldxS.head 0 0).map (·.remote)) = some (some (1, ⟨0, 0, 0⟩)) ∧ (ldxS.head 0 0).any (fun h => localReady ldxS h 0 0 && !h.lw.noscore) = true ∧
    (ldxS.str 0 0).asked = false ∧ (ldxS.clu 1).reqs.length < 64 ∧
    ends (.remoteRequest 0 0) ldxS (fun t => (t.clu 1).reqs == [⟨0, 0, ⟨0, 0, 0⟩⟩] && (t.str 0 0).asked) = true ∧
    (asked.clu 0).reqs ≠ [] ∧ (asked.clu 0).admits (RemoteReq.uses ⟨1, 0, ⟨0, 0, 0⟩⟩) = true ∧ asked.ownerG 0 = some 0 ∧
    ldxS.holdsGrant 0 0 0 = false ∧
    (let s := ldxS.updStr 0 0 fun t => { t with grant := some (1, ⟨0, 0, 0⟩) }
     (s.head 0 0).isSome && s.holdsGrant 0 0 0 && ends (.remoteRequest 0 0) s (fun t => t == s)) = true ∧
    (let s := asked.updClu 0 fun k => { k with reqs := ⟨2, 0, ⟨1, 1, 0⟩⟩ :: k.reqs }
     !(s.clu 0).admits (RemoteReq.uses ⟨2, 0, ⟨1, 1, 0⟩⟩) && ends (.remoteGrant 0) s fun t => (t.clu 0).reqs == [⟨2, 0, ⟨1, 1, 0⟩⟩] &&
       (t.str 1 0).grant.isSome && ends (.remoteGrant 0) t fun u => u == t) = true ∧
    ends (.remoteGrant 0) asked (fun t => (t.str 1 0).grant == some (0, ⟨0, 0, 0⟩) && (t.clu 0).regions == [(0, ⟨.full, 1⟩)]) = true ∧
    (let s (w : Nat) (r : Region) := runs.updClu 0 fun k => { k with rels := [⟨1, w, ⟨0, 0, 0⟩⟩], regions := [(0, r)] }
     ends (.remoteRelease 0) (s 0 ⟨.full, 1⟩) (fun t => (t.clu 0).rels == [] && (t.clu 0).regions == [(0, ⟨.full, 0⟩)]) &&
     ends (.remoteRelease 0) (s 4 ⟨.filling, 0⟩) (fun t => (t.clu 0).regions == [(0, ⟨.full, 0⟩)])) = true := by decide +kernel

theorem wit_common_operations :
    ([(Op.nop, hd 0 []), (.sync, hd 1 [13]), (.loop, hd 2 [0, 1]), (.br, hd 3 [0]), (.aop, hd 4 [0, 1]), (.eop, hd 5 [0]),
      (.top, hd 6 [0]), (.qcmp, hd 7 [0, 1]), (.brk, hd 0x3E []), (.fin, hd 0x3F [])].all fun o =>
      ((eng 4 [] [o.2]).issuing 0 4 o.1).isSome) = true ∧ (eng 4 [] [hd 0 []]).sized = true ∧
    ends (.nop 0 4) (eng 4 [] [hd 0 []]) (fun t => (t.str 0 4).issued == 1 && (t.str 0 4).pc == 4 && (t.str 0 4).flight.length == 1) = true := by
  decide +kernel

/-- AOP: A3 := -1, sign-extended; A15 := A0 + imm. -/
theorem wit_aop : (eng 0 [] [hd 4 [0, 1], 3 * 2 ^ 24, 0xFFFFFFFF]).sized = true ∧
    ((eng 0 [] [hd 4 [0, 1], 3 * 2 ^ 24, 0xFFFFFFFF]).str 0 0).a.length = 16 ∧
    ends (.aop 0 0) (eng 0 [] [hd 4 [0, 1], 3 * 2 ^ 24, 0xFFFFFFFF]) (fun t => tget 0 (t.str 0 0).a 3 == 0xFFFFFFFFFFFF) = true ∧
    ends (.aop 0 0) (eng 0 [] [hd 4 [0, 1], 2 ^ 28 + 15 * 2 ^ 24, 64]) (fun t => tget 0 (t.str 0 0).a 15 == 64) = true := by decide +kernel

def inLoop (lc : BitVec 32) (stop : Nat) : State :=
  (eng 0 [] [hd 0 []]).updStr 0 0 fun t => { t with l := [lc, 0, 0, 0], loops := [⟨0, 0, stop⟩] }
theorem wit_loops :
    (let s (n : Nat) := eng 0 [] [hd 2 [0, 1], n, 5]
     ((s 2).str 0 0).l.length = 4 ∧ ((s 2).issuing 0 0 .loop).isSome = true ∧ ((s 0).issuing 0 0 .loop).isSome = true ∧
     ((s 0).str 0 0).loops = [] ∧
     ends (.loop 0 0) (s 2) (fun t => (t.str 0 0).pc == 12 && (t.str 0 0).loops == [⟨0, 12, 32⟩] && tget 0 (t.str 0 0).l 0 == 2) = true ∧
     ends (.loop 0 0) (s 0) (fun t => (t.str 0 0).pc == 32 && (t.str 0 0).loops == []) = true ∧
     ((inLoop 2 4).issuing 0 0 .nop).isSome = true ∧ ((inLoop 2 4).str 0 0).loops = [⟨0, 0, 4⟩] ∧
     ends (.nop 0 0) (inLoop 2 4) (fun t => (t.str 0 0).pc == 0 && tget 0 (t.str 0 0).l 0 == 1) = true ∧
     ends (.nop 0 0) (inLoop 1 4) (fun t => (t.str 0 0).pc == 4 && (t.str 0 0).loops == []) = true ∧
     ends (.nop 0 0) (inLoop 1 8) (fun t => (t.str 0 0).pc == 4 && (t.str 0 0).loops.length == 1) = true) := by decide +kernel

/-- QCMP sets comparator 7 to A1 ≥ 5; BR back by one word when it holds, or always. -/
def brS (v : BitVec 48) (slot : Nat) : State :=
  ((eng 0 [] [0, hd 3 [0], slot]).updClu 0 fun k => { k with q := k.q.set 7 (some { rel := 3, cls := 0, reg := 1, str := 0, thr := 5 }) }).updStr 0 0
    fun t => { t with a := t.a.set 1 v, pc := 4, fetch := { q := [4] } }
theorem wit_branches :
    (let q := eng 0 [] [hd 7 [0, 1], 7 * 2 ^ 29 + 3 * 2 ^ 27 + 1 * 2 ^ 20, 5]
     (q.issuing 0 0 .qcmp).isSome = true ∧
     ends (.qcmp 0 0) q (fun t => tget none (t.clu 0).q 7 == some { rel := 3, cls := 0, reg := 1, str := 0, thr := 5 }) = true ∧
     ((brS 5 (7 * 2 ^ 27 + 0xFFFFFF)).issuing 0 0 .br).isSome = true ∧ ((brS 5 0).str 0 0).loops = [] ∧
     tget none ((brS 5 0).clu 0).q 0 = none ∧
     ends (.br 0 0) (brS 5 (7 * 2 ^ 27 + 0xFFFFFF)) (fun t => (t.str 0 0).pc == 0) = true ∧
     ends (.br 0 0) (brS 4 (7 * 2 ^ 27 + 0xFFFFFF)) (fun t => (t.str 0 0).pc == 12) = true ∧
     ends (.br 0 0) (brS 4 (2 ^ 30 + 7 * 2 ^ 27 + 0xFFFFFF)) (fun t => (t.str 0 0).pc == 0) = true ∧
     (let c (cls r : Nat) (f : Cluster → Cluster) := ((brS 0 (7 * 2 ^ 27 + 0xFFFFFF)).updClu 0 f).updClu 0 fun k =>
        { k with q := k.q.set 7 (some { rel := 2, cls := cls, reg := r, str := 0, thr := 5 }) }
      let at_ (s : State) : Bool := ends (.br 0 0) s fun t => (t.str 0 0).pc == 0
      let not_ (s : State) : Bool := ends (.br 0 0) s fun t => (t.str 0 0).pc == 12
      let l (v : BitVec 32) (k : Cluster) : Cluster := { k with streams := k.streams.modify 0 fun t => { t with l := [0, 0, 0, v] } }
      let e (v : BitVec 32) (k : Cluster) : Cluster := { k with e := k.e.set 7 { v := v } }
      let w (v : BitVec 32) (k : Cluster) : Cluster := { k with w := k.w.set 3 { v := v } }
      at_ (c 1 3 (l 4)) && not_ (c 1 3 (l 5)) && at_ (c 2 7 (e 4)) && not_ (c 2 7 (e 5)) && at_ (c 3 3 (w 4)) &&
        not_ (c 3 3 (w 5))) = true ∧
     ends (.br 0 0) (brS 0 (2 ^ 31 + 0xFFFFFF)) (fun t => (t.str 0 0).pc == 0) = true ∧
     ends (.br 0 0) (brS 0 (2 ^ 30 + 0xFFFFFF)) (fun t => (t.str 0 0).pc == 0) = true) := by decide +kernel

theorem wit_counters :
    (let e (slot : Nat) := eng 0 [] [hd 5 [0, 1], slot, 0xFFFFFFFF]
     let t1 (slot : Nat) := eng 0 [] [hd 6 [0], slot]
     ((e 0).issuing 0 0 .eop).isSome = true ∧ ((t1 0).issuing 0 0 .top).isSome = true ∧
     (tget {} ((e 0).clu 0).e 7).mode = .off ∧ (tget {} ((t1 0).clu 0).w 3).run = false ∧
     ends (.eop 0 0) (e (7 * 2 ^ 25 + 1 * 2 ^ 21 + 2 * 2 ^ 15)) (fun t => (tget {} (t.clu 0).e 7).mode == .issue 2) = true ∧
     ends (.eop 0 0) (e (2 ^ 28 + 7 * 2 ^ 25)) (fun t => (tget {} (t.clu 0).e 7).v == 0) = true ∧
     ends (.eop 0 0) (e (2 ^ 29 + 7 * 2 ^ 25)) (fun t => (tget {} (t.clu 0).e 7).v == 0xFFFFFFFF) = true ∧
     ends (.top 0 0) (t1 (3 * 2 ^ 26)) (fun t => (tget {} (t.clu 0).w 3).run) = true ∧
     ends (.top 0 0) (t1 (2 ^ 28)) (fun t => !(tget {} (t.clu 0).w 0).run) = true ∧
     ends (.top 0 0) (t1 (2 ^ 29)) (fun t => (tget {} (t.clu 0).w 0).v == 0) = true) := by decide +kernel

/-- SYNC signals T5 of its own cluster; END; BRK in a debug image, and in a locked partition. -/
theorem wit_sync_end_brk :
    (let y := eng 0 [] [hd 1 [13], 0x0117FC00]
     let b := eng 0 [] [hd 0x3E []]
     let n := b.updPart 0 fun q => { q with session := some z0 }
     (y.head 0 0).any (fun h => y.plain h 0 0 && h.lw.sigTok == some (5, 255)) = true ∧ (y.issuing 0 0 .sync).isSome = true ∧
     ends (.sync 0 0) y (fun t => (t.part 0).signals == [(0, 5)]) = true ∧
     ends (.fin 0 0) (eng 0 [] [hd 0x3F []]) (fun t => (t.str 0 0).ended && (t.issuing 0 0 .fin).isNone) = true ∧
     (b.head 0 0).any (fun h => b.plain h 0 0 && b.dbgOk (b.part 0) h.run.debug) = true ∧
     (n.head 0 0).any (fun h => n.plain h 0 0 && !n.dbgOk (n.part 0) h.run.debug) = true ∧
     ends (.brk 0 0) b (fun t => (t.part 0).run.map (·.stop) == some (.stopping [(0, 0)] true)) = true ∧
     ends (.brk 0 0) n (fun t => (t.part 0).run == (n.part 0).run) = true) := by decide +kernel

def flying (f : Flight) (tok : BitVec 8) : State :=
  ((eng 4 [] [0]).updStr 0 4 fun t => { t with flight := [f] }).updClu 0 fun k => { k with
    tokens := k.tokens.set 63 tok, regions := [(0, ⟨.full, 1⟩)] }
def aFlight (w : Waits) : Flight :=
  { op := .cpy, off := 0, lw := LW.parse (fun b => tget 0 [hd 0x12 [10, 13], 0, 0x0117FC00] (b / 4)) 0, remote := none, waits := w }
def inTransit (tok : BitVec 8) : State :=
  (flying (aFlight .nothing) tok).updPart 0 fun q => { q with signals := [(0, 63), (0, 63), (1, 63)] }
theorem wit_completions :
    (let s := flying (aFlight .nothing) 0
     let r := flying { aFlight .nothing with remote := some (1, ⟨0, 0, 0⟩) } 0
     let d := flying { aFlight (.line 64) with op := .done } 0
     s.sized = true ∧ s.courtsOk = true ∧ s.ownerG 0 = some 0 ∧ (s.str 0 4).flight = [aFlight .nothing] ∧
     ((flying (aFlight .earlier) 0).str 0 4).flight = [aFlight .earlier] ∧ (r.part 0).glob 1 ≠ 0 ∧ (r.part 0).glob 1 < 96 ∧
     d.snooped [(d.part 0).da 64 / 64] = [] ∧ d.poison = [] ∧ d.memOk = true ∧
     ends (.longWordComplete 0 4) s (fun t => (t.str 0 4).flight == [] && (t.clu 0).regions == [(0, ⟨.full, 0⟩)] &&
       (t.part 0).signals == [(0, 5)]) = true ∧
     ends (.longWordComplete 0 4) r (fun t => (t.clu 1).rels == [⟨0, 4, ⟨0, 0, 0⟩⟩]) = true ∧
     ends (.longWordComplete 0 4) d (fun t => (t.str 0 4).flight == []) = true ∧
     (inTransit 253).sized = true ∧ ((inTransit 253).part 0).signals.count (0, 63) = 2 ∧ ((inTransit 254).part 0).state = 3 ∧
     ends (.signalArrive 0 63 2) (inTransit 253) (fun t => tget 0 (t.clu 0).tokens 63 == 255 && (t.part 0).signals == [(1, 63)]) = true ∧
     ends (.signalArrive 0 63 2) (inTransit 254) (fun t => (t.part 0).ffCode == 6 && tget 0 (t.clu 0).tokens 63 == 254) = true) := by
  decide +kernel

/-- Line 32 of slot a holds the next long word of the stream, and is in no cache; line 33 is in the cache. -/
theorem wit_icache :
    (let s := (eng 0 [] [0]).updClu 0 fun k =>
       { k with streams := (List.replicate 5 {}).modify 0 fun _ => { ended := false, fetch := { off := false } }, icache := [(false, 33)] }
     s.sized = true ∧ s.ownerG 0 = some 0 ∧ s.fetchWant 0 0 = some (false, 32) ∧ s.snooped [(s.part 0).slotLine false 32] = [] ∧
     s.snooped [(s.part 0).slotLine false 33] = [] ∧ (s.part 0).stat = .up ∧ s.dev.dfault = none ∧ (false, 33) ∈ (s.clu 0).icache ∧
     s.cause ((s.part 0).slotLine false 32) = none ∧ s.cause ((s.part 0).slotLine false 33) = none ∧ (s.part 0).state = 3 ∧ s.courtsOk = true ∧
     ((List.range 5).all fun st => s.fetchWant 0 st != some (false, 34)) = true ∧
     ends (.icacheFill 0 false 32 {}) s (fun t => (t.clu 0).icache.contains (false, 32) && (t.str 0 0).fetch.q.length == 32) = true ∧
     ends (.icacheFill 0 false 34 {}) s (fun t => t == s) = true ∧
     ends (.icacheParityRefetch 0 false 33 false {}) s (fun t => (t.clu 0).refetch == 1 && (t.part 0).state == 3) = true ∧
     ends (.icacheParityRefetch 0 false 33 true {}) s (fun t => (t.part 0).ffCode == 7 && (t.clu 0).refetch == 0) = true) := by decide +kernel

/-! ## Witnesses: engine operations -/

def f32s : List Nat := [0x3F800000, 0x40000000, 0x40400000, 0x40800000]
/-- A long word issues and passes every check, and leaves these words of its scratchpad. -/
def good (s : State) (g st : Nat) (op : Op) (c : Instr) (a : Nat) (ws : List Nat) : Bool :=
  (s.passes g st op {}).isSome && ends c s fun t => (t.str 0 st).issued == 1 && l32 t a ws.length == ws
/-- A long word issues and passes every check. -/
def okay (s : State) (g st : Nat) (op : Op) : Bool := (s.passes g st op {}).isSome
def onV (r n : Nat) (b : List Byte) : State → State := fun s => s.updClu 0 fun k =>
  { k with vr := some1 (cellsAt (1024 * r) b), sp := some1 (cellsAt n (leBytes 2 0x3F80)) }

/-- FP32 of device memory to the scratchpad, transposed; from another scratchpad; from the own, converted to BF16. -/
theorem wit_loads :
    good (eng 0 [tdesc 0 0x1000 0 [2, 2] [1], tdesc 1 0 0 [2, 2] [1]] [hdN 0x10 [0, 1], dref 0 1, 2 ^ 31] []
      (words 0x1000 [1, 2] ++ words 0x1040 [3, 4])) 0 0 .ldt (.ldt 0 {}) 0 [1, 3] = true ∧
    good ((eng 0 [tdesc 2 0x2000 0 [4] [] 1, tdesc 1 0 0 [4] []] [hdN 0x12 [0], dref 0 1]).updClu 1 fun k =>
      { k with sp := some1 (words 0x2000 f32s) }) 0 0 .ldx (.ldx 0 {}) 0 f32s = true ∧
    good (eng 0 [tdesc 1 0x2000 0 [4] [], tdesc 1 0 1 [4] []] [hdN 0x11 [0], dref 0 1] (words 0x2000 f32s)) 0 0 .lds (.lds 0 {}) 0
      [0x40003F80, 0x40804040] = true := by decide +kernel

def gathS (i : List Nat) : State :=
  eng 0 [tdesc 0 0x1000 0 [2, 3] [1], tdesc 1 0 0 [2, 2] [1], tdesc 1 0x3000 8 [2] []] [hdN 0x13 [0, 2], dref 0 1, dref 2 0]
    (words 0x3000 i) (words 0x1000 [1, 2] ++ words 0x1040 [3, 4] ++ words 0x1080 [5, 6])
/-- Rows 2 and 0; row 2 and then index 3, which faults with its index word as ADDR. -/
theorem wit_gath : okay (gathS [2, 0]) 0 0 .gath = true ∧ ((gathS [2, 3]).passes 0 0 .gath {}).isSome = true ∧
    (gathS [2, 3]).memOk = true ∧ (gathS [2, 3]).courtsOk = true ∧ (gathS [2, 3]).sized = true ∧
    ends (.gath 0 {}) (gathS [2, 3]) (fun t => (t.part 0).state == 4 && (t.part 0).ffCode == 4 && tget 0 (t.part 0).ffrec 2 == 3 &&
      l32 t 0 2 == [5, 6]) = true := by decide +kernel

def rows3 : List Host.Cell := words 0x1000 [1, 2] ++ words 0x1040 [3, 4] ++ words 0x1080 [5, 6] ++ words 0x3000 [2, 0]
theorem wit_gatp_scat :
    okay (eng 3 [tdesc 1 0x1000 0 [2, 3] [1], tdesc 1 0 0 [2, 2] [1], tdesc 1 0x3000 8 [2] []] [hdN 0x15 [0, 2], dref 0 1, dref 2 0] rows3)
      0 3 .gatp = true ∧
    good (eng 3 [tdesc 1 0x1000 0 [2, 2] [1], tdesc 1 0 0 [2, 3] [1], tdesc 1 0x3000 8 [2] []] [hdN 0x14 [0, 2], dref 0 1, dref 2 0] rows3)
      0 3 .scat (.scat 0 {}) 128 [1, 2] = true := by decide +kernel

def sq (code : Nat) (slots ws : List Nat) (dd : List Nat) : State :=
  eng 3 [tdesc 1 0x1000 0 [2, 2] [1], tdesc 1 0 0 dd [1]] ([hdN code slots, dref 0 1] ++ ws) rows3
theorem wit_moves :
    okay (sq 0x10 [0] [] [2, 2]) 0 3 .trn = true ∧
    good (sq 0x11 [0, 1] [2 ^ 12] [2, 2]) 0 3 .perm (.perm 0 {}) 64 [2, 4] = true ∧
    okay (sq 0x12 [0] [] [2, 2]) 0 3 .cpy = true ∧
    okay (eng 3 [tdesc 1 0x1000 0 [1, 2] [1], tdesc 1 0 0 [4, 2] [1]] [hdN 0x13 [0], dref 0 1] rows3) 0 3 .bcst = true ∧
    (eng 3 [tdesc 1 0x1000 0x34 [2, 2] [4], tdesc 1 0 0x34 [2, 2] [4]] [hdN 0x10 [0], dref 0 1] []).passes 0 3 .trn {} ≠ none := by
  decide +kernel

/-- The block of 04_formats.md in SCALED_IL, packed and unpacked. -/
theorem wit_pack_unpk :
    good (eng 3 [tdesc 1 0x1000 1 [32] [], tdesc 1 0 0x34 [32] []] [hdN 0x16 [0], dref 0 1]
      (cellsAt 0x1000 ([0x3FC0, 0xC010, 0x3EC0, 0x4090, 0, 0xBF40, 0x3F90, 0x4040].flatMap fun v => leBytes 2 v))) 0 3 .pack (.pack 0 {})
      0 [0x9E, 0, 0, 0, 0x63A071D4] = true ∧
    good (eng 3 [tdesc 1 0x1000 0x34 [32] [], tdesc 1 0 1 [32] []] [hdN 0x17 [0], dref 0 1]
      (words 0x1000 [0x9E] ++ words 0x1010 [0x63A071D4])) 0 3 .unpk (.unpk 0 {}) 0 [0xC0103FC0, 0x40903EC0, 0xBF400000, 0x40403F90] = true := by
  decide +kernel

def red (code : Nat) (slots ws : List Nat) : State :=
  eng 2 [tdesc 1 0x1000 0 [4] [], tdesc 1 0 0 [1] [], tdesc 1 64 8 [1] []] ([hdN code slots, dref 0 1] ++ ws) (words 0x1000 f32s)
theorem wit_reductions : good (red 0x10 [0] []) 0 2 .rsum (.rsum 0 {}) 0 [0x41200000] = true ∧
    okay (red 0x11 [0] []) 0 2 .rmax = true ∧
    okay (red 0x12 [0] []) 0 2 .rmin = true ∧
    okay (red 0x13 [0] []) 0 2 .rssq = true ∧
    okay (red 0x14 [0, 2] [dref 0 0]) 0 2 .rdot = true ∧
    good (red 0x15 [0, 2] [2]) 0 2 .argmx (.argmx 0 {}) 64 [3] = true ∧
    okay (red 0x16 [0, 2] [2]) 0 2 .argmn = true := by decide +kernel

def ints (st code : Nat) (slots ws : List Nat) (n : Nat) : State :=
  eng st [tdesc 1 0x1000 8 [4] [], tdesc 1 0 8 [n] [], tdesc 1 64 8 [n] []] ([hdN code slots, dref 0 1] ++ ws)
    (words 0x1000 [7, 0xFFFFFFFF, 9, 7])
theorem wit_orders :
    good (ints 2 0x17 [0, 1, 2] [2 * 2 ^ 9, 2] 2) 0 2 .topk (.topk 0 {}) 64 [2, 0] = true ∧
    good (ints 3 0x18 [0, 2] [2] 4) 0 3 .sort (.sort 0 {}) 64 [1, 0, 3, 2] = true ∧
    good (ints 2 0x18 [0] [] 4) 0 2 .scan (.scan 0 {}) 0 [7, 6, 15, 22] = true ∧
    good (eng 2 [tdesc 1 0x1000 0 [4] [], tdesc 1 0 0 [4] []] [hdN 0x18 [0], dref 0 1] (words 0x1000 f32s)) 0 2 .scan (.scan 0 {}) 0
      [0x3F800000, 0x40400000, 0x40C00000, 0x41200000] = true ∧ Fmt.isInt .fp32 = false ∧
    (Desc.parse (tdesc 1 0x1000 0 [4] [])).exts = (Desc.parse (tdesc 1 0 0 [4] [])).exts ∧
    (Desc.parse (tdesc 1 0x1000 8 [4] [])).exts = [4, 1, 1, 1, 1] ∧ Fmt.isInt .int32 = true := by decide +kernel

/-- An XRED of clusters 0 and 1 takes part; both have, and its result is the sum at each. -/
def part1 (els : List Nat) : XPart :=
  { xtag := 255, k := 1, first := 0, last := 1, fn := 0, axis := 0, fmt := 8, dst := Desc.parse (tdesc 1 0 8 [4] []), ebase := 0,
    nrtz := false, nco := 0, tally := 0, exts := [4, 1, 1, 1, 1], els := els, flu := List.replicate 4 false, rs := [], counted := false }
def xres : State :=
  ((eng 2 [] [0]).updClu 0 fun k => { k with xreds := [part1 [1, 2, 3, 4]] }).updClu 1 fun k => { k with xreds := [part1 [5, 6, 7, 8]] }
theorem wit_xred :
    (let s := ints 2 0x19 [0, 3] [1 * 2 ^ 16 + 255] 4
     let m := s.updClu 1 fun k => { k with xreds := [{ part1 [5, 6, 7, 8] with dst := Desc.parse (tdesc 1 0 8 [4] []) }] }
     let far := s.updClu 5 fun k => { k with xreds := [{ part1 [] with first := 4, last := 5, fn := 1 }] }
     s.sized = true ∧ s.memOk = true ∧ s.courtsOk = true ∧
     ([s, m, far].all fun s => (s.passes 0 2 .xred {}).any fun r => match r.2.1 with
       | [a, b] => a.d.exts == b.d.exts && a.d.format == some .int32 && b.d.format == some .int32
       | _ => false) = true ∧
     s.xwith 0 255 1 = [] ∧
     ((m.xwith 0 255 1).map fun x => (x.1, x.2.first, x.2.last, x.2.fn)) = [(1, 0, 1, 0)] ∧
     ((m.xwith 0 255 1).map fun x => (x.2.axis, x.2.fmt, x.2.dst.fmt, x.2.nrtz)) = [(0, 8, 8, false)] ∧
     ((far.xwith 0 255 1).map (·.1)) = [5] ∧
     ([s, m, far].all fun s => ends (.xred 0 {}) s fun t => ((t.clu 0).xreds.map fun x => (x.xtag, x.k, x.first, x.last, x.els)) ==
       [(255, 1, 0, 1, [7, 0xFFFFFFFF, 9, 7])] && (t.str 0 2).flight.any fun f => f.waits == .xred 255 1) = true ∧
     xres.sized = true ∧ xres.memOk = true ∧ xres.courtsOk = true ∧
     (xres.part 0).run = some run0 ∧ xres.xparts 0 0 255 1 = [(0, part1 [1, 2, 3, 4]), (1, part1 [5, 6, 7, 8])] ∧
     ((xres.xparts 0 0 255 1).all fun n => decide (n.2.last + 1 - n.2.first ≤ (xres.xparts 0 0 255 1).length) && n.2.dst.space == 1 &&
       n.2.fmt == 8 && n.2.dst.format == some .int32) = true ∧ ((xres.xparts 0 0 255 1).map (·.1)).Nodup ∧
     xres.xredHit 0 (xres.xparts 0 0 255 1) {} = none ∧
     (xres.xredHit 0 (xres.xparts 0 0 255 1) { spUe := [(1, 0)] }).map (fun m => (m.1.1, m.2)) = some (1, 0) ∧
     ends (.xredResult 0 255 1 { spUe := [(1, 0)] } 0) xres (fun t => (t.part 0).ffCode == 2 && l32 t 0 4 == [0, 0, 0, 0]) = true ∧
     ends (.xredResult 0 255 1 {} 0) xres (fun t => (t.xparts 0 0 255 1).length == 0 && l32 t 0 4 == [6, 8, 10, 12] &&
       (t.xwith 0 255 1).map (·.1) == [0, 1]) = true ∧
     ends (.xredResult 0 255 1 { spCe := [1] } 0) xres (fun t => (t.clu 0).spce == 0 && (t.clu 1).spce == 1) = true ∧
     (xres.xparts 0 0 255 1).head?.map (·.1) = some 0 ∧
     ends (.xredResult 0 255 1 { parity := true, spCe := [1, 1] } 0) xres (fun t => (t.clu 1).spce == 2 && (t.part 0).ffrec ==
       ffrecOf { code := 2, cluster := 0, stream := 2, unit := 3, offset := 0, addr := 0, space := 2, court := 0, detail := 0xFF }
         false (some run0)) = true ∧
     ends (.xredResult 0 255 1 { spUe := [(1, 0)], spCe := [0] } 0) xres (fun t => (t.clu 0).spce == 1 && (t.part 0).state == 4) = true) := by
  decide +kernel

def ent : ShardEntry := { rank := 2, g := [8, 2], p := [1, 2], c := [0, 0], dev := [0, 1] }
def rallied (s : State) (members : List Nat) (routes : List (Nat × Option Nat)) : State :=
  { s with dev := { s.dev with rack := some 0 } }.updPart 0 fun q => { q with
    set := { shards := [(0, some ent)] }, rally := { routes := routes, group := some { id := 7, members := members, rto := 200 } } }
def slot0 : RSlot :=
  { rid := 0x40, epoch := 0, line := 0, fmt := 0, fn := 0, kind := 0, axc := false, nrtz := false, susp := false, children := [] }
def rlyS (members : List Nat) : State :=
  rallied (eng 2 [tdesc 1 0x1000 0 [8, 1] [1] 0 0, tdesc 1 0 0 [8, 1] [1]] [hdN 0x1A [0, 1, 4], dref 0 1, 2 ^ 29, 0x40 * 2 ^ 16]
    (words 0x1000 f32s)) members [(1, some 0)]
/-- Rows 0 to 7 of column 0 of 8 by 2, whose results cover a whole scratchpad word: the own line takes a slot, its copy leaves
for device 1, the registration stays. -/
theorem wit_rly :
    (let s := rlyS [0, 1]
     let full := s.updPort 0 fun q => { q with slots := List.replicate 256 { slot0 with rid := 0x41 } }
     let peer := s.updPort 0 fun q => { q with slots := [{ slot0 with children := [(1, 1, zeros 64)] }] }
     ([s, full, peer].all fun s => (s.passes 0 2 .rly {}).any fun r => r.2.1.length == 2 && r.1.p == 0 &&
       (r.2.1.all fun a => a.d.format == some .fp32 && a.d.exts == [8, 1, 1, 1, 1] && (plainArg a.d a.eb).merged.isEmpty)) = true ∧
     ((rlyS [2]).passes 0 2 .rly {}).isSome = true ∧ s.memOk = true ∧ s.sized = true ∧ s.courtsOk = true ∧
     spGet none (s.part 0).set.shards 0 = some ent ∧ s.dev.rack = some 0 ∧ ent.ok (some 0) = true ∧ ent.dev = [0, 1] ∧
     ent.total = 2 ∧ ent.index = 0 ∧ (s.part 0).rlys = [] ∧ (s.ports.all fun x => x.slots.isEmpty && x.waitRx.isEmpty) = true ∧
     spWf 0 (s.part 0).epochs = true ∧ rlyLines [8, 1, 1, 1, 1] 4 = 1 ∧
     ends (.rly 0 {}) s (fun t => ((t.part 0).rlys.map fun r => (r.rid, r.epoch, r.need)) == [(0x40, 0, [0])] &&
       ((t.port 0).slots.map fun c => (c.line, c.children.map (·.1))) == [(0, [0])] &&
       ((t.port 0).egress.map fun f => (f.1.cls, f.1.dst)) == [(3, 1)]) = true ∧
     ends (.rly 0 {}) full (fun t => ((t.part 0).rlys.map fun r => (r.need, r.own.length)) == [([0], 1)] && (t.part 0).stat == .up &&
       (t.port 0).slots.length == 256) = true ∧
     ends (.rly 0 {}) peer (fun t => ((t.part 0).rlys.map fun r => (r.need, r.own.length)) == [([], 0)] && (t.part 0).stat == .up &&
       (t.port 0).slots == [] && l32 t 0 4 == f32s) = true ∧
     ends (.rly 0 {}) (rlyS [2]) (fun t => (t.part 0).ffCode == 0x0A) = true) := by decide +kernel

theorem wit_stores :
    (let stt := eng 4 [tdesc 1 0 0 [4] [], tdesc 0 0x1000 0 [4] []] [hdN 0x10 [0], dref 0 1] (words 0 f32s)
     let stx := eng 4 [tdesc 1 0 0 [4] [], tdesc 2 0x2000 0 [4] [] 1] [hdN 0x11 [0], dref 0 1] (words 0 f32s)
     good stt 0 4 .stt (.stt 0 {}) 0 f32s = true ∧ good stx 0 4 .stx (.stx 0 {}) 0 f32s = true ∧
     ends (.stt 0 {}) stt (fun t => (List.range 16).map (fun k => t.rdDa (0x1000 + k)) == f32s.flatMap (leBytes 4 ·)) = true ∧
     ends (.stx 0 {}) stx (fun t => spGet 0 (t.clu 1).sp 0x200F == 0x40) = true) := by decide +kernel

def putS (dev : Nat) (members : List Nat) : State :=
  rallied (eng 4 [tdesc 1 0 0 [4] [], tdesc 0 0x1000 0 [4] []] [hdN 0x12 [0, 2], dref 0 1, dev * 2 ^ 26] (words 0 f32s)) members [(1, some 0)]
theorem wit_put : ((putS 1 [0, 1]).passes 0 4 .put {}).isSome = true ∧ ((putS 0 [0, 1]).passes 0 4 .put {}).isSome = true ∧
    (putS 1 [0, 1]).dev.rack = some 0 ∧ (putS 1 [0, 1]).routeOf 0 1 = some 0 ∧ ((putS 1 [0, 1]).tidsTo 0 1).length < 256 ∧
    spWf 0 ((putS 1 [0, 1]).part 0).putSent = true ∧ ((putS 1 [0, 1]).port 0).st ≠ .up ∧
    ends (.put 0 {}) (putS 1 [0, 1]) (fun t => ((t.port 0).egress.map fun f => (f.1.cls, f.1.dst)) == [(0, 1), (1, 1)] &&
      spGet 0 (t.part 0).putSent 1 == 1) = true ∧
    ends (.put 0 {}) (putS 0 [0, 1]) (fun t => (t.part 0).ffCode == 4) = true ∧
    ends (.put 0 {}) (putS 2 [0, 1]) (fun t => (t.part 0).ffCode == 4) = true := by decide +kernel

def doneS (pa : BitVec 48) : State := (eng 4 [] [hd 0x13 [0, 1], 2 ^ 28, 0]).updStr 0 4 fun t => { t with a := t.a.set 1 pa }
theorem wit_done_fence : ((doneS 64).issuing 0 4 .done).isSome = true ∧ ((eng 4 [] [hd 0x14 []]).issuing 0 4 .fence).isSome = true ∧
    ends (.done 0 {}) (doneS 64) (fun t => (t.str 0 4).flight.map (·.waits) == [.line 64]) = true ∧
    ends (.done 0 {}) (doneS 32) (fun t => (t.part 0).ffCode == 3) = true ∧
    ends (.done 0 {}) (doneS 0xBC000000) (fun t => (t.part 0).ffCode == 4) = true ∧
    ends (.fence 0 {}) (eng 4 [] [hd 0x14 []]) (fun t => (t.str 0 4).flight.map (·.waits) == [.earlier]) = true := by decide +kernel

/-- CONST; VMOV copies 16 lines in, out, and broadcasts; CHAIN adds V0 to itself in four lanes. -/
def reg (t : State) (r i : Nat) : Nat := readLane (t.clu 0).vr false r i
theorem wit_const_vmov :
    (let c := eng 1 [] [hdN 0x11 [0, 1], 31 * 2 ^ 27 + 2 ^ 23, 0x3FB9]
     let v (mode : Nat) (slot : Nat) := onV 1 4096 (leBytes 2 0x4000) (eng 1 [] [hdN 0x12 [0, slot], mode * 2 ^ 30 + 2 ^ 25 + 2 ^ 21, 2 ^ 22 + 2 ^ 12])
     (c.passesRegions 0 .const {} (fun _ => []) (fun _ => [])).isSome = true ∧
     ((v 0 10).passesRegions 0 .vmov {} vmovSrcs vmovDsts).isSome = true ∧
     ((v 1 12).passesRegions 0 .vmov {} vmovSrcs vmovDsts).isSome = true ∧
     ((v 2 10).passesRegions 0 .vmov {} vmovSrcs vmovDsts).isSome = true ∧ Fmt.ofCode ((exAt 0).f 0 24 21) = some .bf16 ∧
     ends (.const 0 {}) c (fun t => (t.str 0 1).issued == 1) = true ∧
     ends (.vmov 0 {}) (v 0 10) (fun t => reg t 1 0 == 0x3F80 && reg t 1 1 == 0) = true ∧
     ends (.vmov 0 {}) (v 1 12) (fun t => w32 t 4096 == 0x4000) = true ∧
     ends (.vmov 0 {}) (v 2 10) (fun t => (t.str 0 1).issued == 1) = true) := by decide +kernel

theorem wit_chain :
    (let s := onV 0 0 ([0x3F80, 0x4000, 0x4040, 0x4080].flatMap (leBytes 2 ·)) (eng 1 [] [hdN 0x10 [0, 2], 4, 2 ^ 26 + 2 ^ 22 + 2 * 2 ^ 17])
     (s.passesRegions 0 .chain {} chainSrcs chainDsts).isSome = true ∧
     (s.head 0 1).any (fun h => (h.lw.uops.map fun q => (q.u, q.fmt, q.dst, q.a, q.b, q.c)) == [(1, 1, 2, 0, 0, 0)] && h.lw.f 0 19 0 == 4 &&
       chainWidth h.lw == 512 && h.run.actx.eff.round != .rsto) = true ∧
     ends (.chain 0 {}) s (fun t => (List.range 5).map (reg t 2) == [0x4000, 0x4080, 0x40C0, 0x4100, 0]) = true) := by decide +kernel

/-- An offset of 32 faults with ALIGNMENT; a poisoned descriptor line and a poisoned line with their code; nothing moves. -/
theorem wit_engine_faults :
    (let plain := eng 0 [tdesc 0 0x1000 0 [4] [], tdesc 1 0 0 [4] []] [hdN 0x10 [0], dref 0 1]
     let mis := (eng 0 [tdesc 0 0x1000 0 [4] [], tdesc 1 0 0 [4] []] [hdN 0x10 [0], dref 0x4000 1]).updStr 0 0 fun t =>
       { t with a := t.a.set 0 32 }
     let poi := { plain with poison := [(0x40, some .host)] }
     (mis.issuing 0 0 .ldt).isSome = true ∧ (poi.issuing 0 0 .ldt).isSome = true ∧ poi.sized = true ∧ poi.courtsOk = true ∧
     poi.memOk = true ∧
     (match mis.head 0 0 with
      | some h => (mis.snooped (mis.descLines h 0 0 h.op.opnds)).isEmpty &&
        match resolveAll (mis.readDescs h 0 0 .ldt {}) h 0 0 h.op.opnds with
        | .error e => e.code == 3 && e.addr == 0x1020 | _ => false
      | none => false) = true ∧
     (match poi.head 0 0 with
      | some h => match resolveAll (poi.readDescs h 0 0 .ldt {}) h 0 0 h.op.opnds with
        | .ok args =>
          let r := poi.readDescs h 0 0 .ldt {}
          let v := r.readArgs h 0 0 .ldt {} args
          (lateChecks r h 0 0 args).isNone && !noShardMap .ldt args && (shardFault (r.part 0) h args).isNone &&
          (r.snooped (r.argLines h 0 0 .ldt args)).isEmpty && (readErr v h 0 0 {} (readsOf v 0 0 .ldt args)).any fun e => e.code < 256
        | _ => false
      | none => false) = true ∧
     ends (.ldt 0 {}) mis (fun t => (t.part 0).ffCode == 3 && tget 0 (t.part 0).ffrec 2 == 0x1020) = true ∧
     ends (.ldt 0 {}) poi (fun t => (t.part 0).state == 4 && (t.clu 0).sp == []) = true) := by decide +kernel

/-- A line written whole since is no longer what a long word in flight wrote; one written in part is, but for those bytes. -/
theorem wit_undo :
    (let old : List OldByte := [⟨none, 0, 7, none⟩, ⟨none, 65, 8, none⟩, ⟨some 3, 0, 9, none⟩, ⟨none, 130, 1, some .host⟩]
     let s := { runs with undo := [⟨0, 4, 1, old⟩] }
     s.memOk = true ∧ wholeLine (cellsAt 0 (zeros 64)) 0 = true ∧
     (s.wrDa (cellsAt 0 (zeros 66))).undo.map (fun e => e.bytes.map fun o => (o.clu, o.adr)) = [[(some 3, 0), (none, 130)]] ∧
     (s.wrDa (cellsAt 130 [1])).undo.map (fun e => e.bytes.length) = [4]) := by decide +kernel

theorem wit_dram_write : up.memOk = true ∧ ((up.wrDa (cellsAt 60 (List.replicate 8 1))).rdDa 67) = 1 ∧
    sortCodes .int32 true [3, 5] = [(5, 1), (3, 0)] := by
  decide +kernel

/-- R85, R115: hypotheses of the arithmetic statements at a tie and at the edges of INT8. -/
theorem wit_arithmetic : roundMag .rne 3 0 1 0 = 2 ∧ 2 * (3 % 2 ^ 1) = 2 ^ 1 ∧ roundMag .rsto 3 0 1 1 = 2 ∧
    (decodeF .bf16 0x7F80).isNan = false ∧ (decodeF .bf16 0xFF81).isNan = true ∧
    convert { fast with strict := true } .bf16 .fp32 0xFF81 0 = ⟨0xFF810000, {}⟩ ∧ convert fast .bf16 .fp32 0xFF81 0 = ⟨0x7FC00000, {}⟩ ∧
    narrowInt fast .int8 128 = ⟨0x7F, { sat := true }⟩ ∧ narrowInt fast .int8 (-128) = ⟨0x80, {}⟩ ∧
    narrowInt { fast with sat := false } .int8 128 = ⟨0x80, {}⟩ := by decide +kernel

/-! ## Witnesses: rally links -/

def signed8 (f : Frame) : Frame := { f with crc := f.crcOf }
def frm (cls c7 c8 : Nat) (payload : List Byte := zeros 64) : Frame := signed8 (mkFrame cls 1 0 0 c7 c8 payload)
/-- Port 0 in a state; device 0 of group 7 with devices 0 and 1. -/
def linked (q : Port) (s : State := runs) (members : List Nat := [0, 1]) : State :=
  { rallied s members [(1, some 0)] with ports := q :: List.replicate 7 {} }
def got (s : State) (f : Frame) : State := (s.receive 0 f).2
/-- An accepted frame for this partition. -/
def reaches (s : State) (f : Frame) : Bool := (s.receive 0 f).1 && (got s f).target 0 f false == .here 0 && s.portPart 0 == some 0

theorem wit_write_frames :
    (let f := frm 0 63 (0xBC000000 / 64 - 1) (List.replicate 64 9)
     let g := frm 0 63 (0xBC000000 / 64) (List.replicate 64 9)
     let u := linked { st := .up }
     let d := linked { st := .up } (withP { p0 with stat := .faulted })
     let o := linked { st := .up } runs [0]
     reaches u f = true ∧ reaches u g = true ∧ reaches d f = true ∧ u.writeHeld 0 f = [] ∧ u.memOk = true ∧ u.sized = true ∧
     u.courtsOk = true ∧ spWf 0 (u.part 0).rxCount = true ∧ spWf 0 (u.part 0).rxRefuse = true ∧
     (o.receive 0 f).1 = true ∧ (got o f).target 0 f false = .dropped ∧
     (writeSpan f).1 / 64 * 64 + 64 = (u.part 0).slotLo ∧
     ends (.frameWrite 0 f {}) u (fun t => t.rdDa (0xBC000000 - 1) == 9 && (t.part 0).rxCount == [(1, 1)]) = true ∧
     ends (.frameWrite 0 g {}) u (fun t => t.dram == [] && (t.part 0).rxRefuse == [(1, 1)]) = true ∧
     ends (.frameWrite 0 f {}) d (fun t => t.dram == [] && (t.part 0).rxRefuse == [(1, 3)]) = true ∧
     u.extest = false ∧ d.extest = false ∧ o.extest = false ∧
     (let x := u.updBoard fun b => { b with tap := { ir := some .extest } }
      x.extest && ends (.frameWrite 0 f {}) x fun t => t == x) = true ∧
     ends (.frameWrite 0 f {}) o (fun t => (t.port 0).drops == 1 && (t.part 0).rxRefuse == [(1, 2)]) = true) := by decide +kernel

def waitingPut : State := (eng 4 [] [0]).updStr 0 4 fun t => { t with flight := [aFlight (.put 1 5)] }
theorem wit_read_frames :
    (let f := frm 1 0 (5 * 2 ^ 16 + 3)
     let r (k : Nat) := frm 2 0 (5 * 2 ^ 16 + k * 2 ^ 24)
     let u := linked { st := .up }
     let fl := linked { flush := [⟨1, 5, 0⟩] }
     let w := linked { st := .up } waitingPut
     reaches u f = true ∧ reaches w (r 0) = true ∧ reaches w (r 1) = true ∧ reaches w (r 3) = true ∧
     (w.putWaiting 0 1 5).isSome = true ∧ (w.part 0).state = 3 ∧
     (fl.port 0).flush.find? (fun e => (fl.part 0).reached e.src e.wcnt) = some ⟨1, 5, 0⟩ ∧ (fl.port 0).waitRx = [] ∧
     fl.dev.rack = some 0 ∧ fl.routeOf 0 1 = some 0 ∧ (fl.port 0).st ≠ .up ∧
     ends (.frameReadreq 0 f) u (fun t => (t.port 0).flush == [⟨1, 5, 3⟩]) = true ∧
     (let u := linked { st := .up, flush := List.replicate 64 ⟨1, 5, 9⟩ }
      reaches u f && ends (.frameReadreq 0 f) u fun t => (t.port 0).waitRx == [(f, false)]) = true ∧
     ends (.flushTableRelease 0) fl (fun t => (t.port 0).flush == [] && (t.port 0).egress.map (·.1.cls) == [2]) = true ∧
     ends (.frameReadrsp 0 (r 0)) w (fun t => (t.str 0 4).flight.all fun k => k.waits != .put 1 5) = true ∧
     ends (.frameReadrsp 0 (r 1)) w (fun t => (t.part 0).ffCode == 4) = true ∧
     ends (.frameReadrsp 0 (r 3)) w (fun t => (t.part 0).ffCode == 9) = true) := by decide +kernel

def afterRly : State :=
  (match exec (.rly 0 {}) (rlyS [0, 1]) with | .next t => t | _ => State.reset).updPort 0 fun q => { q with st := .up, egress := [] }
def lastChild : Frame := frm 3 0 (0x40 + 2 ^ 23) (f32s.flatMap (leBytes 4 ·) ++ zeros 48)
theorem wit_reduce_first :
    (let u := linked { st := .up, rxSeq := 0x13 }
     reaches u exSigned = true ∧ (u.part 0).courts[bits exSigned.c8 31 29]? = some 0 ∧ ((got u exSigned).port 0).slots = [] ∧
     (u.part 0).rlys = [] ∧ ((got u exSigned).ports.all fun k => k.waitRx.isEmpty) = true ∧
     ends (.frameReduce 0 exSigned false) u (fun t => (t.port 0).slots == [childOf exSigned false]) = true) := by decide +kernel

/-- The second child of line 0 gives the RLY of `wit_rly` all it needs: every element doubles; then it completes. -/
theorem wit_reduce_last :
    (let u := afterRly
     let c := childOf lastChild false
     reaches u lastChild = true ∧ u.memOk = true ∧ u.sized = true ∧ u.courtsOk = true ∧
     (match ((got u lastChild).port 0).slots, (u.part 0).rlys with
      | [c0], [r] => (c0.rid, c0.epoch, c0.line, c0.fmt, c0.fn, c0.kind, c0.axc, c0.nrtz) == (c.rid, c.epoch, c.line, c.fmt, c.fn, c.kind, c.axc, c.nrtz) &&
          (c0.children.all fun a => a.1 != bits lastChild.c8 28 23) && c0.children.length + 1 == r.shard.total &&
          (r.rid, r.epoch, r.g / 12) == (c.rid, c.epoch, 0) && r.need == [c.line] && r.agrees c && r.own.isEmpty &&
            (plainArg r.dst r.ebase).merged.isEmpty && r.dst.space == 1 && r.dst.format == some .fp32
      | _, _ => false) = true ∧
     ends (.frameReduce 0 lastChild false) u (fun t => ((t.part 0).rlys.map (·.need)) == [[]] && (t.port 0).slots == [] &&
       l32 t 0 4 == [0x40000000, 0x40800000, 0x40C00000, 0x41000000] && (t.str 0 2).flight.map (·.waits) == [.rly 0x40 0] &&
       t.rlyDone 0 0x40 && ends (.longWordComplete 0 2) t fun v => (v.part 0).rlys == [] && (v.str 0 2).flight == []) = true) := by decide +kernel

theorem wit_control_frames :
    (let hello := frm 4 0 0
     let early := signed8 { mkFrame 4 1 0 0 0 0 (zeros 64) with ack := 1023 }
     let abort (g : Nat) := frm 4 1 0 (abortPayload g 3 1 2)
     let idle := frm 5 0 0
     let tr := { linked { st := .training } with board := { cages := { present := true } :: List.replicate 7 {} } }
     let waits := tr.updPort 0 fun q => { q with replay := [helloFrame 0], tries := [1] }
     let u := linked { st := .up }
     (tr.receive 0 hello).1 = true ∧ (u.receive 0 (abort 7)).1 = true ∧ (u.receive 0 idle).1 = true ∧
     (got u (abort 7)).target 0 (abort 7) true = .here 0 ∧ leNat ((abort 7).payload.take 2) = 7 ∧
     leNat ((abort 7).payload.drop 2 |>.take 1) = 3 ∧ (u.part 0).aborts = [] ∧
     tr.cabled 0 = true ∧ (waits.receive 0 early).1 = true ∧ ((got tr hello).port 0).replay = [] ∧
     ends (.frameHello 0 hello) tr (fun t => (t.port 0).st == .up) = true ∧
     ends (.frameHello 0 hello) waits (fun t => (t.port 0).st == .up) = true ∧
     ends (.frameHello 0 early) waits (fun t => (t.port 0).st == .training && (t.port 0).helloRx) = true ∧
     ends (.frameHello 0 hello) (linked { st := .training }) (fun t => (t.port 0).st == .training) = true ∧
     ends (.frameAbort 0 (abort 7)) u (fun t => (t.part 0).ffCode == 9 && (t.part 0).aborts == [(3, 2)]) = true ∧
     ends (.frameAbort 0 (abort 7)) (u.updPart 0 fun q => { q with aborts := [(3, 2)] }) (fun t => (t.part 0).state == 3) = true ∧
     ends (.frameAbort 0 (abort 8)) u (fun t => (t.port 0).drops == 1) = true ∧
     u.extest = false ∧ ends (.frameIdle 0 idle) u (fun t => t.parts == u.parts) = true) := by decide +kernel

/-- R376, R383: frames in transit over port 0 when it goes down; and one thrown away there that holds a buffer of port 1. -/
theorem wit_transit :
    (let f := frm 0 0 0
     let s := { up with ports := [{ st := .up, egress := [({ f with hop := 1 }, some 1)] }, { egress := [({ f with hop := 1 }, some 0)] }] ++
                                 List.replicate 6 {} }
     s.linkOpOk 0 = true ∧ s.takes 8 (.linkOpDown {} 0) = true ∧
     ends (.linkOpDown {} 0) s (fun t => (t.port 0).egress == [] && (t.port 1).egress == [] && (t.port 1).st == .down &&
       tget 0 (t.port 1).freed f.pool == 1) = true ∧
     (let tr := s.updPort 0 fun q => { q with st := .training }
      [Instr.linkOpDown {} 0, .linkOpRetrain {} 0].all fun c => tr.takes 8 c && ends c tr fun t =>
        (t.port 0).egress == [] && (t.port 1).egress == [] && tget 0 (t.port 1).freed f.pool == 1) = true) := by decide +kernel

theorem wit_link_timers :
    (let u := linked { st := .up, replay := [helloFrame 0, helloFrame 0], tries := [7, 8] }
     let young := linked { st := .up, replay := [helloFrame 0], tries := [7] }
     let d := linked { retry := true }
     let w (k : Waits) := linked {} ((eng 4 [] [0]).updStr 0 4 fun t => { t with flight := [aFlight k] })
     (u.port 0).st = .up ∧ (u.port 0).replay ≠ [] ∧ (u.part 0).state = 3 ∧ u.portPart 0 = some 0 ∧ (d.port 0).retry = true ∧ (d.port 0).hold = false ∧
     (w (.rly 0x40 1)).ownerG 0 = some 0 ∧ ((w (.rly 0x40 1)).part 0).rally.group ≠ none ∧ ((w (.put 1 5)).str 0 4).flight = [aFlight (.put 1 5)] ∧
     ends (.linkCrcTimeout 0) u (fun t => (t.port 0).st == .down && (t.part 0).ffCode == 8) = true ∧
     ends (.linkReplayLimit 0) young (fun t => t == young) = true ∧ (young.extest || u.extest) = false ∧
     ends (.linkReplayLimit 0) u (fun t => (t.port 0).st == .down && (t.port 0).retry) = true ∧
     ends (.linkCrcTimeout 0) (linked { st := .up } up) (fun t => (t.port 0).st == .down && (t.part 0).state == 2) = true ∧
     ends (.linkRetryTimer 0) d (fun t => (t.port 0).st == .training && t.out.length == 1) = true ∧
     ends (.linkRetryTimer 0) (d.updBoard fun b => { b with tap := { ir := some .extest } }) (fun t => (t.port 0).st == .down && (t.port 0).retry &&
       t.out == []) = true ∧
     ends (.reductionTimeout 0 4) (w (.rly 0x40 1)) (fun t => (t.part 0).ffCode == 0x0D && tget 0 (t.part 0).ffrec 2 == 0x40) = true ∧
     ends (.reductionTimeout 0 4) (w (.put 1 5)) (fun t => (t.part 0).ffCode == 0x0D && tget 0 (t.part 0).ffrec 2 == 1) = true) := by
  decide +kernel

/-! ## Witnesses: faults, sensors, power and boot -/

theorem wit_fault_latch :
    (let e1 := { errOf 0x0D 1 with cluster := 0, stream := 4 }
     let e2 := { errOf 0x01 1 with cluster := 3, stream := 0 }
     let e3 := { errOf 0x01 1 with cluster := 3, stream := 1 }
     (runs.part 0).state = 3 ∧ runs.sized = true ∧ runs.courtsOk = true ∧ e2.before e3 = true ∧ e2.before e1 = true ∧
     ends (.faultLatch 0 [e1, e3, e2]) runs (fun t => (t.part 0).ffCode == 1 && (t.part 0).late == 2 &&
       (t.part 0).ffrec == ffrecOf e2 true (some run0)) = true) := by decide +kernel

def faulted (q : Partition) : State := withP { q with stat := .faulted }
theorem wit_faults_and_resets :
    (let rep := faulted { p0 with run := some run0, phase := .report }
     let res := { faulted p0 with poison := [(2, some .host)], dram := [(128, 1)], chans := { table := [2] } :: List.replicate 15 {} }
     let scr := withP { p0 with stat := .resetting, phase := .scrubbed }
     let ver := withP { p0 with slots := [{ len := 64 }, {}], phase := .verify, revfy := [true, false] }
     (up.part 0).stat = .up ∧ (up.part 0).state ≠ 3 ∧ (rep.part 0).run = some run0 ∧ (rep.part 0).phase = .report ∧ run0.la.done = none ∧
     (rep.part 0).jobs = [] ∧ (rep.part 0).queue = [] ∧ (rep.part 0).ringEn = false ∧ (res.part 0).phase = .none ∧ (res.part 0).reports = [] ∧
     res.snoopAll (res.part 0).courts = [] ∧ res.memOk = true ∧ res.cause 2 = some .host ∧ 2 ∈ (res.chan (chanOf 128)).table ∧
     (scr.part 0).stat = .resetting ∧ (scr.part 0).phase = .scrubbed ∧ (ver.part 0).phase = .verify ∧
     ([false, true].all fun b => (ver.snooped ((ver.part 0).slotLines b ((ver.part 0).slot b).len)).isEmpty) = true ∧
     ends (.faultLatch 0 [errOf 1 1]) up (fun t => t == up) = true ∧
     ends (.faultLatch 0 [errOf 1 1, errOf 1 0, errOf 1 14, { errOf 1 1 with space := 3 }]) (faulted p0) (fun t => (t.part 0).late == 1) = true ∧
     rep.sized = true ∧ rep.courtsOk = true ∧ res.sized = true ∧ res.courtsOk = true ∧ rep.dev.dfault = none ∧
     ends (.faultReport 0 {}) rep (fun t => (t.part 0).run.isNone && (t.part 0).reports.length == 0) = true ∧
     ends (.partitionReset 0 false) res (fun t => (t.part 0).state == 5 && t.poison == [] && t.dram == [] &&
       (t.part 0).log.map (·.da) == [128]) = true ∧
     ends (.partitionReset 0 true) (faulted p0) (fun t => t.dev.dfault == some 7) = true ∧
     ends (.partitionResetEnd 0) scr (fun t => (t.part 0).revfy == [true, false] && ((t.part 0).slot false).st == .empty) = true ∧
     (let two := ver.updPart 0 fun q => { q with slots := [{ len := 64 }, { st := .verified }], pendP := some { dl := 7 } }
      (two.part 0).phase = .verify ∧ ends (.reverifyDone 0 {}) two (fun t => (t.part 0).state == 2 && (t.part 0).set.dl == 7 &&
        (t.part 0).pendP.isNone) = true) ∧
     ends (.reverifyDone 0 {}) ver (fun t => (t.part 0).phase == .none && ((t.part 0).slot false).st == .empty) = true) := by decide +kernel

theorem wit_device_faults :
    (let cold : List (BitVec 8) := List.replicate 8 109 ++ [0x80]
     let held := { up with dev := { up.dev with dfault := some 3 } }
     up.sized = true ∧ up.courtsOk = true ∧ up.memOk = true ∧ up.dev.dfault = none ∧ up.dev.stage ≠ 0 ∧ cold.length = 9 ∧
     (cold.all fun v => v.toInt < 110) = true ∧ up.board.railsGood = true ∧ held.dev.dfault = some 3 ∧ held.dev.stage ≠ 0 ∧
     up.cause 5 = none ∧ 8 * courtBytes - 1 < 8 * courtBytes ∧
     ends (.deviceFault 8 true) up (fun t => t.dev.dfault == some 8 && (t.part 0).state == 4 && (t.part 0).ffCode == 0x1F &&
       (t.part 1).state == 0 && !t.faultN && !t.mute) = true ∧
     ends (.deviceFault 1 false) up (fun t => t.mute && t.windows == up.windows && !t.faultN) = true ∧
     ends (.deviceFault 1 true) runs (fun t => (t.part 0).copy.isSome) = true ∧
     ends (.deviceFault 1 true) held (fun t => t.dev.dfault == some 3 && t.dev.dfCount == 1 && (t.part 0).late == 1) = true ∧
     ends (.deviceFault 5 true) held (fun t => t == held) = true ∧
     ends (.deviceFault 5 true) { up with dev := {  stage := 0 } } (fun t => t.dev.dfault == none) = true ∧
     up.extest = false ∧ up.dev.stage ≠ 1 ∧ ends (.thermalSample cold) up (fun t => t.tempMax == 109) = true ∧
     ends (.thermalSample (List.replicate 9 110)) up (fun t => t.dev.trips == 1 && t.dev.dfault == some 5) = true ∧
     ends (.patrolRead 325 {}) { up with dev := {} } (fun t => t.dev.patrol == 5) = true ∧
     ends (.patrolRead 325 { dramUe := [325] }) up (fun t => t.cause 5 == some .patrol && (t.chan (chanOf 320)).pue == 1) = true) := by decide +kernel

def asserted (l : List RstSource) : State := { State.reset with dev := { stage := 0, resets := l } }
def seen (f : Board → Board) : State := up.updBoard fun b => f { b with linkSeen := true }
def asserted' (l : List RstSource) (f : Board → Board) : State := (asserted l).updBoard f
theorem wit_resets :
    (let onlyA (b : Board) : Board := { b with wiring := { b := false } }
     let flashing := { seen id with flash := [Bank.shipped true, Bank.shipped false] }.updDev fun d =>
       { d with fw := some { ctx := {}, bank := true, bundle := [] } }
     up.host.dlUp = true ∧ up.board.wiring.a = true ∧ up.board.wiring.b = true ∧ up.board.linkSeen = false ∧ up.board.sris = false ∧
     (seen id).board.linkSeen = true ∧ (seen onlyA).board.wiring.b = false ∧ flashing.flash.length = 2 ∧ flashing.dev.fw.isSome = true ∧
     (asserted [.hot]).dev.resets = [.hot] ∧ (asserted [.perstA, .dl]).dev.resets = [.perstA, .dl] ∧
     ends (.resetN 1000) up (fun t => t.dev.stage == 0 && (t.part 0).stat == .free) = true ∧
     ends (.resetN 1000) flashing (fun t => !(t.bankOf true).valid && (t.bankOf false).valid && (t.bankOf false).next) = true ∧
     (let busy := { up with uart := { baud := 921600, echo := true, tx := [65], rts := false }, dram := [(5, 1)],
                            dev := { up.dev with ephem := some (1, []), trips := 2, rack := some 3 } }
      ends (.resetN 1000) busy (fun t => t.uart == { rts := false, cts := false } && t.dram == [(5, 1)] &&
        t.dev == { resets := [.resetN], stage := 0, trips := 2 }) = true) ∧
     ends (.resetN 999) up (fun t => t == up) = true ∧
     ends (.perstN true) (seen id) (fun t => t.dev.resets == [.perstB] && t.board.perstB) = true ∧
     ends (.perstN true) (seen onlyA) (fun t => t == seen onlyA) = true ∧
     ends (.perstN false) up (fun t => t.dev.ready && t.board.perst && !t.host.training) = true ∧
     ends .hotReset up (fun t => t.dev.resets == [.hot]) = true ∧ ends (.dlDown false) up (fun t => t.dev.resets == [.dl]) = true ∧
     ends (.dlDown true) up (fun t => t.dev.resets == [.dl]) = true ∧
     ends (.dlDown true) (seen fun b => { b with sris := true }) (fun t => t.dev.ready && t.host.dlUp && !t.board.refclk) = true ∧
     ends (.dlDown true) { State.reset with host := { training := true } } (fun t => !t.host.training && !t.board.refclk) = true ∧
     ends (.resetRelease .hot true) (asserted [.hot]) (fun t => t.dev.stage == 1) = true ∧
     ends (.resetRelease .dl true) (asserted [.dl, .hot]) (fun t => t.dev.stage == 0 && t.dev.resets == [.hot]) = true ∧
     ends (.resetRelease .perstA false) (asserted' [.perstA] fun b => { b with perstA := true })
       (fun t => t.dev.stage == 1 && t.board.sris && !t.board.perst) = true ∧
     ends (.resetRelease .perstA false) (asserted' [.perstA, .perstB] fun b => { b with perstA := true, perstB := true })
       (fun t => t.dev.resets == [.perstB] && !t.board.sris && t.board.perst) = true) := by decide +kernel

def board (f : Board → Board) : State := State.reset.updBoard f
theorem wit_power :
    (let off := board fun b => { b with inRange := false, rails := 1, mv := 0, wiring := { hdr := true } }
     let ov := board fun b => { b with inRange := false, rails := 1, overVolt := true, mv := 60001 }
     let rf := board fun b => { b with rails := 1, railFlt := some 3 }
     let cg := runs.updBoard fun b => { b with cages := { present := true } :: List.replicate 7 {} }
     let lk := cg.updPort 0 fun q => { q with st := .up }
     let jt := { lk with fuses := { lk.fuses with jtag := true } }
     off.board.inRange = false ∧ off.board.overVolt = false ∧ off.board.railFlt = none ∧ ov.board.overVolt = true ∧ ov.board.railFlt = none ∧
     rf.board.railFlt ≠ none ∧ rf.board.standby = true ∧ rf.board.inRange = true ∧ (tget {} lk.board.cages 0).present = true ∧
     lk.sized = true ∧ lk.courtsOk = true ∧ lk.board.cages.length = 8 ∧ lk.portPart 0 = some 0 ∧ (lk.part 0).state = 3 ∧ (lk.port 0).st = .up ∧
     (asserted [.power]).board.rails = 8 ∧ (asserted [.power]).dev.resets = [.power] ∧ jt.fuses.jtag = true ∧ jt.board.rails = 8 ∧
     ends (.powerOn 44000 { b := false }) off (fun t => t.board.rails == 8 && t.dev.resets == [.power] && !t.board.wiring.b) = true ∧
     ends (.powerOn 60000 {}) off (fun t => t.board.inRange) = true ∧
     ends .powerOnResetRelease (asserted [.power]) (fun t => t.dev.stage == 1) = true ∧
     ends (.powerOff 0 false) State.reset (fun t => t.board.rails == 0 && t.faultN) = true ∧
     ends (.powerOff 40999 true) State.reset (fun t => t.board.rails == 1 && !t.board.overVolt) = true ∧
     ends (.powerOff 60001 true) State.reset (fun t => t.board.overVolt) = true ∧
     ends (.overvoltageRestart 58999) ov (fun t => t.board.rails == 8 && !t.board.overVolt) = true ∧
     ends (.railFault 7) State.reset (fun t => t.board.railFlt == some 7 && !t.faultN && t.board.rails == 1) = true ∧
     ends (.restart 0xA5) rf (fun t => t.board.railFlt == none && t.board.rails == 8) = true ∧
     ends (.cageTrip 0 1501) lk (fun t => t.cagesWord == 0x101 && (t.port 0).st == .down && (t.part 0).ffCode == 8) = true ∧
     ends (.cableChange 0 none) lk (fun t => t.cagesWord == 0 && (t.port 0).st == .down && (t.part 0).ffCode == 8) = true ∧
     ends (.cableChange 7 (some false)) cg (fun t => t.cagesWord == 0x81 && !t.cabled 7 && t.cabled 0) = true ∧
     ends (.jtagTapActive .bypass) State.reset (fun t => !t.dev.jtagSeen) = true ∧
     ends (.jtagTapActive .sample) jt (fun t => t.dev.jtagSeen && (t.port 0).st == .up) = true ∧
     ends (.jtagTapActive .extest) (jt.updPort 1 fun q => { q with st := .training }) (fun t => (t.port 1).st == .down) = true ∧
     ends (.jtagTapActive .extest) jt (fun t => t.dev.jtagSeen && !t.host.dlUp && (t.port 0).st == .down &&
       !t.cabled 0) = true) := by decide +kernel

/-- R498: the input moves within its range, and the meter with it; on the other side of a threshold nothing follows. -/
theorem wit_input : State.reset.board.inRange = true ∧ State.reset.board.overVolt = false ∧ State.reset.board.rails = 8 ∧
    ([Instr.powerOn 41000, .powerOff 41000, .overvoltageRestart 41000].all fun c =>
      ends c State.reset fun t => t == State.reset.updBoard fun b => { b with mv := 41000 }) = true ∧
    ([Instr.powerOn 60000, .powerOff 60000, .overvoltageRestart 60000].all fun c =>
      ends c State.reset fun t => t.board.mv == 60000 && t.board.rails == 8) = true ∧
    ends (.powerOn 60001) State.reset (fun t => t == State.reset) = true := by decide +kernel

/-- R500: the TAP from Test-Logic-Reset to Update-IR, back with five TCK or TRST_N, and what each data state does. -/
theorem wit_tap :
    (let jt := { up with fuses := { up.fuses with jtag := true } }
     let at_ (st : TapState) (ir : TapIr) : State := jt.updBoard fun b => { b with
       tap := { b.tap with st := st, ir := some ir, bsr := [true, false, true], byp := true } }
     let clk (ir : TapIr) (ms : List Bool) : Instr := .jtagTapActive ir (ms.map fun m => { tms := m })
     jt.fuses.jtag = true ∧ jt.board.rails = 8 ∧ jt.board.tap.st = .testLogicReset ∧ jt.sized = true ∧ jt.extest = false ∧
     (at_ .pauseIr .extest).extest = true ∧ (at_ .pauseIr .extest).board.standby = true ∧
     ends (clk .extest [false, true, true, false, false, true, true]) jt (fun t => t.board.tap.st == .updateIr && t.extest &&
       t.dev.jtagSeen) = true ∧
     ends (clk .bypass (List.replicate 5 true)) (at_ .pauseIr .extest) (fun t => t.board.tap.st == .testLogicReset &&
       t.board.tap.ir == none && !t.extest) = true ∧
     ends (clk .bypass (List.replicate 5 true)) (at_ .shiftIr .sample) (fun t => t.board.tap.ir == none && t.ports == jt.ports) = true ∧
     ends (.jtagTapActive .extest [{ tms := false, trst := true }]) (at_ .shiftDr .sample) (fun t =>
       t.board.tap.st == .testLogicReset && t.board.tap.ir == none && t.board.tap.bsr == [true, false, true]) = true ∧
     ends (.jtagTapActive .bypass [{ tms := false, tdi := true }]) (at_ .shiftDr .preload) (fun t =>
       t.board.tap.bsr == [false, true, true] && t.out == [.tdo false]) = true ∧
     ends (clk .bypass [false]) (at_ .captureDr (.other 5)) (fun t => !t.board.tap.byp && t.out == [.tdo false]) = true ∧
     ends (.jtagTapActive .bypass [{ tms := false, tdi := true }]) (at_ .shiftDr .bypass) (fun t =>
       t.board.tap.byp && t.board.tap.bsr == [true, false, true] && t.out == [.tdo true]) = true ∧
     ends (clk .bypass [true]) (at_ .exit1Dr .preload) (fun t => t.board.tap.st == .updateDr &&
       t.board.tap.load == [true, false, true]) = true ∧
     ends (clk .bypass [true]) (at_ .exit1Dr .sample) (fun t => t.board.tap.load == []) = true) := by decide +kernel

def boot (d : Device) : State := { State.reset with dev := d }
theorem wit_boot :
    (let two := { boot { stage := 2 } with flash := [{ Bank.shipped true with attempts := 2 }, { Bank.shipped false with valid := false }] }
     let none2 := { boot { stage := 2 } with flash := List.replicate 2 { Bank.shipped true with valid := false } }
     (boot {}).dev.ready = false ∧ two.flash.length = 2 ∧ (two.bankOf false).next = true ∧ (two.bankOf false).attempts < 3 ∧
     (two.bankOf true).valid = false ∧
     (none2.bankOf true).valid = false ∧ (none2.bankOf false).valid = false ∧
     ends (.bootStageAdvance {}) (boot {}) (fun t => t.dev.stage == 2) = true ∧
     ends (.bootStageAdvance {}) (boot { temps := List.replicate 9 (some 100) }) (fun t => t.dev.bootErr == 3 && t.dev.stage == 1) = true ∧
     ends (.bootStageAdvance { cause := some 8 }) (boot { stage := 3 }) (fun t => t.dev.dfault == some 8) = true ∧
     ends (.bootStageAdvance {}) none2 (fun t => t.dev.bootErr == 1) = true ∧
     ends (.bootStageAdvance {}) (boot { stage := 3 }) (fun t => t.dev.stage == 4) = true ∧
     ends (.bootStageAdvance { chan := some 15 }) (boot { stage := 4 }) (fun t => t.dev.bootErr == 2 && t.dev.beChan == 15) = true ∧
     ends (.bootStageAdvance {}) (boot { stage := 4 }) (fun t => t.dev.stage == 5) = true ∧
     ends (.bootStageAdvance {}) (boot { stage := 5 }) (fun t => t.dev.stage == 6) = true ∧
     (boot { stage := 6 }).flash.length = 2 ∧
     ((boot { stage := 6 }).updHost fun h => { h with aerEn := true, aerUnc := 0x1000 }).atReady.host.aerUnc = 0x1000 ∧
     ends (.bootStageAdvance {}) (boot { bootErr := 1 }) (fun t => t.dev.stage == 1) = true ∧
     (boot { stage := 3 }).board.perst = false ∧ (boot { stage := 3 }).extest = false ∧
     (boot { stage := 3 }).board.refclk = true ∧ ends .hostLinkTraining (boot { stage := 3 }) (fun t => t.host.training) = true ∧
     (let dead := ({ boot { stage := 3 } with host := { training := true } }).updBoard fun b => { b with refclk := false }
      ends .hostLinkTraining dead (fun t => t == dead) && ends (.dlUp 8 6 true) dead fun t => t == dead) = true ∧
     ends (.thermalSample (List.replicate 9 100)) (boot { stage := 1 }) (fun t => t.dev.bootErr == 3) = true ∧
     ends (.thermalSample (List.replicate 9 99)) (boot { stage := 1, bootErr := 3 }) (fun t => t.dev.bootErr == 0) = true ∧
     ends (.dlUp 16 6 true) ({ boot { stage := 3 } with host := { training := true } }.updBoard fun b => { b with wiring := { b := false } })
       (fun t => !t.host.dlUp) = true ∧
     ends (.dlUp 16 6 true) { boot { stage := 3 } with host := { training := true } } (fun t => t.host.dlUp && t.host.cxl &&
       t.host.width == 16) = true) := by
  decide +kernel

/-- A step runs the command at the front; an empty queue idles. -/
theorem test_step : (match step { up with pending := [.wait {} 0, .sig {} 0] } with
      | .next t => (t.part 0).gate && t.pending == [.sig {} 0] | _ => false) = true ∧ step up = .next up := ⟨by decide +kernel, rfl⟩
end Sys2Proof.Tests
end

namespace Sys2Proof.Machine

/-! # Every step keeps every numbered item

`State.sized` says that every numbered item of the device exists. Each function of the model that answers a state has one
lemma here, named after it: it keeps the numbered items of the state it is given. The lemma of a function is the composition
of the lemmas of the functions it calls, with `ite_sized` for a choice and `foldl_sized` for a loop, so that no proof looks
into a callee again. `exec_sized` collects the commands, and `step_sized` is the step. -/

section

/-! ## The invariant clause by clause -/

/-- A property of the items of a list that a change of one item keeps. -/
theorem forall_mem_modify {α : Type} {P : α → Prop} {f : α → α} (hf : ∀ a, P a → P (f a)) (i : Nat)
    (l : List α) (h : ∀ a ∈ l, P a) : ∀ a ∈ l.modify i f, P a := by
  induction l generalizing i with
  | nil => simp
  | cons b r ih =>
    obtain ⟨hb, hr⟩ := List.forall_mem_cons.mp h
    cases i with
    | zero => exact List.forall_mem_cons.mpr ⟨hf b hb, hr⟩
    | succ i => exact List.forall_mem_cons.mpr ⟨hb, ih i hr⟩

/-- `State.sized` clause by clause. -/
theorem sized_iff {s : State} :
    s.sized ↔ s.windows.length = 9 ∧ s.parts.length = 8 ∧ s.courts.length = 8 ∧ s.cl.length = 96 ∧
      s.chans.length = 16 ∧ s.ports.length = 8 ∧ s.ide.length = 9 ∧
      (∀ k ∈ s.cl, k.sized) ∧ ∀ q ∈ s.parts, q.sized := by
  simp [State.sized, and_assoc]

variable {s : State}

/-- A command that answers a next state answers the numbered items of that state. -/
theorem next_sized {t : State} (h : t.sized) : (outOf s (.next t)).sized := h

/-- Both branches of a choice keep the numbered items. -/
theorem ite_sized {c : Prop} [Decidable c] {a b : State} (ha : a.sized) (hb : b.sized) :
    (if c then a else b).sized := by
  split
  · exact ha
  · exact hb

/-! ## The primitive updates -/

/-- An update of a partition keeps every numbered item when it keeps those of that partition. -/
theorem updPart_sized {p} {f : Partition → Partition} (h : s.sized)
    (hf : ∀ {q : Partition}, q.sized → (f q).sized) : (s.updPart p f).sized := by
  rw [sized_iff] at h ⊢
  obtain ⟨hw, hp, hc, hcl, hch, hpo, hi, hk, hq⟩ := h
  have hq' : ∀ q ∈ s.parts.modify p f, q.sized :=
    forall_mem_modify (P := fun q : Partition => q.sized) (fun _ => hf) p _ hq
  exact ⟨hw, by simpa using hp, hc, hcl, hch, hpo, hi, hk, hq'⟩

/-- An update of a cluster keeps every numbered item when it keeps those of that cluster. -/
theorem updClu_sized {g} {f : Cluster → Cluster} (h : s.sized) (hf : ∀ {k : Cluster}, k.sized → (f k).sized) :
    (s.updClu g f).sized := by
  rw [sized_iff] at h ⊢
  obtain ⟨hw, hp, hc, hcl, hch, hpo, hi, hk, hq⟩ := h
  have hk' : ∀ k ∈ s.cl.modify g f, k.sized :=
    forall_mem_modify (P := fun k : Cluster => k.sized) (fun _ => hf) g _ hk
  exact ⟨hw, hp, hc, by simpa using hcl, hch, hpo, hi, hk', hq⟩

theorem updWin_sized {w f} (h : s.sized) : (s.updWin w f).sized := by simpa [State.sized] using h
theorem updCourt_sized {c f} (h : s.sized) : (s.updCourt c f).sized := by simpa [State.sized] using h
theorem updChan_sized {m f} (h : s.sized) : (s.updChan m f).sized := by simpa [State.sized] using h
theorem updPort_sized {x f} (h : s.sized) : (s.updPort x f).sized := by simpa [State.sized] using h
theorem updIde_sized {k f} (h : s.sized) : (s.updIde k f).sized := by simpa [State.sized] using h
theorem updDev_sized {f} (h : s.sized) : (s.updDev f).sized := h
theorem updHost_sized {f} (h : s.sized) : (s.updHost f).sized := h
theorem updUart_sized {f} (h : s.sized) : (s.updUart f).sized := h
theorem updBoard_sized {f} (h : s.sized) : (s.updBoard f).sized := h
theorem updSpdm_sized {f} (h : s.sized) : (s.updSpdm f).sized := h
theorem send_sized {o} (h : s.sized) : (s.send o).sized := h
theorem fresh_sized (h : s.sized) : s.fresh.sized := h

/-- A fold keeps the numbered items when each of its steps does. -/
theorem foldl_sized {β : Type} {f : State → β → State} {l : List β} (h : s.sized)
    (hf : ∀ {t : State} {b}, t.sized → (f t b).sized) : (l.foldl f s).sized :=
  foldl_keeps (fun t => t.sized = true) f l s h fun _ _ => hf

/-! ## Streams, replies, poison marks and host frames -/

theorem Cluster.updStr_sized {k : Cluster} {st f} (h : k.sized) : (k.updStr st f).sized := by
  simpa [Cluster.sized, Cluster.updStr] using h

theorem updStr_sized {g st f} (h : s.sized) : (s.updStr g st f).sized :=
  updClu_sized h Cluster.updStr_sized

theorem passTime_sized {g} (h : s.sized) : (s.passTime g).sized :=
  updClu_sized h fun ht => by simpa [Cluster.sized] using ht

theorem msix_sized {v} (h : s.sized) : (s.msix v).sized := ite_sized h (ite_sized (updHost_sized h) (send_sized h))

theorem txd_sized {b} (h : s.sized) : (s.txd b).sized := ite_sized h (send_sized h)

theorem uartSend_sized {b} (h : s.sized) : (s.uartSend b).sized :=
  ite_sized (txd_sized h) (ite_sized (updUart_sized h) (updUart_sized h))

theorem uartEcho_sized {b} (h : s.sized) : (s.uartEcho b).sized :=
  ite_sized (txd_sized h) (ite_sized (updUart_sized h) h)

theorem replyPut_sized {w b} (h : s.sized) : (s.replyPut w b).sized :=
  ite_sized (ite_sized (msix_sized (updWin_sized h)) (updWin_sized h)) (updWin_sized h)

theorem countLine_sized {w} (h : s.sized) : (s.countLine w).sized := ite_sized (updPart_sized h id) h

theorem deliver_sized {w uart line} (h : s.sized) : (s.deliver w uart line).sized :=
  ite_sized (uartSend_sized h) (replyPut_sized h)

theorem emit_sized {w uart line} (h : s.sized) : (s.emit w uart line).sized := deliver_sized (countLine_sized h)

theorem reply_sized {w l line} (h : s.sized) : (s.reply w l line).sized := emit_sized h

theorem ok_sized {w l keys} (h : s.sized) : (s.ok w l keys).sized := reply_sized h

theorem no_sized {w l why keys} (h : s.sized) : (s.no w l why keys).sized := reply_sized h

theorem replies_sized {w l data last} (h : s.sized) : (s.replies w l data last).sized :=
  ok_sized (foldl_sized h reply_sized)

theorem event_sized {line} (h : s.sized) : (s.event line).sized := msix_sized (emit_sized (emit_sized h))

theorem aer_sized {b} (h : s.sized) : (s.aer b).sized := ite_sized (send_sized (updHost_sized h)) (updHost_sized h)

theorem ignore_sized {w l why} (h : s.sized) : (s.ignore w l why).sized :=
  ite_sized (uartSend_sized (updWin_sized h)) (updWin_sized h)

theorem tableAdd_sized {line} (h : s.sized) : (s.tableAdd line).sized := updChan_sized h

theorem mark_sized {line c} (h : s.sized) : (s.mark line c).sized := ite_sized h (ite_sized h (tableAdd_sized h))

theorem land_sized {clu adrs} (h : s.sized) : (s.land clu adrs).sized := h

theorem markHost_sized {line} (h : s.sized) : (s.markHost line).sized := tableAdd_sized h

theorem unmark_sized {line} (h : s.sized) : (s.unmark line).sized := updChan_sized h

theorem observe_sized {o lines} (h : s.sized) : (s.observe o lines).sized :=
  foldl_sized (foldl_sized (foldl_sized (foldl_sized h updChan_sized) fun ht => ite_sized ht (updChan_sized
    (mark_sized ht))) updCourt_sized) fun ht => updCourt_sized (mark_sized ht)

theorem wrDa_sized {cells} (h : s.sized) : (s.wrDa cells).sized := by
  unfold State.wrDa
  split
  · exact h
  · refine foldl_sized h fun ht => ?_
    dsimp only
    split
    · exact ht
    · split
      · exact unmark_sized ht
      · exact ht

theorem wrPa_sized {p cells} (h : s.sized) : (s.wrPa p cells).sized := wrDa_sized h

theorem zeroCourt_sized {c} (h : s.sized) : (s.zeroCourt c).sized := by
  simpa [State.sized, State.zeroCourt] using h

theorem biAsk_sized {lines} (h : s.sized) : (s.biAsk lines).sized :=
  foldl_sized h fun ht => ite_sized ht (updHost_sized (send_sized ht))

/-! ## Rally ports -/

theorem sendFrame_sized {x f} (h : s.sized) : (s.sendFrame x f).sized := ite_sized h (send_sized (updPort_sized h))

theorem idle_sized {x want} (h : s.sized) : (s.idle x want).sized := ite_sized h (sendFrame_sized h)

theorem freeBuf_sized {x f} (h : s.sized) : (s.freeBuf x f).sized :=
  idle_sized (ite_sized (idle_sized (updPort_sized h)) (updPort_sized h))

theorem drainPort_sized {n x} (h : s.sized) : (drainPort n x s).sized := by
  induction n generalizing s with
  | zero => exact h
  | succ n ih =>
    unfold drainPort
    dsimp only
    split
    · exact h
    · split
      · exact h
      · refine ih ?_
        split
        · exact freeBuf_sized (sendFrame_sized (updPort_sized h))
        · exact sendFrame_sized (updPort_sized h)

theorem drain_sized {x} (h : s.sized) : (s.drain x).sized := drainPort_sized h

theorem egress_sized {x f held} (h : s.sized) : (s.egress x f held).sized := drain_sized (updPort_sized h)

theorem route_sized {p f} (h : s.sized) : (s.route p f).sized := by
  unfold State.route
  split
  · exact egress_sized h
  · exact h

theorem dropFrame_sized {x} (h : s.sized) : (s.dropFrame x).sized := updPort_sized h

theorem linkEvent_sized {x up} (h : s.sized) : (s.linkEvent x up).sized := event_sized h

theorem emptyPort_sized {x} (h : s.sized) : (s.emptyPort x).sized := by
  unfold State.emptyPort
  refine foldl_sized (updPort_sized (by simpa [State.sized] using h)) fun ht => ?_
  split
  · exact ite_sized ht (freeBuf_sized ht)
  · exact ht

theorem portDown_sized {x hold retry} (h : s.sized) : (s.portDown x hold retry).sized :=
  updPort_sized (emptyPort_sized h)

theorem train_sized {x} (h : s.sized) : (s.train x).sized :=
  ite_sized (updPort_sized h) (sendFrame_sized (updPort_sized (updPort_sized h)))

theorem linkUp_sized {x} (h : s.sized) : (s.linkUp x).sized :=
  ite_sized (drain_sized (linkEvent_sized (updPort_sized h))) h

theorem resend_sized {x} (h : s.sized) : (s.resend x).sized :=
  ite_sized h (foldl_sized (updPort_sized h) sendFrame_sized)

theorem receive_sized {x f} (h : s.sized) : (s.receive x f).2.sized := by
  unfold State.receive
  extract_lets q t u v
  have hv : v.sized := drain_sized (linkUp_sized (ite_sized (resend_sized (updPort_sized h)) (updPort_sized h)))
  clear_value v
  split
  · exact h
  split
  · exact idle_sized (updPort_sized h)
  split
  · exact hv
  split
  · exact idle_sized (updPort_sized hv)
  split
  · exact idle_sized hv
  · exact idle_sized (updPort_sized hv)

theorem forward_sized {x f} (h : s.sized) : (s.forward x f).sized := by
  unfold State.forward
  split
  · split
    · exact egress_sized h
    · exact freeBuf_sized (dropFrame_sized h)
  · exact freeBuf_sized (dropFrame_sized h)

/-! ## Reports, faults and what a fault abandons -/

theorem pumpReports_sized {obs n p} (h : s.sized) : (pumpReports obs n p s).sized := by
  induction n generalizing s with
  | zero => exact h
  | succ n ih =>
    unfold pumpReports
    extract_lets q
    split
    · exact h
    · refine ite_sized h ?_
      extract_lets held t u v w x y
      have ht : t.sized := by
        refine ite_sized h ?_
        split
        · exact wrPa_sized (observe_sized h)
        · exact h
      refine ite_sized (biAsk_sized h) (ite_sized (updPart_sized ht id) ?_)
      have hu : u.sized := ite_sized (updPart_sized (send_sized ht) id) ht
      have hw : w.sized := emit_sized (updPart_sized hu id)
      have hx : x.sized := ite_sized (msix_sized hw) hw
      exact ih (ite_sized (msix_sized hx) hx)

theorem haltDone_sized {p} (h : s.sized) : (s.haltDone p).sized := by
  unfold State.haltDone
  split
  · exact ite_sized h (ok_sized (updWin_sized (updPart_sized h id)))
  · exact h

theorem settle_sized {p} (h : s.sized) : (s.settle p).sized := by
  unfold State.settle
  refine updPart_sized h fun ht => ?_
  split
  · exact ht
  · exact ht

theorem pump_sized {p obs} (h : s.sized) : (s.pump p obs).sized := settle_sized (haltDone_sized (pumpReports_sized h))

theorem pumpFree_sized {p} (h : s.sized) : (s.pumpFree p).sized :=
  ite_sized (pump_sized h) (fresh_sized (pump_sized h))

theorem endRun_sized {p r status code line fv} (h : s.sized) : (s.endRun p r status code line fv).sized :=
  fresh_sized <| updPart_sized (hf := id) <| foldl_sized h fun ht =>
  updClu_sized (passTime_sized ht) fun hk => by simpa [Cluster.sized] using hk

theorem endJob_sized {p j status} (h : s.sized) : (s.endJob p j status).sized :=
  updPart_sized h fun ht => by simpa [Partition.sized] using ht

theorem readRsp_sized {p dst tid status} (h : s.sized) : (s.readRsp p dst tid status).sized := by
  unfold State.readRsp
  split
  · exact route_sized h
  · exact h

theorem suspect_sized {p g hit} (h : s.sized) : (s.suspect p g hit).sized :=
  ite_sized (updPart_sized (updClu_sized h id) id) h

theorem chargeSlots_sized {p} (h : s.sized) : (s.chargeSlots p).sized := foldl_sized h suspect_sized

theorem dropRally_sized {p} (h : s.sized) : (s.dropRally p).sized :=
  have hu := foldl_sized (chargeSlots_sized h) fun ht => foldl_sized (updPort_sized ht) freeBuf_sized
  updPart_sized (foldl_sized hu readRsp_sized) id

theorem floodAbort_sized {p code} (h : s.sized) : (s.floodAbort p code).sized := by
  unfold State.floodAbort
  split
  · exact foldl_sized (updDev_sized h) route_sized
  · exact h

theorem unwrite_sized {o} (h : s.sized) : (s.unwrite o).sized := by
  unfold State.unwrite
  split
  · dsimp only
    split
    · exact mark_sized h
    · exact h
  · exact updClu_sized h id

theorem abandonWrites_sized {es ws} (h : s.sized) : (s.abandonWrites es ws).sized := by
  induction es generalizing s ws with
  | nil => exact h
  | cons e r ih => exact ih (foldl_sized h unwrite_sized)

theorem abandonAll_sized {p} (h : s.sized) : (s.abandonAll p).sized :=
  ite_sized h (fresh_sized (abandonWrites_sized h))

theorem stopEngines_sized {p} (h : s.sized) : (s.stopEngines p).sized :=
  updPart_sized (hf := id) <| foldl_sized (abandonAll_sized h) fun ht =>
  updClu_sized ht fun hk => by simpa [Cluster.sized] using hk

theorem lateErr_sized {p n} (h : s.sized) : (s.lateErr p n).sized :=
  ite_sized h (updPart_sized h fun ht => by simpa [Partition.sized] using ht)

/-- A first fault writes FFREC anew, with the six words that `ffrecOf` gives. -/
theorem latchAll_sized {p errs} (h : s.sized) : (s.latchAll p errs).sized := by
  unfold State.latchAll
  extract_lets q late errs'
  split
  · exact h
  · split
    · exact lateErr_sized h
    · extract_lets t u
      have ht : t.sized := updPart_sized h fun hq => by
        simp only [Partition.sized, Bool.and_eq_true] at hq ⊢
        exact ⟨hq.1, rfl⟩
      have hu : u.sized := dropRally_sized (stopEngines_sized ht)
      exact ite_sized hu (floodAbort_sized hu)

theorem latch_sized {p e} (h : s.sized) : (s.latch p e).sized := latchAll_sized h

theorem linkDown_sized {x hold retry} (h : s.sized) : (s.linkDown x hold retry).sized := by
  unfold State.linkDown
  extract_lets was t u
  have hu : u.sized := ite_sized (linkEvent_sized (portDown_sized h)) (portDown_sized h)
  split
  · exact ite_sized (latch_sized hu) hu
  · exact hu

/-! ## Operands, draws and fetch -/

theorem count_sized {g set cs} (h : s.sized) : (s.count g set cs).sized :=
  updClu_sized h fun ht => by simpa [Cluster.sized] using ht

theorem draws_sized {p g st w n consume} (h : s.sized) : (s.draws p g st w n consume).2.sized := by
  unfold State.draws
  split
  · split
    · exact updStr_sized h
    · exact h
  · exact h

/-- `draws_sized` for a caller that takes the pair of draws and state apart. -/
theorem draws_eq_sized {p g st w n consume rs} {t : State} (h : s.sized)
    (e : s.draws p g st w n consume = (rs, t)) : t.sized := by
  have ht : (s.draws p g st w n consume).2.sized := draws_sized h
  rwa [e] at ht

theorem wrArg_sized {p g a cells} (h : s.sized) : (s.wrArg p g a cells).sized :=
  ite_sized (wrPa_sized h) (updClu_sized (land_sized h) id)

theorem wrSettled_sized {p g a cells} (h : s.sized) : (s.wrSettled p g a cells).sized :=
  ite_sized (wrArg_sized h) (fresh_sized (wrArg_sized h))

theorem fetch_sized {g st} (h : s.sized) : (s.fetch g st).sized := updStr_sized h

theorem fetchAll_sized {g} (h : s.sized) : (s.fetchAll g).sized := foldl_sized h fetch_sized

theorem Cluster.icacheAdd_sized {free e} {k : Cluster} (h : k.sized) : (k.icacheAdd free e).sized := by
  unfold Cluster.icacheAdd
  split
  · exact h
  · dsimp only
    split
    · exact h
    · exact h

/-! ## The issue and the completion of a long word -/

theorem trigger_sized {p rel st} (h : s.sized) : (s.trigger p rel st).sized := updPart_sized h id

theorem signal_sized {p g w} (h : s.sized) : (s.signal p g w).sized := by
  unfold State.signal
  split
  · exact updPart_sized h id
  · exact h

theorem Cluster.issueLw_sized {k : Cluster} {hd st} (h : k.sized) : (k.issueLw hd st).sized := by
  unfold Cluster.issueLw
  cases hd.lw.waitTok <;> simpa [Cluster.sized, Cluster.regionIssue] using h

theorem issueStop_sized {hd st n} (h : s.sized) : (s.issueStop hd st n).sized := by
  unfold State.issueStop
  dsimp only
  split
  · exact trigger_sized (updPart_sized h id)
  · split
    · exact updPart_sized h id
    · exact h

theorem issueWith_sized {hd g st waits adv} (h : s.sized) : (issueWith s hd g st waits adv).sized :=
  issueStop_sized <|
  ite_sized (signal_sized (fetch_sized (updStr_sized (updClu_sized h Cluster.issueLw_sized)))) <|
  fetch_sized (updStr_sized (updClu_sized h Cluster.issueLw_sized))

theorem issueCommon_sized {hd g st waits} (h : s.sized) : (issueCommon s hd g st waits).sized := issueWith_sized h

/-- An operation at the head of a stream keeps the items when what it does there keeps them. -/
theorem withHead_sized {g st op} {f : Head → State} (h : s.sized) (hf : ∀ {hd}, (f hd).sized) :
    (withHead s g st op f).sized := by
  unfold withHead
  split
  · exact ite_sized hf h
  · exact h

theorem spSeen_sized {clus obs} (h : s.sized) : (s.spSeen clus obs).sized :=
  foldl_sized h fun ht => updClu_sized ht id

theorem seen_sized {clus obs lines} (h : s.sized) : (s.seen clus obs lines).sized := spSeen_sized (observe_sized h)

theorem keep_sized {s p g st n ws} {t : State} (h : t.sized) : (t.keep s p g st n ws).sized := h

theorem remember_sized {s p g st ws} {t : State} (h : t.sized) : (t.remember s p g st ws).sized :=
  ite_sized h (keep_sized h)

theorem keepLate_sized {s p g st ws dsts} {t : State} (h : t.sized) : (t.keepLate s p g st ws dsts).sized := by
  unfold State.keepLate
  dsimp only
  split
  · exact keep_sized h
  · exact h

theorem readDescs_sized {hd g st op obs} (h : s.sized) : (s.readDescs hd g st op obs).sized := observe_sized h

theorem readArgs_sized {hd g st op obs args} (h : s.sized) : (s.readArgs hd g st op obs args).sized := seen_sized h

/-- An operation with descriptors keeps the items when its body keeps them: all before the body reads or faults. -/
theorem withArgs_sized {g st op obs} {f : Head → List Arg → State → State} (h : s.sized)
    (hf : ∀ {hd args} {t : State}, t.sized → (f hd args t).sized) : (withArgs s g st op obs f).sized := by
  unfold withArgs
  refine withHead_sized h fun {hd} => ?_
  dsimp only
  split
  · exact biAsk_sized h
  · split
    · exact latch_sized (readDescs_sized h)
    · split
      · exact latch_sized (readDescs_sized h)
      · split
        · exact latch_sized (readDescs_sized h)
        · split
          · exact biAsk_sized h
          · split
            · exact latch_sized (readArgs_sized (readDescs_sized h))
            · split
              · exact latch_sized (readArgs_sized (readDescs_sized h))
              · exact remember_sized (hf (suspect_sized (readArgs_sized (readDescs_sized h))))

theorem retire_sized {p g st f} (h : s.sized) : (s.retire p g st f).sized := by
  unfold State.retire
  extract_lets u t v w x
  have hw : w.sized := updClu_sized (updStr_sized h) id
  have hx : x.sized := by
    unfold x
    split
    · exact updClu_sized hw id
    · exact hw
  exact ite_sized hx (signal_sized hx)

/-! ## Operations of every stream, signals and requests between clusters -/

theorem execNop_sized {g st} (h : s.sized) : (outOf s (execNop g st s)).sized :=
  next_sized (withHead_sized h (issueCommon_sized h))

theorem execSync_sized {g st} (h : s.sized) : (outOf s (execSync g st s)).sized :=
  next_sized (withHead_sized h (issueCommon_sized h))

theorem execLoop_sized {g st} (h : s.sized) : (outOf s (execLoop g st s)).sized :=
  next_sized (withHead_sized h (issueWith_sized h))

theorem execBr_sized {g st} (h : s.sized) : (outOf s (execBr g st s)).sized :=
  next_sized (withHead_sized h (issueWith_sized (passTime_sized h)))

theorem execAop_sized {g st} (h : s.sized) : (outOf s (execAop g st s)).sized :=
  next_sized (withHead_sized h (updStr_sized (issueCommon_sized h)))

theorem execEop_sized {g st} (h : s.sized) : (outOf s (execEop g st s)).sized :=
  next_sized <| withHead_sized h <|
  updClu_sized (issueCommon_sized (passTime_sized h)) fun hk => by simpa [Cluster.sized] using hk

theorem execTop_sized {g st} (h : s.sized) : (outOf s (execTop g st s)).sized :=
  next_sized <| withHead_sized h <|
  updClu_sized (issueCommon_sized (passTime_sized h)) fun hk => by simpa [Cluster.sized] using hk

theorem execQcmp_sized {g st} (h : s.sized) : (outOf s (execQcmp g st s)).sized :=
  next_sized (withHead_sized h (updClu_sized (issueCommon_sized h) fun ht => by simpa [Cluster.sized] using ht))

theorem execBrk_sized {g st} (h : s.sized) : (outOf s (execBrk g st s)).sized :=
  next_sized (withHead_sized h fun {_} => ite_sized (trigger_sized (issueCommon_sized h)) (issueCommon_sized h))

theorem execFin_sized {g st} (h : s.sized) : (outOf s (execFin g st s)).sized :=
  next_sized (withHead_sized h (updStr_sized (issueCommon_sized h)))

theorem rlyClear_sized {p rid} (h : s.sized) : (s.rlyClear p rid).sized := updPart_sized h id

theorem execLongWordComplete_sized {g st} (h : s.sized) : (outOf s (execLongWordComplete g st s)).sized := by
  refine next_sized ?_
  dsimp only
  split
  · split
    · exact h
    · split
      · exact ite_sized (retire_sized (rlyClear_sized h)) h
      · exact ite_sized (biAsk_sized h) (retire_sized (wrPa_sized h))
      · exact retire_sized h
  · exact h

theorem execSignalArrive_sized {g t n} (h : s.sized) : (outOf s (execSignalArrive g t n s)).sized := by
  refine next_sized ?_
  dsimp only
  split
  · exact ite_sized h <|
      ite_sized (latch_sized h) <|
      updClu_sized (updPart_sized h id) fun ht => by simpa [Cluster.sized] using ht
  · exact h

theorem execRemoteRequest_sized {g st} (h : s.sized) : (outOf s (execRemoteRequest g st s)).sized := by
  refine next_sized ?_
  dsimp only
  split
  · split
    · exact ite_sized (updStr_sized (updClu_sized h id)) h
    · exact h
  · exact h

theorem execRemoteGrant_sized {g} (h : s.sized) : (outOf s (execRemoteGrant g s)).sized := by
  refine next_sized ?_
  dsimp only
  split
  · split
    · exact updStr_sized (updClu_sized h id)
    · exact h
  · exact h

theorem execRemoteRelease_sized {g} (h : s.sized) : (outOf s (execRemoteRelease g s)).sized := by
  refine next_sized ?_
  dsimp only
  split
  · exact updClu_sized h id
  · exact h

theorem icacheRead_sized {p g b line obs} (h : s.sized) : (s.icacheRead p g b line obs).sized :=
  ite_sized (latch_sized (observe_sized h)) <|
  fresh_sized (fetchAll_sized (updClu_sized (observe_sized h) Cluster.icacheAdd_sized))

theorem execIcacheFill_sized {g b line obs} (h : s.sized) : (outOf s (execIcacheFill g b line obs s)).sized := by
  refine next_sized ?_
  dsimp only
  split
  · exact ite_sized h (ite_sized (biAsk_sized h) (icacheRead_sized h))
  · exact h

theorem execIcacheParityRefetch_sized {g b line again obs} (h : s.sized) :
    (outOf s (execIcacheParityRefetch g b line again obs s)).sized := by
  refine next_sized ?_
  dsimp only
  split
  · exact ite_sized h <|
      ite_sized (biAsk_sized h) <|
      ite_sized (latch_sized (updClu_sized h id)) <|
      icacheRead_sized (updClu_sized h id)
  · exact h

/-! ## Loads -/

theorem convMove_sized {hd g st w src dst els} (h : s.sized) : (convMove s hd g st w src dst els).sized :=
  count_sized (wrSettled_sized (draws_sized h))

theorem loadBody_sized {g hd args} (h : s.sized) : (loadBody g hd args s).sized := by
  unfold loadBody
  split
  · exact issueCommon_sized (convMove_sized h)
  · exact h

theorem execLdt_sized {g obs} (h : s.sized) : (outOf s (execLdt g obs s)).sized :=
  next_sized (withArgs_sized h loadBody_sized)

theorem execLds_sized {g obs} (h : s.sized) : (outOf s (execLds g obs s)).sized :=
  next_sized (withArgs_sized h loadBody_sized)

theorem execLdx_sized {g obs} (h : s.sized) : (outOf s (execLdx g obs s)).sized :=
  next_sized (withArgs_sized h loadBody_sized)

theorem convRows_sized {hd g st w src cut full els} (h : s.sized) : (convRows s hd g st w src cut full els).sized :=
  count_sized (wrSettled_sized (draws_sized h))

theorem afterIndices_sized {hd g st l n} (h : s.sized) : (afterIndices s hd g st l n).sized := by
  unfold afterIndices
  split
  · exact latch_sized h
  · exact issueCommon_sized h

theorem gathBody_sized {g hd args} (h : s.sized) : (gathBody g hd args s).sized := by
  unfold gathBody
  split
  · exact afterIndices_sized (convRows_sized h)
  · exact h

theorem execGath_sized {g obs} (h : s.sized) : (outOf s (execGath g obs s)).sized :=
  next_sized (withArgs_sized h gathBody_sized)

/-! ## Reductions, orders, scans and their rally forms -/

theorem putResults_sized {p g dst set res} (h : s.sized) : (s.putResults p g dst set res).sized :=
  count_sized (wrArg_sized h)

theorem rlyFinish_sized {p r} (h : s.sized) : (s.rlyFinish p r).sized := by
  unfold State.rlyFinish
  split
  · dsimp only
    split
    · exact latch_sized (spSeen_sized (ite_sized h (fresh_sized h)))
    · exact keepLate_sized (putResults_sized (spSeen_sized (ite_sized h (fresh_sized h))))
  · exact h

theorem rlyRoot_sized {p x t} (h : s.sized) : (s.rlyRoot p x t).sized := by
  unfold State.rlyRoot
  split
  · exact ite_sized h <|
      ite_sized (rlyFinish_sized (updPart_sized (suspect_sized (updPort_sized h)) id)) <|
      updPart_sized (suspect_sized (updPort_sized h)) id
  · exact h

theorem rlyCollect_sized {p x} (h : s.sized) : (s.rlyCollect p x).sized := foldl_sized h rlyRoot_sized

theorem child_sized {p x c} (h : s.sized) : (s.child p x c).sized := by
  unfold State.child
  split
  · exact h
  · dsimp only
    split
    · exact latch_sized h
    · exact rlyCollect_sized (updPort_sized h)

theorem retryReduce_sized {n p x} (h : s.sized) : (retryReduce n p x s).sized := by
  induction n generalizing s with
  | zero => exact h
  | succ n ih =>
    unfold retryReduce
    split
    · exact ih (child_sized (updPart_sized h id))
    · split
      · split
        · exact ih (child_sized (freeBuf_sized (updPort_sized h)))
        · exact h
      · exact h

theorem childAndRest_sized {p x c} (h : s.sized) : (s.childAndRest p x c).sized := retryReduce_sized (child_sized h)

theorem placeOwn_sized {p x r lines} (h : s.sized) : (s.placeOwn p x r lines).sized :=
  retryReduce_sized (updPart_sized h id)

theorem reduceBody_sized {g hd args} (h : s.sized) : (reduceBody g hd args s).sized := by
  unfold reduceBody
  extract_lets x ax sum pick go
  have hgo {src src2 dst idst} : (go src src2 dst idst).sized := by
    dsimp only [go]
    split
    · refine issueCommon_sized ?_
      split
      · exact wrArg_sized (putResults_sized (draws_sized h))
      · exact putResults_sized (draws_sized h)
    · exact h
  clear_value go
  split
  · exact hgo
  · exact ite_sized hgo hgo
  · exact h

theorem execRsum_sized {g obs} (h : s.sized) : (outOf s (execRsum g obs s)).sized :=
  next_sized (withArgs_sized h reduceBody_sized)

theorem execRmax_sized {g obs} (h : s.sized) : (outOf s (execRmax g obs s)).sized :=
  next_sized (withArgs_sized h reduceBody_sized)

theorem execRmin_sized {g obs} (h : s.sized) : (outOf s (execRmin g obs s)).sized :=
  next_sized (withArgs_sized h reduceBody_sized)

theorem execRssq_sized {g obs} (h : s.sized) : (outOf s (execRssq g obs s)).sized :=
  next_sized (withArgs_sized h reduceBody_sized)

theorem execRdot_sized {g obs} (h : s.sized) : (outOf s (execRdot g obs s)).sized :=
  next_sized (withArgs_sized h reduceBody_sized)

theorem execArgmx_sized {g obs} (h : s.sized) : (outOf s (execArgmx g obs s)).sized :=
  next_sized (withArgs_sized h reduceBody_sized)

theorem execArgmn_sized {g obs} (h : s.sized) : (outOf s (execArgmn g obs s)).sized :=
  next_sized (withArgs_sized h reduceBody_sized)

theorem orderBody_sized {g st k desc ax src dst idst hd} (h : s.sized) :
    (orderBody g st k desc ax src dst idst hd s).sized := by
  unfold orderBody
  split
  · exact issueCommon_sized (wrArg_sized (wrArg_sized h))
  · exact h

theorem execTopk_sized {g obs} (h : s.sized) : (outOf s (execTopk g obs s)).sized := by
  refine next_sized (withArgs_sized h fun ht => ?_)
  split
  · exact orderBody_sized ht
  · exact ht

theorem scanBody_sized {g hd args} (h : s.sized) : (scanBody g hd args s).sized := by
  unfold scanBody
  split
  · split
    · exact issueCommon_sized (putResults_sized (draws_sized h))
    · exact h
  · exact h

theorem execScan_sized {g obs} (h : s.sized) : (outOf s (execScan g obs s)).sized :=
  next_sized (withArgs_sized h scanBody_sized)

theorem xredBody_sized {obs g hd args} (h : s.sized) : (xredBody obs g hd args s).sized := by
  unfold xredBody
  split
  · split
    · exact ite_sized (latch_sized h) (issueCommon_sized (updClu_sized (draws_sized h) id))
    · exact h
  · exact h

theorem execXred_sized {g obs} (h : s.sized) : (outOf s (execXred g obs s)).sized :=
  next_sized (withArgs_sized h xredBody_sized)

theorem xredDeliver_sized {p ps susp me} (h : s.sized) : (s.xredDeliver p ps susp me).sized := by
  unfold State.xredDeliver
  dsimp only
  split
  · exact updStr_sized (updClu_sized (keepLate_sized (putResults_sized (suspect_sized h))) id)
  · exact h

theorem execXredResult_sized {p xtag k obs first} (h : s.sized) :
    (outOf s (execXredResult p xtag k obs s first)).sized := by
  refine next_sized ?_
  dsimp only
  split
  · exact h
  · split
    · exact h
    · split
      · exact latch_sized (spSeen_sized h)
      · split
        · exact latch_sized (spSeen_sized h)
        · exact foldl_sized (spSeen_sized h) xredDeliver_sized

theorem rlyBody_sized {obs g hd args} (h : s.sized) : (rlyBody obs g hd args s).sized := by
  unfold rlyBody
  split
  · split
    · extract_lets q w x rid kind axc ax rack k err member exts b need epoch x0 home c8
      refine ite_sized (latch_sized h) (ite_sized (latch_sized h) (ite_sized (latch_sized h) ?_))
      split
      split
      next rs t e =>
        have ht : t.sized := draws_eq_sized h e
        extract_lets r u v
        have hv : v.sized := issueCommon_sized (updPart_sized ht id)
        exact ite_sized (latch_sized hv) (ite_sized (placeOwn_sized hv) (foldl_sized (placeOwn_sized hv) route_sized))
    · exact h
  · exact h

theorem execRly_sized {g obs} (h : s.sized) : (outOf s (execRly g obs s)).sized :=
  next_sized (withArgs_sized h rlyBody_sized)

/-! ## Permutes and stores -/

theorem moveBody_sized {g hd src dst f} (h : s.sized) : (moveBody g hd src dst f s).sized :=
  issueCommon_sized (wrSettled_sized h)

theorem repackBody_sized {g hd src dst f} (h : s.sized) : (repackBody g hd src dst f s).sized :=
  issueCommon_sized (count_sized (wrSettled_sized (draws_sized h)))

/-- An operation of two operands keeps the items when its body does. -/
theorem twoArgs_sized {args} {f : Arg → Arg → State} (h : s.sized) (hf : ∀ {a b}, (f a b).sized) :
    (twoArgs args s f).sized := by
  unfold twoArgs
  split
  · exact hf
  · exact h

theorem execTrn_sized {g obs} (h : s.sized) : (outOf s (execTrn g obs s)).sized := by
  refine next_sized (withArgs_sized h fun ht => twoArgs_sized ht fun {_ _} => ?_)
  split
  · exact repackBody_sized ht
  · exact moveBody_sized ht

theorem execPerm_sized {g obs} (h : s.sized) : (outOf s (execPerm g obs s)).sized := by
  refine next_sized (withArgs_sized h fun ht => twoArgs_sized ht fun {_ _} => ?_)
  split
  · exact repackBody_sized ht
  · exact moveBody_sized ht

theorem execCpy_sized {g obs} (h : s.sized) : (outOf s (execCpy g obs s)).sized :=
  next_sized (withArgs_sized h fun ht => twoArgs_sized ht (moveBody_sized ht))

theorem execBcst_sized {g obs} (h : s.sized) : (outOf s (execBcst g obs s)).sized :=
  next_sized (withArgs_sized h fun ht => twoArgs_sized ht (moveBody_sized ht))

theorem execScat_sized {g obs} (h : s.sized) : (outOf s (execScat g obs s)).sized := by
  refine next_sized (withArgs_sized h fun ht => ?_)
  split
  · exact afterIndices_sized (wrSettled_sized ht)
  · exact ht

theorem execGatp_sized {g obs} (h : s.sized) : (outOf s (execGatp g obs s)).sized := by
  refine next_sized (withArgs_sized h fun ht => ?_)
  split
  · exact afterIndices_sized (wrSettled_sized ht)
  · exact ht

theorem packBody_sized {g hd args} (h : s.sized) : (packBody g hd args s).sized :=
  twoArgs_sized h (issueCommon_sized (convMove_sized h))

theorem execPack_sized {g obs} (h : s.sized) : (outOf s (execPack g obs s)).sized :=
  next_sized (withArgs_sized h packBody_sized)

theorem execUnpk_sized {g obs} (h : s.sized) : (outOf s (execUnpk g obs s)).sized :=
  next_sized (withArgs_sized h packBody_sized)

theorem execSort_sized {g obs} (h : s.sized) : (outOf s (execSort g obs s)).sized := by
  refine next_sized (withArgs_sized h fun ht => ?_)
  split
  · exact orderBody_sized ht
  · exact ht

theorem storeBody_sized {g hd args} (h : s.sized) : (storeBody g hd args s).sized :=
  twoArgs_sized h (issueCommon_sized (convMove_sized h))

theorem execStt_sized {g obs} (h : s.sized) : (outOf s (execStt g obs s)).sized :=
  next_sized (withArgs_sized h storeBody_sized)

theorem execStx_sized {g obs} (h : s.sized) : (outOf s (execStx g obs s)).sized :=
  next_sized (withArgs_sized h storeBody_sized)

theorem putBody_sized {g hd args} (h : s.sized) : (putBody g hd args s).sized := by
  unfold putBody
  refine twoArgs_sized h fun {_ _} => ?_
  extract_lets q dev member
  clear_value member
  split
  · refine ite_sized (latch_sized h) ?_
    dsimp only
    split
    · exact h
    · exact issueCommon_sized <| fresh_sized <| route_sized <|
        foldl_sized (updPart_sized (count_sized (draws_sized h)) id) route_sized
  · exact latch_sized h

theorem execPut_sized {g obs} (h : s.sized) : (outOf s (execPut g obs s)).sized :=
  next_sized (withArgs_sized h putBody_sized)

theorem execDone_sized {g obs} (h : s.sized) : (outOf s (execDone g obs s)).sized :=
  next_sized <| withHead_sized h fun {_} =>
  ite_sized (latch_sized h) <|
  ite_sized (latch_sized h) <|
  ite_sized (latch_sized h) <|
  ite_sized (latch_sized h) <|
  issueCommon_sized h

theorem execFence_sized {g obs} (h : s.sized) : (outOf s (execFence g obs s)).sized :=
  next_sized (withHead_sized h fun {_} => ite_sized (latch_sized h) (issueCommon_sized h))

/-! ## Frames that arrive at a port, and the timers of its link -/

/-- A frame keeps the items when what its acceptance does keeps them. -/
theorem onFrame_sized {x f mine} {body : State → State} (h : s.sized)
    (hb : ∀ {t : State}, t.sized → (body t).sized) : (onFrame s x f mine body).sized := by
  have hr := receive_sized (x := x) (f := f) h
  unfold onFrame
  split
  · exact h
  · split
    next t e => rwa [e] at hr
    next t e => exact hb (by rwa [e] at hr)

/-- A frame keeps the items when its meaning here and its refusal elsewhere keep them. -/
theorem arrive_sized {x f mine} {other : State → State} {body : Nat → State → State} (h : s.sized)
    (ho : ∀ {t : State}, t.sized → (other t).sized) (hb : ∀ {p} {t : State}, t.sized → (body p t).sized) :
    (arrive s x f mine other body).sized := by
  unfold arrive
  refine onFrame_sized h fun ht => ?_
  split
  · exact forward_sized ht
  · exact freeBuf_sized (dropFrame_sized (ho ht))
  · exact hb ht

theorem rxCounted_sized {p src} (h : s.sized) : (s.rxCounted p src).sized := updPart_sized h id

theorem refuse_sized {p src status} (h : s.sized) : (s.refuse p src status).sized :=
  updPart_sized (rxCounted_sized h) id

theorem execFrameWrite_sized {x f obs} (h : s.sized) : (outOf s (execFrameWrite x f obs s)).sized := by
  refine next_sized ?_
  dsimp only
  split
  · exact biAsk_sized h
  · refine arrive_sized h (fun ht => ?_) fun ht => ?_
    · split
      · exact refuse_sized ht
      · exact ht
    · refine freeBuf_sized ?_
      split
      · exact refuse_sized ht
      · exact rxCounted_sized (wrPa_sized (observe_sized ht))

theorem execFrameReadreq_sized {x f} (h : s.sized) : (outOf s (execFrameReadreq x f s)).sized :=
  next_sized <| arrive_sized h id fun ht =>
  ite_sized (freeBuf_sized (updPart_sized (readRsp_sized ht) id)) <|
  ite_sized (freeBuf_sized (updPort_sized ht)) <|
  updPort_sized ht

theorem execFlushTableRelease_sized {x} (h : s.sized) : (outOf s (execFlushTableRelease x s)).sized := by
  refine next_sized ?_
  dsimp only
  split
  · split
    · split
      · exact freeBuf_sized (updPort_sized (updPart_sized (readRsp_sized (updPort_sized h)) id))
      · exact updPart_sized (readRsp_sized (updPort_sized h)) id
    · exact h
  · exact h

theorem execFrameReadrsp_sized {x f} (h : s.sized) : (outOf s (execFrameReadrsp x f s)).sized := by
  refine next_sized (arrive_sized h id fun ht => ?_)
  dsimp only
  split
  · exact freeBuf_sized ht
  · split
    · exact freeBuf_sized ht
    · split
      · exact updStr_sized (freeBuf_sized ht)
      · exact latch_sized (freeBuf_sized ht)
      · exact latch_sized (freeBuf_sized ht)

theorem execFrameReduce_sized {x f suspect} (h : s.sized) : (outOf s (execFrameReduce x f suspect s)).sized := by
  refine next_sized (arrive_sized h id fun ht => ?_)
  dsimp only
  split
  · exact freeBuf_sized ht
  · split
    · exact latch_sized (freeBuf_sized ht)
    · exact ite_sized (updPort_sized ht) (childAndRest_sized (freeBuf_sized ht))

theorem execFrameHello_sized {x f} (h : s.sized) : (outOf s (execFrameHello x f s)).sized :=
  next_sized (onFrame_sized h fun ht => linkUp_sized (freeBuf_sized (updPort_sized ht)))

theorem execFrameAbort_sized {x f} (h : s.sized) : (outOf s (execFrameAbort x f s)).sized := by
  refine next_sized (arrive_sized h id fun ht => ?_)
  dsimp only
  split
  · exact ite_sized (dropFrame_sized (freeBuf_sized ht)) <|
      ite_sized (freeBuf_sized ht) <|
      ite_sized (updPart_sized (freeBuf_sized ht) id) <|
      foldl_sized (latch_sized (updPart_sized (freeBuf_sized ht) id)) route_sized
  · exact dropFrame_sized (freeBuf_sized ht)

theorem execFrameIdle_sized {x f} (h : s.sized) : (outOf s (execFrameIdle x f s)).sized :=
  next_sized (onFrame_sized h id)

theorem execLinkCrcTimeout_sized {x} (h : s.sized) : (outOf s (execLinkCrcTimeout x s)).sized :=
  next_sized (ite_sized (linkDown_sized h) h)

theorem execLinkReplayLimit_sized {x} (h : s.sized) : (outOf s (execLinkReplayLimit x s)).sized :=
  next_sized (ite_sized (linkDown_sized h) h)

theorem execLinkRetryTimer_sized {x} (h : s.sized) : (outOf s (execLinkRetryTimer x s)).sized :=
  next_sized (ite_sized (train_sized h) h)

theorem execReductionTimeout_sized {g st} (h : s.sized) : (outOf s (execReductionTimeout g st s)).sized := by
  refine next_sized ?_
  dsimp only
  split
  · split
    · split
      · exact latch_sized h
      · exact latch_sized h
      · exact h
    · exact h
  · exact h

/-! ## Rally settings and mover jobs -/

theorem Partition.applyRally_sized {r} {q : Partition} (h : q.sized) : (q.applyRally r).sized := by
  unfold Partition.applyRally
  dsimp only
  split
  · exact h
  · exact h

theorem rallySettle_sized {p} (h : s.sized) : (s.rallySettle p).sized := by
  unfold State.rallySettle
  split
  · exact ite_sized (updPart_sized h Partition.applyRally_sized) h
  · exact h

theorem execRallySetApply_sized {p} (h : s.sized) : (outOf s (execRallySetApply p s)).sized :=
  next_sized (rallySettle_sized h)

theorem updJob_sized {p id f} (h : s.sized) : (s.updJob p id f).sized :=
  updPart_sized h fun hq => hq

theorem submit_sized {p ctx kind key pa host len val} (h : s.sized) :
    (s.submit p ctx kind key pa host len val).sized := by
  unfold State.submit
  extract_lets q slot st latch j used t
  have ht : t.sized := updPart_sized h fun hq => by
    cases key with
    | none => exact hq
    | some k => cases used <;> simpa [Partition.sized] using hq
  exact ite_sized (send_sized ht) ht

theorem aerRead_sized {err} (h : s.sized) : (s.aerRead err).sized := by
  unfold State.aerRead
  split
  · exact aer_sized h
  · exact aer_sized h
  · exact h

theorem execHostReadCompletion_sized {p id off data err} (h : s.sized) :
    (outOf s (execHostReadCompletion p id off data s err)).sized := by
  refine next_sized ?_
  split
  · exact h
  · extract_lets q c l due
    refine ite_sized h ?_
    split
    · exact updJob_sized (aerRead_sized h)
    · exact ite_sized h (ite_sized (updJob_sized h) (ite_sized (biAsk_sized h) (updJob_sized (wrPa_sized h))))

theorem execSealChunk_sized {p id obs k} (h : s.sized) : (outOf s (execSealChunk p id obs s k)).sized := by
  refine next_sized ?_
  dsimp only
  split
  · exact h
  · split
    · exact h
    · exact ite_sized h <|
        ite_sized (biAsk_sized h) <|
        ite_sized (updJob_sized h) <|
        ite_sized (updJob_sized (observe_sized h)) <|
        updJob_sized (send_sized (observe_sized h))

theorem execUnsealChunk_sized {p id k} (h : s.sized) : (outOf s (execUnsealChunk p id s k)).sized := by
  refine next_sized ?_
  dsimp only
  split
  · exact h
  · split
    · exact h
    · split
      · exact h
      · split
        · exact updJob_sized h
        · split
          · exact biAsk_sized h
          · exact updJob_sized (wrPa_sized h)

theorem moveLine_sized {p j l} (h : s.sized) : (s.moveLine p j l).sized := ite_sized (send_sized h) (wrPa_sized h)

theorem moveAll_sized {p j ls} (h : s.sized) : (s.moveAll p j ls).1.sized :=
  foldl_sized h moveLine_sized

theorem abandon_sized {p j status} (h : s.sized) : (s.abandon p j status).sized :=
  ite_sized (endJob_sized (moveAll_sized (ite_sized (observe_sized h) h))) (endJob_sized h)

theorem execMoverJobEnd_sized {p id obs} (h : s.sized) : (outOf s (execMoverJobEnd p id obs s)).sized := by
  refine next_sized ?_
  dsimp only
  split
  · exact h
  · split
    · exact h
    · split
      · exact pump_sized (endJob_sized h)
      · exact ite_sized
          (ite_sized (biAsk_sized h) <|
            ite_sized (pump_sized (endJob_sized (moveAll_sized h))) <|
            pump_sized (endJob_sized (moveAll_sized (observe_sized h))))
          (ite_sized (pump_sized (endJob_sized h)) (ite_sized (pump_sized (endJob_sized h)) h))

/-! ## Launches, fault reports, device faults and partition resets -/

theorem Cluster.launched_sized {k : Cluster} {args rel count} (h : k.sized) : (k.launched args rel count).sized := by
  simp [Cluster.sized, Cluster.launched] at h ⊢
  omega

theorem execLaunchStart_sized {p} (h : s.sized) : (outOf s (execLaunchStart p s)).sized := by
  refine next_sized ?_
  dsimp only
  split
  · exact h
  · exact ite_sized h <|
      foldl_sized (updPart_sized (rallySettle_sized h) id) fun ht =>
        fetchAll_sized (updClu_sized ht Cluster.launched_sized)

theorem execLaunchEnd_sized {p obs} (h : s.sized) : (outOf s (execLaunchEnd p s obs)).sized := by
  refine next_sized ?_
  split
  · exact ite_sized (pump_sized (endRun_sized h)) h
  · exact h

theorem execDeadlineExpire_sized {p} (h : s.sized) : (outOf s (execDeadlineExpire p s)).sized := by
  refine next_sized ?_
  split
  · exact ite_sized (latch_sized h) h
  · exact h

theorem execFaultLatch_sized {p errs} (h : s.sized) : (outOf s (execFaultLatch p errs s)).sized :=
  next_sized (latchAll_sized h)

theorem execFaultReport_sized {p obs} (h : s.sized) : (outOf s (execFaultReport p s obs)).sized := by
  refine next_sized ?_
  dsimp only
  split
  · exact h
  · refine pump_sized (foldl_sized ?_ abandon_sized)
    refine updPart_sized ?_ id
    split
    · exact endRun_sized h
    · exact msix_sized (emit_sized h)

theorem Cluster.scrubbed_sized {k : Cluster} : k.scrubbed.sized := rfl

theorem unhold_sized {courts} (h : s.sized) : (s.unhold courts).sized :=
  foldl_sized h fun ht => ite_sized (tableAdd_sized ht) ht

/-- A scrub maps the lists of windows, clusters, courts and ports item by item; a scrubbed cluster is sized by itself. -/
theorem scrub_sized {cs keep} (h : s.sized) : (s.scrub cs keep).sized := by
  unfold State.scrub
  extract_lets t
  have ht : t.sized := ite_sized (unhold_sized h) h
  rw [sized_iff] at ht ⊢
  obtain ⟨hw, hp, hc, hcl, hch, hpo, hi, hk, hq⟩ := ht
  refine ⟨hw, by simpa using hp, by simpa using hc, by simpa using hcl, hch, by simpa using hpo, hi,
    List.forall_mem_map.mpr fun k hm => ?_, List.forall_mem_map.mpr hq⟩
  split
  · exact Cluster.scrubbed_sized
  · exact hk k.1 (List.fst_mem_of_mem_zipIdx hm)

theorem deviceLatch_sized {cause p} (h : s.sized) : (s.deviceLatch cause p).sized := by
  unfold State.deviceLatch
  split
  · exact h
  · exact latch_sized h
  · exact updPart_sized (lateErr_sized h) id

theorem keepCopy_sized {p} (h : s.sized) : (s.keepCopy p).sized := by
  unfold State.keepCopy
  split
  · exact updPart_sized (endRun_sized h) id
  · exact h

theorem cutFlash_sized (h : s.sized) : s.cutFlash.sized := by
  unfold State.cutFlash
  split
  · exact fresh_sized (updDev_sized h)
  · exact h

theorem faultAgain_sized {cause} (h : s.sized) : (s.faultAgain cause).sized :=
  ite_sized h (foldl_sized (updDev_sized h) fun ht => ite_sized ht (lateErr_sized ht))

/-- A state keeps its items when its list of windows is replaced by one of nine. -/
theorem windows_sized {ws} (h : s.sized) (hw : ws.length = 9) : ({ s with windows := ws } : State).sized := by
  rw [sized_iff] at h ⊢
  exact ⟨hw, h.2⟩

theorem deviceFault_sized {cause handler} (h : s.sized) : (s.deviceFault cause handler).sized := by
  unfold State.deviceFault
  split
  · exact faultAgain_sized h
  extract_lets t u v w
  have hu : u.sized := foldl_sized (updDev_sized h) fun ht => keepCopy_sized (deviceLatch_sized ht)
  clear_value u
  have hw : w.sized := windows_sized (cutFlash_sized hu) (by simpa using (sized_iff.mp hu).1)
  exact ite_sized hw (event_sized (ite_sized (send_sized hw) hw))

theorem execDeviceFault_sized {cause handler} (h : s.sized) : (outOf s (execDeviceFault cause s handler)).sized :=
  next_sized (ite_sized (deviceFault_sized h) h)

theorem rewritePoison_sized {p} (h : s.sized) : (s.rewritePoison p).sized :=
  updPart_sized (foldl_sized (foldl_sized h wrDa_sized) updChan_sized) id

theorem execPartitionReset_sized {p scrubError} (h : s.sized) :
    (outOf s (execPartitionReset p scrubError s)).sized :=
  next_sized <|
  ite_sized h <|
  ite_sized (biAsk_sized h) <|
  ite_sized (deviceFault_sized (scrub_sized (updPart_sized h id))) <|
  rewritePoison_sized (scrub_sized (updPart_sized h id))

theorem execPartitionResetEnd_sized {p} (h : s.sized) : (outOf s (execPartitionResetEnd p s)).sized :=
  next_sized (ite_sized (settle_sized (updPart_sized h fun ht => by simpa [Partition.sized] using ht)) h)

theorem reverify_sized {p b obs} (h : s.sized) : (s.reverify p b obs).sized :=
  updPart_sized (observe_sized h) fun ht => by simpa [Partition.sized] using ht

theorem execReverifyDone_sized {p obs} (h : s.sized) : (outOf s (execReverifyDone p obs s)).sized :=
  next_sized <|
  ite_sized h <|
  ite_sized (biAsk_sized h) <|
  settle_sized (updPart_sized (foldl_sized h reverify_sized) id)

/-! ## Lines of the device window -/

theorem hold_sized {w i} (h : s.sized) : (s.hold w i).sized := updWin_sized h

/-- A line keeps the items when the verb that takes effect does. -/
theorem atLine_sized {w i} {body : State → State} (h : s.sized) (hb : ∀ {t : State}, t.sized → (body t).sized) :
    (s.atLine w i body).sized :=
  ite_sized h (ite_sized (hold_sized h) (ite_sized (hold_sized (biAsk_sized h)) (hb h)))

theorem execHello_sized {l baud} (h : s.sized) : (outOf s (execHello l baud s)).sized := by
  refine next_sized (atLine_sized h fun ht => ?_)
  unfold verbHello
  split
  · exact no_sized ht
  · dsimp only
    split
    · exact updUart_sized (ok_sized ht)
    · exact ok_sized ht

theorem execUartBaudSwitch_sized (h : s.sized) : (outOf s (execUartBaudSwitch s)).sized := by
  refine next_sized ?_
  split
  · exact ite_sized (updUart_sized h) h
  · exact h

theorem Partition.defined_sized {q : Partition} {courts il mhz} : (q.defined courts il mhz).sized := rfl

theorem execPart_sized {l p courts il scrubError} (h : s.sized) :
    (outOf s (execPart l p courts il s scrubError)).sized :=
  next_sized <| atLine_sized h fun ht =>
  ite_sized (ignore_sized ht) <|
  ite_sized (ignore_sized ht) <|
  ite_sized (no_sized ht) <|
  ite_sized (deviceFault_sized (scrub_sized ht)) <|
  ok_sized (foldl_sized (updPart_sized (scrub_sized ht) fun _ => Partition.defined_sized) train_sized)

theorem execFree_sized {l p scrubError} (h : s.sized) : (outOf s (execFree l p s scrubError)).sized :=
  next_sized <| atLine_sized h fun ht =>
  ite_sized (ignore_sized ht) <|
  ite_sized (deviceFault_sized (scrub_sized (updPart_sized (dropRally_sized ht) id))) <|
  updWin_sized (scrub_sized (updPart_sized (dropRally_sized ht) id))

theorem Partition.released_sized {q : Partition} (h : q.sized) : q.released.sized := by
  simp [Partition.sized, Partition.released] at h ⊢
  exact h.2

theorem holdDown_sized {x} (h : s.sized) : (s.holdDown x).sized := linkEvent_sized (updPort_sized (emptyPort_sized h))

theorem execFreeDone_sized {p} (h : s.sized) : (outOf s (execFreeDone p s)).sized := by
  refine next_sized ?_
  dsimp only
  split
  · exact ite_sized h <|
      ok_sized <| updWin_sized <| updPart_sized (hf := Partition.released_sized) <|
      foldl_sized (ite_sized (updIde_sized (foldl_sized h zeroCourt_sized)) (foldl_sized h zeroCourt_sized))
        holdDown_sized
  · exact h

theorem execClock_sized {l p mhz} (h : s.sized) : (outOf s (execClock l p mhz s)).sized :=
  next_sized <| atLine_sized h fun ht =>
  ite_sized (ignore_sized ht) <|
  ite_sized (no_sized ht) <|
  updWin_sized (updPart_sized ht id)

theorem execRelockDone_sized {p} (h : s.sized) : (outOf s (execRelockDone p s)).sized := by
  refine next_sized ?_
  dsimp only
  split
  · exact ite_sized (ok_sized (updWin_sized (updPart_sized h id))) (updPart_sized h id)
  · exact h

theorem execLinkReport_sized {l x} (h : s.sized) : (outOf s (execLinkReport l x s)).sized :=
  next_sized (atLine_sized h fun ht => ite_sized (ignore_sized ht) (replies_sized ht))

theorem opDown_sized {x hold} (h : s.sized) : (s.opDown x hold).sized :=
  ite_sized (portDown_sized h) (linkEvent_sized (portDown_sized h))

theorem execLinkOpUp_sized {l x} (h : s.sized) : (outOf s (execLinkOpUp l x s)).sized :=
  next_sized (atLine_sized h fun ht => ite_sized (ignore_sized ht) (ok_sized (ite_sized (train_sized ht) ht)))

theorem execLinkOpDown_sized {l x} (h : s.sized) : (outOf s (execLinkOpDown l x s)).sized :=
  next_sized (atLine_sized h fun ht => ite_sized (ignore_sized ht) (ok_sized (opDown_sized ht)))

theorem execLinkOpRetrain_sized {l x} (h : s.sized) : (outOf s (execLinkOpRetrain l x s)).sized :=
  next_sized (atLine_sized h fun ht => ite_sized (ignore_sized ht) (ok_sized (train_sized (opDown_sized ht))))

theorem execLinkRack_sized {l n} (h : s.sized) : (outOf s (execLinkRack l n s)).sized :=
  next_sized <| atLine_sized h fun ht =>
  ite_sized (ignore_sized ht) <|
  ite_sized (no_sized ht) <|
  ok_sized (updDev_sized ht)

theorem execRoute_sized {l p dst x} (h : s.sized) : (outOf s (execRoute l p dst x s)).sized :=
  next_sized <| atLine_sized h fun ht =>
  ite_sized (ignore_sized ht) <|
  ite_sized (no_sized ht) <|
  ite_sized (no_sized ht) <|
  ok_sized (updPart_sized ht id)

theorem execGroup_sized {l p id members rto} (h : s.sized) : (outOf s (execGroup l p id members rto s)).sized := by
  refine next_sized (atLine_sized h fun ht => ?_)
  unfold verbGroup
  split
  · exact ignore_sized ht
  · dsimp only
    split
    · exact ignore_sized ht
    · split
      · exact no_sized ht
      · split
        · exact ok_sized (updPart_sized ht id)
        · exact ok_sized (updPart_sized ht id)

theorem execStatDevice_sized {l} (h : s.sized) : (outOf s (execStatDevice l s)).sized :=
  next_sized (atLine_sized h ok_sized)

theorem execStatParts_sized {l} (h : s.sized) : (outOf s (execStatParts l s)).sized :=
  next_sized (atLine_sized h replies_sized)

theorem execStatCourts_sized {l} (h : s.sized) : (outOf s (execStatCourts l s)).sized :=
  next_sized (atLine_sized h replies_sized)

theorem execStatDeviceCounters_sized {l} (h : s.sized) : (outOf s (execStatDeviceCounters l s)).sized :=
  next_sized (atLine_sized h replies_sized)

theorem execTemp_sized {l} (h : s.sized) : (outOf s (execTemp l s)).sized :=
  next_sized (atLine_sized h fun ht => ite_sized (ignore_sized ht) (ok_sized ht))

theorem execEcho_sized {l on} (h : s.sized) : (outOf s (execEcho l on s)).sized :=
  next_sized (atLine_sized h fun ht => ite_sized (ignore_sized ht) (ok_sized (updUart_sized ht)))

theorem execResetCommand_sized {l} (h : s.sized) : (outOf s (execResetCommand l s)).sized :=
  next_sized (atLine_sized h fun ht => ite_sized (ignore_sized ht) (updDev_sized (ok_sized ht)))

/-! ## Lines of a partition window -/

theorem execLoad_sized {l p b src len} (h : s.sized) : (outOf s (execLoad l p b src len s)).sized :=
  next_sized <| atLine_sized h fun ht =>
  ite_sized (ignore_sized ht) <|
  ite_sized (no_sized ht) <|
  ite_sized (no_sized ht) <|
  settle_sized <| foldl_sized (updPart_sized ht fun hq => by simpa [Partition.sized] using hq)
    fun hu => updClu_sized hu id

theorem execLoadDone_sized {p obs} (h : s.sized) : (outOf s (execLoadDone p obs s)).sized := by
  refine next_sized ?_
  dsimp only
  split
  · exact h
  · split
    · exact h
    · split
      · exact biAsk_sized h
      · split
        · exact no_sized <|
            updPart_sized (ite_sized (observe_sized h) (wrPa_sized (observe_sized h)))
              fun hq => by simpa [Partition.sized] using hq
        · exact ok_sized <|
            updPart_sized (ite_sized (observe_sized h) (wrPa_sized (observe_sized h)))
              fun hq => by simpa [Partition.sized] using hq

theorem execSwap_sized {l p} (h : s.sized) : (outOf s (execSwap l p s)).sized :=
  next_sized <| atLine_sized h fun ht =>
  ite_sized (ignore_sized ht) <|
  ite_sized (no_sized ht) <|
  ok_sized (updPart_sized ht id)

theorem execGo_sized {l p img args dl nc done} (h : s.sized) : (outOf s (execGo l p img args dl nc done s)).sized :=
  next_sized <| atLine_sized h fun ht =>
  ite_sized (ignore_sized ht) <|
  ite_sized (no_sized ht) <|
  ite_sized (no_sized ht) <|
  ok_sized (updPart_sized ht id)

theorem execWait_sized {l p} (h : s.sized) : (outOf s (execWait l p s)).sized :=
  next_sized (atLine_sized h fun ht => ite_sized (ignore_sized ht) (ok_sized (updPart_sized ht id)))

theorem execSig_sized {l p} (h : s.sized) : (outOf s (execSig l p s)).sized :=
  next_sized <| atLine_sized h fun ht =>
  ite_sized (ignore_sized ht) <|
  ite_sized (no_sized ht) <|
  ok_sized (updPart_sized ht id)

theorem execHalt_sized {l p} (h : s.sized) : (outOf s (execHalt l p s)).sized :=
  next_sized <| atLine_sized h fun ht =>
  ite_sized (ignore_sized ht) <|
  pumpFree_sized (updWin_sized (updPart_sized ht id))

theorem execAbort_sized {l p} (h : s.sized) : (outOf s (execAbort l p s)).sized :=
  next_sized (atLine_sized h fun ht => ite_sized (ignore_sized ht) (ok_sized (latch_sized ht)))

theorem execSet_sized {l p nc dl} (h : s.sized) : (outOf s (execSet l p nc dl s)).sized :=
  next_sized <| atLine_sized h fun ht =>
  ite_sized (ignore_sized ht) <|
  ite_sized (ignore_sized ht) <|
  ite_sized (no_sized ht) <|
  ok_sized (updPart_sized ht id)

theorem stageShard_sized {p idx e} (h : s.sized) : (s.stageShard p idx e).sized := updPart_sized h id

theorem execShard_sized {l p idx g pp c dev} (h : s.sized) : (outOf s (execShard l p idx g pp c dev s)).sized := by
  refine next_sized (atLine_sized h fun ht => ?_)
  unfold verbShard
  dsimp only
  split
  · exact ignore_sized ht
  · split
    · exact no_sized ht
    · exact ite_sized (no_sized ht) (ite_sized (no_sized ht) (ok_sized (stageShard_sized ht)))

theorem execShardDrop_sized {l p idx} (h : s.sized) : (outOf s (execShardDrop l p idx s)).sized :=
  next_sized <| atLine_sized h fun ht =>
  ite_sized (ignore_sized ht) <|
  ite_sized (no_sized ht) <|
  ok_sized (stageShard_sized ht)

theorem execCommit_sized {l p} (h : s.sized) : (outOf s (execCommit l p s)).sized := by
  refine next_sized (atLine_sized h fun ht => ?_)
  unfold verbCommit
  split
  · exact ignore_sized ht
  · split
    · exact no_sized ht
    · exact ok_sized (settle_sized (updPart_sized ht id))

theorem execStatPartition_sized {l p} (h : s.sized) : (outOf s (execStatPartition l p s)).sized :=
  next_sized (atLine_sized h ok_sized)

theorem execStatSlots_sized {l p} (h : s.sized) : (outOf s (execStatSlots l p s)).sized :=
  next_sized (atLine_sized h replies_sized)

theorem execStatKeys_sized {l p} (h : s.sized) : (outOf s (execStatKeys l p s)).sized :=
  next_sized (atLine_sized h replies_sized)

theorem execStatPartCounters_sized {l p} (h : s.sized) : (outOf s (execStatPartCounters l p s)).sized :=
  next_sized (atLine_sized h replies_sized)

theorem execStatShard_sized {l p idx} (h : s.sized) : (outOf s (execStatShard l p idx s)).sized := by
  refine next_sized (atLine_sized h fun ht => ?_)
  unfold verbStatShard
  dsimp only
  split
  · exact no_sized ht
  · split
    · exact replies_sized ht
    · exact no_sized ht

theorem execStatPoison_sized {l p} (h : s.sized) : (outOf s (execStatPoison l p s)).sized :=
  next_sized (atLine_sized h fun ht => updPart_sized (replies_sized ht) id)

theorem execTally_sized {l p set} (h : s.sized) : (outOf s (execTally l p set s)).sized := by
  refine next_sized (atLine_sized h fun ht => ?_)
  unfold verbTally
  dsimp only
  split
  · exact ignore_sized ht
  · split
    · exact no_sized ht
    · split
      · exact no_sized ht
      · exact replies_sized ht

theorem execKey_sized {l p slot wrap} (h : s.sized) : (outOf s (execKey l p slot wrap s)).sized := by
  refine next_sized (atLine_sized h fun ht => ?_)
  unfold verbKey
  split
  · exact ignore_sized ht
  · split
    · exact no_sized ht
    · split
      · exact no_sized ht
      · exact ok_sized (updPart_sized ht fun hu => by simpa [Partition.sized] using hu)

theorem execUnkey_sized {l p slot} (h : s.sized) : (outOf s (execUnkey l p slot s)).sized :=
  next_sized <| atLine_sized h fun ht =>
  ite_sized (ignore_sized ht) <|
  ite_sized (no_sized ht) <|
  ok_sized (updPart_sized ht fun hu => by simpa [Partition.sized] using hu)

theorem submitJob_sized {l p kind key pa host len val} (h : s.sized) :
    (submitJob l p kind key pa host len val s).sized :=
  ite_sized (ignore_sized h) (ite_sized (no_sized h) (ite_sized (no_sized h) (submit_sized h)))

theorem execMove_sized {l p out pa host len key} (h : s.sized) :
    (outOf s (execMove l p out pa host len key s)).sized :=
  next_sized (atLine_sized h submitJob_sized)

theorem execFill_sized {l p pa len val} (h : s.sized) : (outOf s (execFill l p pa len val s)).sized :=
  next_sized (atLine_sized h submitJob_sized)

/-! ## Debug lines and drills -/

/-- A debug line keeps the items when its verb does. -/
theorem debugVerb_sized {l p state} {body : State → State} (h : s.sized)
    (hb : ∀ {t : State}, t.sized → (body t).sized) : (debugVerb l p state s body).sized :=
  ite_sized (ignore_sized h) (ite_sized (ignore_sized h) (hb (updPart_sized h id)))

theorem armBreak_sized {l p ok b} (h : s.sized) : (armBreak l p ok b s).sized :=
  debugVerb_sized h fun ht => ite_sized (no_sized h) (ite_sized (no_sized h) (ok_sized (updPart_sized ht id)))

theorem execBreakCount_sized {l p cl st n} (h : s.sized) : (outOf s (execBreakCount l p cl st n s)).sized :=
  next_sized (atLine_sized h armBreak_sized)

theorem execBreakTag_sized {l p tag} (h : s.sized) : (outOf s (execBreakTag l p tag s)).sized :=
  next_sized (atLine_sized h armBreak_sized)

theorem execBreakDrop_sized {l p} (h : s.sized) : (outOf s (execBreakDrop l p s)).sized :=
  next_sized (atLine_sized h fun ht => debugVerb_sized ht fun hu => ok_sized (updPart_sized hu id))

theorem execBreakStopped_sized {p} (h : s.sized) : (outOf s (execBreakStopped p s)).sized := by
  refine next_sized ?_
  split
  · exact ite_sized (emit_sized (updPart_sized h id)) h
  · exact h

theorem setStop_sized {p x} (h : s.sized) : (s.setStop p x).sized := updPart_sized h id

theorem execStep_sized {l p cl st m} (h : s.sized) : (outOf s (execStep l p cl st m s)).sized :=
  next_sized <| atLine_sized h fun ht => debugVerb_sized ht fun hu =>
  ite_sized (no_sized ht) <|
  ok_sized (setStop_sized hu)

theorem execCont_sized {l p} (h : s.sized) : (outOf s (execCont l p s)).sized :=
  next_sized (atLine_sized h fun ht => debugVerb_sized ht fun hu => ok_sized (setStop_sized hu))

theorem peekSp_sized {g a n} (h : s.sized) : (s.peekSp g a n).sized := fresh_sized (updClu_sized h id)

theorem execPeek_sized {l p cl what st reg addr len} (h : s.sized) :
    (outOf s (execPeek l p cl what st reg addr len s)).sized :=
  next_sized <| atLine_sized h fun ht =>
  ite_sized (ignore_sized ht) <|
  debugVerb_sized ht fun hu =>
  ite_sized (no_sized ht) <|
  replies_sized <|
  ite_sized (peekSp_sized (ite_sized (passTime_sized hu) hu)) <|
  ite_sized (passTime_sized hu) hu

theorem pokeCluster_sized {k : Cluster} {what st reg addr v data} (h : k.sized) :
    (pokeCluster k what st reg addr v data).sized := by
  cases what with
  | region | q => exact h
  | a | l => exact Cluster.updStr_sized h
  | sp | v | e | w | t | tally => simpa [Cluster.sized, pokeCluster] using h

theorem pokeSp_sized {p g a n} (h : s.sized) : (s.pokeSp p g a n).2.sized := by
  unfold State.pokeSp
  extract_lets bytes words obs t
  have ht : t.sized := ite_sized h (fresh_sized h)
  split
  · exact latch_sized ht
  · exact spSeen_sized ht

theorem execPoke_sized {l p cl what st reg addr val data} (h : s.sized) :
    (outOf s (execPoke l p cl what st reg addr val data s)).sized := by
  refine next_sized <| atLine_sized h fun ht => ite_sized (ignore_sized ht) <|
    ite_sized (ignore_sized ht) <| ite_sized (ignore_sized ht) <| debugVerb_sized ht fun {t} hu => ?_
  extract_lets a v n ok g
  refine ite_sized (no_sized ht) ?_
  have hp : (if what == .sp then t.pokeSp p g a n else (true, t)).2.sized := by
    split
    · exact pokeSp_sized hu
    · exact hu
  generalize (if what == .sp then t.pokeSp p g a n else (true, t)) = r at hp ⊢
  obtain ⟨may, u⟩ := r
  dsimp -zeta only at hp ⊢
  extract_lets w x
  have hw : w.sized := ite_sized (land_sized hp) hp
  have hx : x.sized := ite_sized (updClu_sized hw pokeCluster_sized) hw
  exact ok_sized (ite_sized (fetch_sized hx) hx)

theorem execLock_sized {l p proof} (h : s.sized) : (outOf s (execLock l p proof s)).sized := by
  refine next_sized (atLine_sized h fun ht => ?_)
  unfold verbLock
  split
  · exact ignore_sized ht
  · exact ite_sized (ok_sized (updIde_sized (updPart_sized ht id))) (no_sized (updPart_sized ht id))

theorem startPass_sized {c} (h : s.sized) : (s.startPass c).sized :=
  foldl_sized (updCourt_sized h) fun ht => updClu_sized ht id

theorem nextPass_sized {c} (h : s.sized) : (s.nextPass c).sized := by
  unfold State.nextPass
  split
  · exact h
  · split
    · exact updDev_sized (startPass_sized h)
    · exact h

theorem execDrillCourts_sized {l courts} (h : s.sized) : (outOf s (execDrillCourts l courts s)).sized :=
  next_sized <| atLine_sized h fun ht =>
  ite_sized (ignore_sized ht) <|
  ite_sized (ignore_sized ht) <|
  foldl_sized (updDev_sized ht) nextPass_sized

theorem execDrillPartition_sized {l p} (h : s.sized) : (outOf s (execDrillPartition l p s)).sized :=
  next_sized <| atLine_sized h fun ht =>
  ite_sized (ignore_sized ht) <|
  updPart_sized (foldl_sized ht startPass_sized) id

theorem execDrillSchedule_sized {c} (h : s.sized) : (outOf s (execDrillSchedule c s)).sized :=
  next_sized (ite_sized (startPass_sized h) h)

theorem Cluster.afterRun_sized {k : Cluster} {kernel n} (h : k.sized) : (k.afterRun kernel n).sized := by
  simp [Cluster.sized, Cluster.afterRun] at h ⊢
  omega

theorem passOver_sized {c} (h : s.sized) : (s.passOver c).sized := by
  unfold State.passOver
  dsimp only
  split
  · exact updPart_sized (updDev_sized (updCourt_sized h)) id
  · exact updDev_sized (updCourt_sized h)

theorem execDrillKernelEnd_sized {g pass obs} (h : s.sized) : (outOf s (execDrillKernelEnd g pass s obs)).sized := by
  refine next_sized ?_
  extract_lets pass c kernel own t u v w
  clear_value own
  have ht : t.sized := by
    refine updClu_sized h fun hk => ?_
    split
    · simpa [Cluster.sized] using Cluster.afterRun_sized hk
    · simpa [Cluster.sized] using hk
  have hu : u.sized := foldl_sized (fresh_sized ht) fun hs =>
    updClu_sized hs fun hk => by simpa [Cluster.sized] using hk
  have hv : v.sized := updDev_sized hu
  clear_value t u v
  have hw : w.sized := by
    unfold w
    split
    · exact updPart_sized hu fun hq => hq
    · split
      · exact hv
      · exact event_sized hv
  exact ite_sized h (ite_sized (nextPass_sized (passOver_sized hw)) hw)

theorem execDrillPassDone_sized {w} (h : s.sized) : (outOf s (execDrillPassDone w s)).sized := by
  refine next_sized ?_
  dsimp only
  split
  · exact h
  · split
    · split
      · split
        · exact replies_sized (updDev_sized h)
        · exact h
      · exact h
    · split
      · exact ite_sized (ok_sized (updPart_sized h id)) h
      · exact h

/-! ## Attestation, sessions and firmware -/

theorem execAttest_sized {l nonce} (h : s.sized) : (outOf s (execAttest l nonce s)).sized :=
  next_sized (atLine_sized h fun ht => ite_sized (ignore_sized ht) (ite_sized (no_sized ht) (updDev_sized ht)))

theorem execAttestReportDone_sized (h : s.sized) : (outOf s (execAttestReportDone s)).sized := by
  refine next_sized ?_
  dsimp only
  split
  · exact h
  · exact ite_sized h (replies_sized h)

theorem execSession_sized {l p pub} (h : s.sized) : (outOf s (execSession l p pub s)).sized := by
  refine next_sized (atLine_sized h fun ht => ?_)
  unfold verbSession
  dsimp only
  split
  · exact ignore_sized ht
  · split
    · exact no_sized ht
    · split
      · exact no_sized ht
      · split
        · exact no_sized ht
        · exact ok_sized (updPart_sized (updDev_sized ht) id)

theorem execFwStat_sized {l} (h : s.sized) : (outOf s (execFwStat l s)).sized :=
  next_sized (atLine_sized h fun ht => ite_sized (ignore_sized ht) (replies_sized ht))

theorem coreRead_sized {lines} (h : s.sized) : (s.coreRead lines).sized := fresh_sized (observe_sized h)

theorem startFlash_sized {l b} (h : s.sized) : (s.startFlash l b).sized := updWin_sized (updDev_sized h)

theorem flashDone_sized (h : s.sized) : s.flashDone.sized := by
  unfold State.flashDone
  split
  · exact ite_sized (no_sized (updWin_sized (updDev_sized h))) (ok_sized (updWin_sized (updDev_sized h)))
  · exact h

theorem execFwWrite_sized {l src len} (h : s.sized) : (outOf s (execFwWrite l src len s)).sized :=
  next_sized <| atLine_sized h fun ht =>
  ite_sized (ignore_sized ht) <|
  ite_sized (ignore_sized ht) <|
  ite_sized (no_sized ht) <|
  ite_sized (no_sized (coreRead_sized ht)) <|
  startFlash_sized (coreRead_sized ht)

/-! ## Resets, power, boot and the board -/

/-- The state right after reset has every numbered item. -/
theorem reset_sized : State.reset.sized := by
  simp [State.sized, State.reset, Cluster.sized, Partition.sized]

theorem deviceReset_sized {srcs} : (s.deviceReset srcs).sized := reset_sized

theorem assert_sized {r} : (s.assert r).sized := deviceReset_sized

theorem release_sized {r} (h : s.sized) : (s.release r).sized :=
  ite_sized h (ite_sized (updUart_sized (updDev_sized (updDev_sized h))) (updDev_sized h))

theorem powerLost_sized : s.powerLost.sized := reset_sized

theorem execResetCommandFire_sized (h : s.sized) : (outOf s (execResetCommandFire s)).sized :=
  next_sized (ite_sized assert_sized h)

theorem execResetN_sized {ns} (h : s.sized) : (outOf s (execResetN ns s)).sized :=
  next_sized (ite_sized assert_sized h)

theorem execPerstN_sized {b} (h : s.sized) : (outOf s (execPerstN b s)).sized :=
  next_sized (ite_sized h (ite_sized assert_sized (updHost_sized (updBoard_sized h))))

theorem execHotReset_sized (h : s.sized) : (outOf s (execHotReset s)).sized := next_sized (ite_sized assert_sized h)

theorem execDlDown_sized {refclk} (h : s.sized) : (outOf s (execDlDown s refclk)).sized := by
  refine next_sized ?_
  extract_lets t
  have ht : t.sized := ite_sized (updBoard_sized h) h
  exact ite_sized ht (ite_sized assert_sized (ite_sized (updHost_sized ht) ht))

theorem execResetRelease_sized {src refclk} (h : s.sized) : (outOf s (execResetRelease src s refclk)).sized := by
  refine next_sized ?_
  dsimp only
  split
  · exact h
  · exact ite_sized (release_sized (updBoard_sized (updBoard_sized h))) h
  · exact ite_sized (release_sized (updBoard_sized (updBoard_sized h))) h
  · exact release_sized h

theorem railsUp_sized : s.railsUp.sized := powerLost_sized

theorem railsDown_sized : s.railsDown.sized := updBoard_sized powerLost_sized

theorem inputAt_sized {mv} (h : s.sized) : (s.inputAt mv).sized :=
  ite_sized (updBoard_sized h) h

theorem execPowerOn_sized {mv wiring} (h : s.sized) : (outOf s (execPowerOn mv s wiring)).sized :=
  next_sized (ite_sized (inputAt_sized h) (ite_sized (updBoard_sized h) railsUp_sized))

theorem execPowerOnResetRelease_sized (h : s.sized) : (outOf s (execPowerOnResetRelease s)).sized :=
  next_sized (ite_sized (release_sized h) h)

theorem execPowerOff_sized {mv hdr} (h : s.sized) : (outOf s (execPowerOff mv s hdr)).sized :=
  next_sized (ite_sized railsDown_sized (ite_sized railsDown_sized (inputAt_sized h)))

theorem execOvervoltageRestart_sized {mv} (h : s.sized) : (outOf s (execOvervoltageRestart mv s)).sized :=
  next_sized (ite_sized (inputAt_sized h) (ite_sized (updBoard_sized h) railsUp_sized))

theorem execRailFault_sized {rail} (h : s.sized) : (outOf s (execRailFault rail s)).sized :=
  next_sized (ite_sized railsDown_sized h)

theorem execRestart_sized {v pec} (h : s.sized) : (outOf s (execRestart v s pec)).sized :=
  next_sized (ite_sized h (ite_sized (ite_sized railsUp_sized (updBoard_sized h)) h))

theorem tryBank_sized {b} (h : s.sized) : (s.tryBank b).2.sized := h

theorem stage2_sized (h : s.sized) : s.stage2.sized := by
  have hb (b : Bool) : (s.tryBank b).2.sized := tryBank_sized h
  unfold State.stage2
  extract_lets boots b
  have hboots {t : State} {b} (ht : t.sized) : (boots t b).sized := ht
  split
  next t e => exact hboots (by simpa [e] using hb b)
  next t e =>
    have ht : t.sized := by simpa [e] using hb b
    have hr := tryBank_sized (b := !b) ht
    split
    next u e => exact hboots (by simpa [e] using hr)
    next u e => exact updDev_sized (by simpa [e] using hr)

theorem atReady_sized : s.atReady.sized := reset_sized

theorem becomeReady_sized : s.becomeReady.sized := emit_sized (emit_sized (atReady_sized (s := s)))

theorem execBootStageAdvance_sized {obs} (h : s.sized) : (outOf s (execBootStageAdvance obs s)).sized := by
  refine next_sized ?_
  dsimp only
  split
  · exact h
  · split
    · exact ite_sized (deviceFault_sized h) h
    · split
      · exact ite_sized (updDev_sized h) (updDev_sized h)
      · exact stage2_sized h
      · exact updDev_sized h
      · split
        · exact updDev_sized h
        · exact updDev_sized h
      · exact h
      · exact becomeReady_sized
      · exact h

theorem execHostLinkTraining_sized (h : s.sized) : (outOf s (execHostLinkTraining s)).sized :=
  next_sized (ite_sized (updHost_sized h) h)

theorem execDlUp_sized {width rate cxl} (h : s.sized) : (outOf s (execDlUp width rate cxl s)).sized :=
  next_sized (ite_sized (updBoard_sized (updHost_sized h)) h)

theorem updCage_sized {k f} (h : s.sized) : (s.updCage k f).sized := updBoard_sized h

theorem portOff_sized {x} (h : s.sized) : (s.portOff x).sized := ite_sized (linkDown_sized h) h

theorem execCageTrip_sized {k mw} (h : s.sized) : (outOf s (execCageTrip k mw s)).sized :=
  next_sized (ite_sized (portOff_sized (updCage_sized h)) h)

theorem execCableChange_sized {k copper} (h : s.sized) : (outOf s (execCableChange k copper s)).sized := by
  refine next_sized ?_
  split
  · exact updCage_sized h
  · exact portOff_sized (updCage_sized h)

theorem tapData_sized {tdi} (h : s.sized) : (s.tapData tdi).sized := by
  unfold State.tapData
  dsimp only
  split
  · exact updBoard_sized h
  · exact fresh_sized (updBoard_sized h)
  · exact updBoard_sized h
  · exact updBoard_sized h
  · exact updBoard_sized h
  · exact updBoard_sized h
  · exact h

theorem portHeld_sized {x} (h : s.sized) : (s.portHeld x).sized := ite_sized (train_sized h) (portOff_sized h)

theorem pinsHeld_sized (h : s.sized) : s.pinsHeld.sized :=
  ite_sized h (ite_sized assert_sized (updHost_sized (foldl_sized h portHeld_sized)))

theorem tapClock_sized {ir c} (h : s.sized) : (s.tapClock ir c).sized := by
  unfold State.tapClock
  dsimp only
  split
  · exact h
  · exact tapData_sized h

theorem tck_sized {ir c} (h : s.sized) : (s.tck ir c).sized := pinsHeld_sized (tapClock_sized h)

theorem execJtagTapActive_sized {ir clocks} (h : s.sized) : (outOf s (execJtagTapActive s ir clocks)).sized :=
  next_sized (ite_sized h (ite_sized (pinsHeld_sized (updDev_sized (updBoard_sized h))) (foldl_sized h tck_sized)))

theorem hold100_sized (h : s.sized) : s.hold100.sized := ite_sized (updDev_sized h) h

theorem execThermalSample_sized {temps} (h : s.sized) : (outOf s (execThermalSample temps s)).sized :=
  next_sized <|
  ite_sized h <|
  ite_sized (deviceFault_sized (updBoard_sized (updDev_sized (hold100_sized (updDev_sized h))))) <|
  hold100_sized (updDev_sized h)

theorem execPatrolRead_sized {da obs} (h : s.sized) : (outOf s (execPatrolRead da obs s)).sized := by
  refine next_sized ?_
  split
  · exact h
  extract_lets line ch ue ce t u
  have hu : u.sized := ite_sized (updChan_sized (updDev_sized h)) (updDev_sized h)
  exact ite_sized (updChan_sized (mark_sized hu)) hu

/-! ## What goes on by itself -/

theorem evictPoison_sized (h : s.sized) : s.evictPoison.sized :=
  ite_sized h (fresh_sized (foldl_sized h fun ht => ite_sized (tableAdd_sized ht) ht))

theorem tick_sized (h : s.sized) : s.tick.sized := evictPoison_sized (flashDone_sized h)

/-! ## Lines from their text, windows and the UART -/

/-- A verb parsed from text is the command of the same name. -/
theorem runVerb_sized {i} (h : s.sized) : (runVerb i s).sized := by
  cases i with
  | hello => exact execHello_sized h
  | part => exact execPart_sized h
  | free => exact execFree_sized h
  | clock => exact execClock_sized h
  | linkReport => exact execLinkReport_sized h
  | linkOpUp => exact execLinkOpUp_sized h
  | linkOpDown => exact execLinkOpDown_sized h
  | linkOpRetrain => exact execLinkOpRetrain_sized h
  | linkRack => exact execLinkRack_sized h
  | route => exact execRoute_sized h
  | group => exact execGroup_sized h
  | attest => exact execAttest_sized h
  | session => exact execSession_sized h
  | fwStat => exact execFwStat_sized h
  | fwWrite => exact execFwWrite_sized h
  | statDevice => exact execStatDevice_sized h
  | statParts => exact execStatParts_sized h
  | statCourts => exact execStatCourts_sized h
  | statDeviceCounters => exact execStatDeviceCounters_sized h
  | temp => exact execTemp_sized h
  | echo => exact execEcho_sized h
  | drillCourts => exact execDrillCourts_sized h
  | resetCommand => exact execResetCommand_sized h
  | load => exact execLoad_sized h
  | swap => exact execSwap_sized h
  | go => exact execGo_sized h
  | wait => exact execWait_sized h
  | sig => exact execSig_sized h
  | halt => exact execHalt_sized h
  | abort => exact execAbort_sized h
  | set => exact execSet_sized h
  | shard => exact execShard_sized h
  | shardDrop => exact execShardDrop_sized h
  | commit => exact execCommit_sized h
  | statPartition => exact execStatPartition_sized h
  | statSlots => exact execStatSlots_sized h
  | statKeys => exact execStatKeys_sized h
  | statPartCounters => exact execStatPartCounters_sized h
  | statShard => exact execStatShard_sized h
  | statPoison => exact execStatPoison_sized h
  | tally => exact execTally_sized h
  | key => exact execKey_sized h
  | unkey => exact execUnkey_sized h
  | move => exact execMove_sized h
  | fill => exact execFill_sized h
  | breakCount => exact execBreakCount_sized h
  | breakTag => exact execBreakTag_sized h
  | breakDrop => exact execBreakDrop_sized h
  | step => exact execStep_sized h
  | cont => exact execCont_sized h
  | peek => exact execPeek_sized h
  | poke => exact execPoke_sized h
  | drillPartition => exact execDrillPartition_sized h
  | lock => exact execLock_sized h
  | _ => exact h

theorem judge_sized {w r body mac locked scrubError} (h : s.sized) :
    (s.judge w r body mac locked scrubError).sized := by
  unfold State.judge
  dsimp only
  split
  · exact ignore_sized h
  · split
    · exact ignore_sized h
    · split
      · exact h
      · split
        · split
          · exact ignore_sized h
          · split
            · exact ignore_sized h
            · exact ignore_sized h
        · split
          · exact ignore_sized h
          · exact runVerb_sized h

theorem takeLine_sized {w r scrubError} (h : s.sized) : (s.takeLine w r scrubError).sized := by
  unfold State.takeLine
  obtain ⟨body, mac⟩ := splitMac r.bytes
  dsimp only
  split
  · exact judge_sized h
  · exact ite_sized h (ite_sized (judge_sized (updPart_sized h id)) (ignore_sized h))

theorem nextRaw_sized {w} (h : s.sized) : (s.nextRaw w).2.sized := by
  unfold State.nextRaw
  dsimp only
  split
  · exact updWin_sized h
  · split
    · exact updWin_sized h
    · exact updWin_sized h

theorem execLineParse_sized {w scrubError} (h : s.sized) : (outOf s (execLineParse w s scrubError)).sized := by
  have hr := nextRaw_sized (w := w) h
  refine next_sized ?_
  split
  · exact h
  · split
    next t e => rwa [e] at hr
    next r t e =>
      rw [e] at hr
      split
      · exact updWin_sized hr
      · exact takeLine_sized hr

theorem execParserResume_sized {w scrubError} (h : s.sized) : (outOf s (execParserResume w s scrubError)).sized := by
  refine next_sized ?_
  split
  · exact h
  · split
    · exact h
    · exact takeLine_sized (updWin_sized h)
    · exact ite_sized h (runVerb_sized (updWin_sized h))

theorem execEvLost_sized {w} (h : s.sized) : (outOf s (execEvLost w s)).sized := by
  refine next_sized ?_
  dsimp only
  split
  · exact h
  · split
    · exact ite_sized h (ite_sized (msix_sized (emit_sized (updWin_sized h))) (emit_sized (updWin_sized h)))
    · exact ite_sized h (emit_sized (updUart_sized h))

theorem execCmdinWrite_sized {w sid data off} (h : s.sized) : (outOf s (execCmdinWrite w sid data s off)).sized :=
  next_sized (ite_sized h (updWin_sized h))

theorem execReplyoutRead_sized {w sid off n} (h : s.sized) : (outOf s (execReplyoutRead w sid off n s)).sized :=
  next_sized (ite_sized h (ite_sized (send_sized h) (send_sized (updWin_sized (ite_sized (updDev_sized h) h)))))

theorem execWinctlWrite_sized {w sid v} (h : s.sized) : (outOf s (execWinctlWrite w sid v s)).sized :=
  next_sized (ite_sized h (ite_sized (msix_sized (updWin_sized h)) (updWin_sized h)))

theorem execRegisterWriteIgnored_sized {off data} (h : s.sized) :
    (outOf s (execRegisterWriteIgnored off data s)).sized :=
  next_sized h

theorem execUartByteReceive_sized {b} (h : s.sized) : (outOf s (execUartByteReceive b s)).sized :=
  next_sized (ite_sized h (updUart_sized (ite_sized (uartEcho_sized h) h)))

theorem execUartLineHandoff_sized (h : s.sized) : (outOf s (execUartLineHandoff s)).sized := by
  refine next_sized ?_
  dsimp only
  split
  · exact h
  · split
    · exact ignore_sized (updUart_sized h)
    · split
      · exact ignore_sized (updUart_sized h)
      · exact ite_sized (updWin_sized (updUart_sized h)) h

theorem execCmdRtsN_sized {asserted} (h : s.sized) : (outOf s (execCmdRtsN asserted s)).sized :=
  next_sized (ite_sized (updDev_sized (updUart_sized (txd_sized (updUart_sized h)))) (updUart_sized h))

/-! ## Registers and memory accesses of the host -/

/-- A write of a ring register keeps the items when its change of the partition does. -/
theorem ringWrite_sized {p sid} {f : Partition → Partition} (h : s.sized)
    (hf : ∀ {q : Partition}, q.sized → (f q).sized) : (s.ringWrite p sid f).sized :=
  ite_sized h (updPart_sized h hf)

theorem execRingbaseWrite_sized {p sid lo hi} (h : s.sized) : (outOf s (execRingbaseWrite p sid lo hi s)).sized := by
  refine next_sized (ringWrite_sized h fun hq => ?_)
  split
  · exact hq
  · simpa [Partition.sized] using hq

theorem execRingsizeWrite_sized {p sid v} (h : s.sized) : (outOf s (execRingsizeWrite p sid v s)).sized := by
  refine next_sized (ringWrite_sized h fun hq => ?_)
  split
  · exact hq
  · exact hq

theorem execRingEnable_sized {p sid cie} (h : s.sized) : (outOf s (execRingEnable p sid cie s)).sized := by
  refine next_sized (ringWrite_sized h fun ht => ?_)
  split
  · exact ht
  · split
    · exact ht
    · exact ht

theorem execRingDisable_sized {p sid cie} (h : s.sized) : (outOf s (execRingDisable p sid cie s)).sized :=
  next_sized (ite_sized h (pumpFree_sized (updPart_sized h id)))

theorem execRingCieWrite_sized {p sid cie} (h : s.sized) : (outOf s (execRingCieWrite p sid cie s)).sized :=
  next_sized (ringWrite_sized h id)

theorem execRingconsWrite_sized {p sid v} (h : s.sized) : (outOf s (execRingconsWrite p sid v s)).sized :=
  next_sized (ite_sized h (pumpFree_sized (updPart_sized h id)))

theorem execRingEntryWrite_sized {p obs} (h : s.sized) : (outOf s (execRingEntryWrite p s obs)).sized :=
  next_sized (pump_sized h)

theorem msixFlush_sized {v} (h : s.sized) : (s.msixFlush v).sized := ite_sized (send_sized (updHost_sized h)) h

theorem execMsixUnmask_sized {v en entry mask} (h : s.sized) : (outOf s (execMsixUnmask v en s entry mask)).sized :=
  next_sized (ite_sized h (msixFlush_sized (updHost_sized h)))

theorem execBusMasterEnableSet_sized {viral aer} (h : s.sized) :
    (outOf s (execBusMasterEnableSet s viral aer)).sized :=
  next_sized (ite_sized h (foldl_sized (foldl_sized (updHost_sized h) msixFlush_sized) pumpFree_sized))

theorem execFunctionLevelReset_sized (h : s.sized) : (outOf s (execFunctionLevelReset s)).sized := by
  refine next_sized ?_
  dsimp only
  split
  · exact h
  refine foldl_sized ?_ fun hv => pumpFree_sized (foldl_sized hv abandon_sized)
  rw [sized_iff] at h ⊢
  obtain ⟨hw, hp, hc, hcl, hch, hpo, hi, hk, hq⟩ := h
  exact ⟨hw, by simpa using hp, hc, hcl, hch, hpo, hi, hk, List.forall_mem_map.mpr hq⟩

theorem execHdmDecoderCommit_sized {base size ways bi} (h : s.sized) :
    (outOf s (execHdmDecoderCommit base size ways bi s)).sized :=
  next_sized (ite_sized h (updHost_sized h))

theorem countDrop_sized {da} (h : s.sized) : (s.countDrop da).sized := by
  unfold State.countDrop
  split
  · exact h
  · exact updPart_sized h id

theorem readOut_sized {da n obs} (h : s.sized) : (s.readOut da n obs).sized :=
  ite_sized (send_sized (observe_sized h)) (send_sized (observe_sized h))

theorem writeIn_sized {line cells poison obs} (h : s.sized) : (s.writeIn line cells poison obs).sized :=
  ite_sized h <|
  ite_sized (markHost_sized (ite_sized h (observe_sized h))) <|
  wrDa_sized <|
  ite_sized h <|
  observe_sized h

theorem execCxlMemRead_sized {hpa sid cache obs} (h : s.sized) :
    (outOf s (execCxlMemRead hpa sid cache obs s)).sized := by
  refine next_sized ?_
  dsimp only
  split
  · exact h
  · split
    · exact send_sized h
    · split
      · exact send_sized h
      · split
        · exact readOut_sized h
        · split
          · exact biAsk_sized h
          · exact readOut_sized (updCourt_sized h)

theorem execCxlMemWrite_sized {hpa sid data enable poison obs} (h : s.sized) :
    (outOf s (execCxlMemWrite hpa sid data enable poison obs s)).sized := by
  refine next_sized ?_
  dsimp only
  split
  · exact h
  · split
    · exact send_sized h
    · exact ite_sized h (ite_sized (countDrop_sized h) (writeIn_sized h))

theorem execBirsp_sized {da data} (h : s.sized) : (outOf s (execBirsp da data s)).sized := by
  refine next_sized ?_
  dsimp only
  split
  · exact h
  · split
    · exact updCourt_sized (updHost_sized h)
    · exact ite_sized (updCourt_sized (updHost_sized h)) <|
        ite_sized (countDrop_sized (updCourt_sized (updHost_sized h))) <|
        wrDa_sized (updCourt_sized (updHost_sized h))

theorem execBar4Read_sized {off n sid obs} (h : s.sized) : (outOf s (execBar4Read off n sid obs s)).sized :=
  next_sized <|
  ite_sized h <|
  foldl_sized h fun ht =>
  ite_sized (send_sized ht) <|
  ite_sized (send_sized ht) <|
  ite_sized (send_sized ht) <|
  readOut_sized ht

theorem execBar4Write_sized {off data sid ep obs holes} (h : s.sized) :
    (outOf s (execBar4Write off data sid ep obs s holes)).sized := by
  refine next_sized ?_
  split
  · exact h
  extract_lets t cells ps u
  have ht : t.sized := ite_sized (aer_sized h) h
  have hu : u.sized := ite_sized (countDrop_sized ht) ht
  exact ite_sized ht (ite_sized (countDrop_sized ht) (foldl_sized hu fun hs => ite_sized hs (writeIn_sized hs)))

/-! ## IDE and SPDM -/

theorem execIdeIntegrityFailure_sized {k} (h : s.sized) : (outOf s (execIdeIntegrityFailure k s)).sized :=
  next_sized (ite_sized h (aer_sized (updIde_sized h)))

theorem spdmReply_sized {r} (h : s.sized) : (s.spdmReply r).sized := msix_sized (send_sized h)

/-- A request in a session keeps the items when its effect does. -/
theorem inSession_sized {sess} {f : State → State} (h : s.sized) (hf : ∀ {t : State}, t.sized → (f t).sized) :
    (s.inSession sess f).sized :=
  ite_sized h (ite_sized (spdmReply_sized h) (hf h))

theorem keyProg_sized {k set dir sub key} (h : s.sized) : (s.keyProg k set dir sub key).sized :=
  ite_sized (spdmReply_sized h) (spdmReply_sized (updIde_sized h))

theorem ideGo_sized {k set} (h : s.sized) : (s.ideGo k set).sized := by
  unfold State.ideGo
  dsimp only
  split
  · exact spdmReply_sized (updIde_sized h)
  · split
    · exact spdmReply_sized (updIde_sized h)
    · exact spdmReply_sized h

theorem ideStop_sized {k set} (h : s.sized) : (s.ideStop k set).sized :=
  ite_sized (spdmReply_sized (updIde_sized h)) (ite_sized (spdmReply_sized h) (spdmReply_sized (updIde_sized h)))

theorem execIdeKmKeyProg_sized {sess k set dir sub key} (h : s.sized) :
    (outOf s (execIdeKmKeyProg sess k set dir sub key s)).sized :=
  next_sized (inSession_sized h keyProg_sized)

theorem execKSetGo_sized {sess k set} (h : s.sized) : (outOf s (execKSetGo sess k set s)).sized :=
  next_sized (inSession_sized h ideGo_sized)

theorem execKSetStop_sized {sess k set} (h : s.sized) : (outOf s (execKSetStop sess k set s)).sized :=
  next_sized (inSession_sized h ideStop_sized)

theorem spdmSign_sized {kind req} (h : s.sized) : (s.spdmSign kind req).2.sized := fresh_sized h

/-- A request after the negotiation keeps the items when its effect does. -/
theorem negotiated_sized {f : State → State} (h : s.sized) (hf : ∀ {t : State}, t.sized → (f t).sized) :
    (s.negotiated f).sized :=
  ite_sized h (ite_sized (spdmReply_sized h) (hf h))

theorem execGetVersion_sized (h : s.sized) : (outOf s (execGetVersion s)).sized :=
  next_sized (ite_sized h (spdmReply_sized h))

theorem execGetCapabilities_sized (h : s.sized) : (outOf s (execGetCapabilities s)).sized :=
  next_sized (ite_sized h (ite_sized (spdmReply_sized h) (spdmReply_sized (updSpdm_sized h))))

theorem execNegotiateAlgorithms_sized {p384 sha384 gcm} (h : s.sized) :
    (outOf s (execNegotiateAlgorithms p384 sha384 gcm s)).sized :=
  next_sized (ite_sized h (ite_sized (spdmReply_sized h) (spdmReply_sized (updSpdm_sized h))))

theorem execGetDigests_sized (h : s.sized) : (outOf s (execGetDigests s)).sized :=
  next_sized (negotiated_sized h spdmReply_sized)

theorem execGetCertificate_sized {slot off len} (h : s.sized) :
    (outOf s (execGetCertificate slot off len s)).sized :=
  next_sized (negotiated_sized h fun ht => ite_sized (spdmReply_sized ht) (spdmReply_sized ht))

theorem execChallenge_sized {slot nonce} (h : s.sized) : (outOf s (execChallenge slot nonce s)).sized :=
  next_sized (negotiated_sized h fun ht => ite_sized (spdmReply_sized ht) (spdmReply_sized (spdmSign_sized ht)))

theorem execGetMeasurements_sized {index sign nonce} (h : s.sized) :
    (outOf s (execGetMeasurements index sign nonce s)).sized :=
  next_sized <| negotiated_sized h fun ht =>
  ite_sized (spdmReply_sized ht) <|
  ite_sized (spdmReply_sized (spdmSign_sized ht)) <|
  spdmReply_sized ht

theorem execKeyExchange_sized {pub} (h : s.sized) : (outOf s (execKeyExchange pub s)).sized := by
  refine next_sized (negotiated_sized h fun ht => ?_)
  split
  · exact spdmReply_sized (fresh_sized (updSpdm_sized (spdmSign_sized ht)))
  · exact spdmReply_sized ht

theorem execFinish_sized {sess mac} (h : s.sized) : (outOf s (execFinish sess mac s)).sized :=
  next_sized <| negotiated_sized h fun ht =>
  ite_sized (spdmReply_sized ht) <|
  ite_sized (spdmReply_sized (updSpdm_sized ht)) <|
  spdmReply_sized (updSpdm_sized ht)

theorem execHeartbeat_sized {sess} (h : s.sized) : (outOf s (execHeartbeat sess s)).sized :=
  next_sized (inSession_sized h spdmReply_sized)

theorem execKeyUpdate_sized {sess} (h : s.sized) : (outOf s (execKeyUpdate sess s)).sized :=
  next_sized (inSession_sized h fun ht => spdmReply_sized (updSpdm_sized ht))

theorem execEndSession_sized {sess} (h : s.sized) : (outOf s (execEndSession sess s)).sized :=
  next_sized (inSession_sized h fun ht => spdmReply_sized (updSpdm_sized ht))

theorem execVendorDefinedRequest_sized {sess m} (h : s.sized) :
    (outOf s (execVendorDefinedRequest sess m s)).sized := by
  refine next_sized (inSession_sized h fun ht => ?_)
  split
  · exact keyProg_sized ht
  · exact ideGo_sized ht
  · exact ideStop_sized ht
  · exact spdmReply_sized ht

theorem execSpdmUnsupportedRequest_sized {code} (h : s.sized) :
    (outOf s (execSpdmUnsupportedRequest code s)).sized :=
  next_sized (ite_sized h (spdmReply_sized h))

theorem execMailboxCommand_sized {opcode} (h : s.sized) : (outOf s (execMailboxCommand opcode s)).sized :=
  next_sized (ite_sized h (ite_sized (fresh_sized (send_sized (updHost_sized h))) (send_sized (updHost_sized h))))

/-! ## Chains and vector registers -/

/-- An operation on registers and regions keeps the items when its body does. -/
theorem withRegions_sized {g op obs srcs dsts} {f : Head → State → State} (h : s.sized)
    (hf : ∀ {hd} {t : State}, t.sized → (f hd t).sized) : (withRegions s g op obs srcs dsts f).sized := by
  unfold withRegions
  refine withHead_sized h fun {_} => ?_
  dsimp only
  split
  · exact latch_sized (spSeen_sized h)
  · split
    · exact latch_sized (spSeen_sized h)
    · exact remember_sized (hf (suspect_sized (spSeen_sized h)))

theorem microStep_sized {hd g w n vr av bv q} {c : PassSt} (h : c.s.sized) :
    (microStep hd g w n vr av bv c q).s.sized := by
  unfold microStep
  split
  · exact h
  · split
    · exact h
    · exact draws_sized h

theorem chainPass_sized {hd g w j} (h : s.sized) : (chainPass hd g w s j).sized := by
  unfold chainPass
  extract_lets lw n k els av bv c t
  have hc : c.s.sized := foldl_keeps (fun c : PassSt => c.s.sized = true) _ _ _ h fun _ _ => microStep_sized
  have ht : t.sized := updClu_sized hc fun hk => by simpa [Cluster.sized] using hk
  split
  · exact count_sized ht
  · exact count_sized (updClu_sized (draws_sized ht) fun hk => by simpa [Cluster.sized] using hk)

theorem chainBody_sized {g hd} (h : s.sized) : (chainBody g hd s).sized :=
  issueCommon_sized (foldl_sized h chainPass_sized)

theorem execChain_sized {g obs} (h : s.sized) : (outOf s (execChain g obs s)).sized :=
  next_sized (withRegions_sized h chainBody_sized)

theorem constBody_sized {g hd} (h : s.sized) : (constBody g hd s).sized := by
  unfold constBody
  split
  · exact issueCommon_sized (updClu_sized h id)
  · exact h

theorem execConst_sized {g obs} (h : s.sized) : (outOf s (execConst g obs s)).sized :=
  next_sized (withRegions_sized h constBody_sized)

theorem vmovBody_sized {g hd} (h : s.sized) : (vmovBody g hd s).sized := by
  refine issueCommon_sized (updClu_sized h fun hk => ?_)
  split
  · simpa [Cluster.sized] using hk
  · simpa [Cluster.sized] using hk
  · split
    · simpa [Cluster.sized] using hk
    · exact hk

theorem execVmov_sized {g obs} (h : s.sized) : (outOf s (execVmov g obs s)).sized :=
  next_sized (withRegions_sized h vmovBody_sized)

/-! ## Every command and every step -/

/-- Every command keeps every numbered item. -/
theorem exec_sized {c} (h : s.sized) : (outOf s (exec c s)).sized := by
  cases c with
  | hello => exact execHello_sized h
  | uartBaudSwitch => exact execUartBaudSwitch_sized h
  | part => exact execPart_sized h
  | free => exact execFree_sized h
  | freeDone => exact execFreeDone_sized h
  | clock => exact execClock_sized h
  | relockDone => exact execRelockDone_sized h
  | linkReport => exact execLinkReport_sized h
  | linkOpUp => exact execLinkOpUp_sized h
  | linkOpDown => exact execLinkOpDown_sized h
  | linkOpRetrain => exact execLinkOpRetrain_sized h
  | linkRack => exact execLinkRack_sized h
  | route => exact execRoute_sized h
  | group => exact execGroup_sized h
  | attest => exact execAttest_sized h
  | attestReportDone => exact execAttestReportDone_sized h
  | session => exact execSession_sized h
  | fwStat => exact execFwStat_sized h
  | fwWrite => exact execFwWrite_sized h
  | statDevice => exact execStatDevice_sized h
  | statParts => exact execStatParts_sized h
  | statCourts => exact execStatCourts_sized h
  | statDeviceCounters => exact execStatDeviceCounters_sized h
  | temp => exact execTemp_sized h
  | echo => exact execEcho_sized h
  | drillCourts => exact execDrillCourts_sized h
  | drillPassDone => exact execDrillPassDone_sized h
  | resetCommand => exact execResetCommand_sized h
  | resetCommandFire => exact execResetCommandFire_sized h
  | load => exact execLoad_sized h
  | loadDone => exact execLoadDone_sized h
  | swap => exact execSwap_sized h
  | go => exact execGo_sized h
  | wait => exact execWait_sized h
  | sig => exact execSig_sized h
  | halt => exact execHalt_sized h
  | abort => exact execAbort_sized h
  | set => exact execSet_sized h
  | shard => exact execShard_sized h
  | shardDrop => exact execShardDrop_sized h
  | commit => exact execCommit_sized h
  | rallySetApply => exact execRallySetApply_sized h
  | statPartition => exact execStatPartition_sized h
  | statSlots => exact execStatSlots_sized h
  | statKeys => exact execStatKeys_sized h
  | statPartCounters => exact execStatPartCounters_sized h
  | statShard => exact execStatShard_sized h
  | statPoison => exact execStatPoison_sized h
  | tally => exact execTally_sized h
  | key => exact execKey_sized h
  | unkey => exact execUnkey_sized h
  | move => exact execMove_sized h
  | fill => exact execFill_sized h
  | moverJobEnd => exact execMoverJobEnd_sized h
  | sealChunk => exact execSealChunk_sized h
  | unsealChunk p id k => exact execUnsealChunk_sized (p := p) (id := id) (k := k) h
  | breakCount => exact execBreakCount_sized h
  | breakTag => exact execBreakTag_sized h
  | breakDrop => exact execBreakDrop_sized h
  | breakStopped => exact execBreakStopped_sized h
  | step => exact execStep_sized h
  | cont => exact execCont_sized h
  | peek => exact execPeek_sized h
  | poke => exact execPoke_sized h
  | drillPartition => exact execDrillPartition_sized h
  | lock => exact execLock_sized h
  | lineParse => exact execLineParse_sized h
  | parserResume => exact execParserResume_sized h
  | evLost => exact execEvLost_sized h
  | cmdinWrite _ sid => exact execCmdinWrite_sized (sid := sid) h
  | replyoutRead => exact execReplyoutRead_sized h
  | winctlWrite => exact execWinctlWrite_sized h
  | ringbaseWrite => exact execRingbaseWrite_sized h
  | ringsizeWrite => exact execRingsizeWrite_sized h
  | ringEnable => exact execRingEnable_sized h
  | ringDisable => exact execRingDisable_sized h
  | ringCieWrite => exact execRingCieWrite_sized h
  | ringconsWrite => exact execRingconsWrite_sized h
  | registerWriteIgnored off data => exact execRegisterWriteIgnored_sized (off := off) (data := data) h
  | ringEntryWrite => exact execRingEntryWrite_sized h
  | msixUnmask => exact execMsixUnmask_sized h
  | busMasterEnableSet => exact execBusMasterEnableSet_sized h
  | functionLevelReset => exact execFunctionLevelReset_sized h
  | hdmDecoderCommit => exact execHdmDecoderCommit_sized h
  | cxlMemRead => exact execCxlMemRead_sized h
  | cxlMemWrite => exact execCxlMemWrite_sized h
  | birsp => exact execBirsp_sized h
  | bar4Read => exact execBar4Read_sized h
  | bar4Write => exact execBar4Write_sized h
  | ideIntegrityFailure => exact execIdeIntegrityFailure_sized h
  | ideKmKeyProg => exact execIdeKmKeyProg_sized h
  | kSetGo => exact execKSetGo_sized h
  | kSetStop => exact execKSetStop_sized h
  | getVersion => exact execGetVersion_sized h
  | getCapabilities => exact execGetCapabilities_sized h
  | negotiateAlgorithms => exact execNegotiateAlgorithms_sized h
  | getDigests => exact execGetDigests_sized h
  | getCertificate => exact execGetCertificate_sized h
  | challenge => exact execChallenge_sized h
  | getMeasurements => exact execGetMeasurements_sized h
  | keyExchange => exact execKeyExchange_sized h
  | finish => exact execFinish_sized h
  | heartbeat => exact execHeartbeat_sized h
  | keyUpdate => exact execKeyUpdate_sized h
  | endSession => exact execEndSession_sized h
  | vendorDefinedRequest => exact execVendorDefinedRequest_sized h
  | spdmUnsupportedRequest code => exact execSpdmUnsupportedRequest_sized (code := code) h
  | mailboxCommand => exact execMailboxCommand_sized h
  | uartByteReceive => exact execUartByteReceive_sized h
  | uartLineHandoff => exact execUartLineHandoff_sized h
  | launchStart => exact execLaunchStart_sized h
  | launchEnd => exact execLaunchEnd_sized h
  | deadlineExpire => exact execDeadlineExpire_sized h
  | nop => exact execNop_sized h
  | sync => exact execSync_sized h
  | loop => exact execLoop_sized h
  | br => exact execBr_sized h
  | aop => exact execAop_sized h
  | eop => exact execEop_sized h
  | top => exact execTop_sized h
  | qcmp => exact execQcmp_sized h
  | brk => exact execBrk_sized h
  | fin => exact execFin_sized h
  | ldt => exact execLdt_sized h
  | lds => exact execLds_sized h
  | ldx => exact execLdx_sized h
  | gath => exact execGath_sized h
  | chain => exact execChain_sized h
  | const => exact execConst_sized h
  | vmov => exact execVmov_sized h
  | rsum => exact execRsum_sized h
  | rmax => exact execRmax_sized h
  | rmin => exact execRmin_sized h
  | rssq => exact execRssq_sized h
  | rdot => exact execRdot_sized h
  | argmx => exact execArgmx_sized h
  | argmn => exact execArgmn_sized h
  | topk => exact execTopk_sized h
  | scan => exact execScan_sized h
  | xred => exact execXred_sized h
  | xredResult => exact execXredResult_sized h
  | rly => exact execRly_sized h
  | trn => exact execTrn_sized h
  | perm => exact execPerm_sized h
  | cpy => exact execCpy_sized h
  | bcst => exact execBcst_sized h
  | scat => exact execScat_sized h
  | gatp => exact execGatp_sized h
  | pack => exact execPack_sized h
  | unpk => exact execUnpk_sized h
  | sort => exact execSort_sized h
  | stt => exact execStt_sized h
  | stx => exact execStx_sized h
  | put => exact execPut_sized h
  | done => exact execDone_sized h
  | fence => exact execFence_sized h
  | longWordComplete => exact execLongWordComplete_sized h
  | signalArrive => exact execSignalArrive_sized h
  | remoteRequest => exact execRemoteRequest_sized h
  | remoteGrant => exact execRemoteGrant_sized h
  | remoteRelease => exact execRemoteRelease_sized h
  | icacheFill => exact execIcacheFill_sized h
  | icacheParityRefetch => exact execIcacheParityRefetch_sized h
  | frameWrite => exact execFrameWrite_sized h
  | frameReadreq => exact execFrameReadreq_sized h
  | flushTableRelease => exact execFlushTableRelease_sized h
  | frameReadrsp => exact execFrameReadrsp_sized h
  | frameReduce => exact execFrameReduce_sized h
  | frameHello => exact execFrameHello_sized h
  | frameAbort => exact execFrameAbort_sized h
  | frameIdle => exact execFrameIdle_sized h
  | linkCrcTimeout => exact execLinkCrcTimeout_sized h
  | linkReplayLimit => exact execLinkReplayLimit_sized h
  | linkRetryTimer => exact execLinkRetryTimer_sized h
  | reductionTimeout => exact execReductionTimeout_sized h
  | faultLatch => exact execFaultLatch_sized h
  | faultReport => exact execFaultReport_sized h
  | partitionReset => exact execPartitionReset_sized h
  | partitionResetEnd => exact execPartitionResetEnd_sized h
  | reverifyDone => exact execReverifyDone_sized h
  | deviceFault => exact execDeviceFault_sized h
  | thermalSample => exact execThermalSample_sized h
  | patrolRead => exact execPatrolRead_sized h
  | drillSchedule => exact execDrillSchedule_sized h
  | drillKernelEnd => exact execDrillKernelEnd_sized h
  | powerOn => exact execPowerOn_sized h
  | powerOnResetRelease => exact execPowerOnResetRelease_sized h
  | powerOff => exact execPowerOff_sized h
  | railFault => exact execRailFault_sized h
  | restart => exact execRestart_sized h
  | resetN => exact execResetN_sized h
  | perstN => exact execPerstN_sized h
  | hotReset => exact execHotReset_sized h
  | dlDown => exact execDlDown_sized h
  | resetRelease => exact execResetRelease_sized h
  | bootStageAdvance => exact execBootStageAdvance_sized h
  | hostLinkTraining => exact execHostLinkTraining_sized h
  | cageTrip => exact execCageTrip_sized h
  | cableChange => exact execCableChange_sized h
  | jtagTapActive => exact execJtagTapActive_sized h
  | dlUp => exact execDlUp_sized h
  | cmdRtsN => exact execCmdRtsN_sized h
  | overvoltageRestart => exact execOvervoltageRestart_sized h
  | hostReadCompletion => exact execHostReadCompletion_sized h

/-- Every step keeps every numbered item: it is a command of the queue, or the device on its own. -/
theorem step_sized {t : State} (h : s.sized) (hs : step s = .next t) : t.sized := by
  unfold step at hs
  split at hs
  next => exact Host.Outcome.next.inj hs ▸ tick_sized h
  next c rest _ =>
    have hx := exec_sized (s := { s with pending := rest }) (c := c) h
    rwa [hs] at hx

end

/-! ## The state after reset -/

theorem reset_memOk : State.reset.memOk := by decide

theorem reset_courtsOk : State.reset.courtsOk := by decide

/-- Settles O5: a step runs one command or lets the device go on, and either keeps the items (`step_sized`). -/
theorem stepKeepsTheNumberedItems : Obligations.StepKeepsTheNumberedItems :=
  fun _ _ h hs => step_sized h hs

/-- Settles O3: the three conditions on the state after reset, one lemma each. -/
theorem resetIsSound : Obligations.ResetIsSound :=
  ⟨reset_memOk, reset_sized, reset_courtsOk⟩

end Sys2Proof.Machine

namespace Sys2Proof.Machine

/-! # Every step keeps the memories canonical

`State.memOk` speaks of device memory, the poison marks, and the scratchpad and vector registers of every cluster:
`State.mems` collects them. A function of the model that touches none of them has a lemma `…_mems`, which says that it leaves
all of them as they are; one that writes some has a lemma `…_ok`, which says that it keeps them canonical. Both kinds are
simp lemmas, so that a composition of functions reduces to the memories of the state it starts from. -/

section

/-! ## The memories of a state -/

/-- The memories of a cluster: its scratchpad and its vector registers. -/
def Cluster.mems (k : Cluster) : Mem × Mem := (k.sp, k.vr)

/-- Device memory, its poison marks, the memories of the clusters. -/
structure Mems where
  dram     : Mem
  poison   : List (Nat × Option Cause)
  clusters : List (Mem × Mem)

/-- The memories of a state. -/
def State.mems (s : State) : Mems := ⟨s.dram, s.poison, s.cl.map Cluster.mems⟩

/-- The memories of a cluster are canonical. -/
def Cluster.MemOk (k : Cluster) : Prop := Memory.wf k.sp = true ∧ Memory.wf k.vr = true

/-- All memories are canonical. -/
def Mems.Ok (m : Mems) : Prop :=
  Memory.wf m.dram = true ∧ spWf none m.poison = true ∧ ∀ k ∈ m.clusters, Memory.wf k.1 = true ∧ Memory.wf k.2 = true

variable {s : State}

theorem ok_iff : s.mems.Ok ↔ Memory.wf s.dram = true ∧ spWf none s.poison = true ∧ ∀ k ∈ s.cl, k.MemOk :=
  Iff.rfl.and (Iff.rfl.and List.forall_mem_map)

/-- `State.memOk` is the canonical form of these memories. -/
theorem memOk_iff : s.memOk = true ↔ s.mems.Ok := by
  simp [ok_iff, State.memOk, Cluster.MemOk, and_assoc]

@[simp] theorem ite_mems {c : Prop} [Decidable c] {a b : State} :
    (if c then a else b).mems = if c then a.mems else b.mems := apply_ite State.mems c a b

@[simp] theorem ite_ok {c : Prop} [Decidable c] {a b : Mems} : (if c then a else b).Ok ↔ if c then a.Ok else b.Ok := by
  split <;> rfl

theorem ok_ite {c : Prop} [Decidable c] {a b : State} (ha : a.mems.Ok) (hb : b.mems.Ok) :
    (if c then a else b).mems.Ok := by
  split
  · exact ha
  · exact hb

/-- A command keeps the memories canonical when the state that it answers has them so. -/
theorem next_ok {t : State} (h : t.mems.Ok) : (outOf s (.next t)).mems.Ok := h

@[simp] theorem outOf_next {t : State} : outOf s (.next t) = t := rfl

/-! ## Updates of one item -/

/-- States with the same device memory, marks and clusters have the same memories. -/
theorem same_mems {t : State} (hd : t.dram = s.dram) (hp : t.poison = s.poison) (hc : t.cl = s.cl) : t.mems = s.mems := by
  simp [State.mems, hd, hp, hc]

/-- A change of one item that keeps what `f` sees of it keeps what `f` sees of the list. -/
theorem map_modify_of_eq {α β : Type} {f : α → β} {u : α → α} (h : ∀ a, f (u a) = f a) (i : Nat) (l : List α) :
    (l.modify i u).map f = l.map f := by
  induction l generalizing i with
  | nil => simp
  | cons b r ih => cases i <;> simp [h, ih]

/-- A change of a cluster that leaves its memories leaves those of the state. -/
@[simp] theorem updClu_mems {g} {f : Cluster → Cluster} (hs : ∀ k, (f k).sp = k.sp) (hv : ∀ k, (f k).vr = k.vr) :
    (s.updClu g f).mems = s.mems :=
  congrArg (Mems.mk s.dram s.poison) (map_modify_of_eq (fun k => Prod.ext (hs k) (hv k)) g s.cl)

/-- A change of a cluster that keeps its memories canonical keeps those of the state canonical. -/
theorem updClu_ok {g} {f : Cluster → Cluster} (h : s.mems.Ok) (hf : ∀ k, k.MemOk → (f k).MemOk) :
    (s.updClu g f).mems.Ok := by
  obtain ⟨hd, hp, hk⟩ := ok_iff.mp h
  exact ok_iff.mpr ⟨hd, hp, forall_mem_modify hf g s.cl hk⟩

@[simp] theorem updPart_mems {p f} : (s.updPart p f).mems = s.mems := same_mems rfl rfl rfl
@[simp] theorem updWin_mems {w f} : (s.updWin w f).mems = s.mems := same_mems rfl rfl rfl
@[simp] theorem updCourt_mems {c f} : (s.updCourt c f).mems = s.mems := same_mems rfl rfl rfl
@[simp] theorem updChan_mems {m f} : (s.updChan m f).mems = s.mems := same_mems rfl rfl rfl
@[simp] theorem updPort_mems {x f} : (s.updPort x f).mems = s.mems := same_mems rfl rfl rfl
@[simp] theorem updIde_mems {k f} : (s.updIde k f).mems = s.mems := same_mems rfl rfl rfl
@[simp] theorem updDev_mems {f} : (s.updDev f).mems = s.mems := same_mems rfl rfl rfl
@[simp] theorem updHost_mems {f} : (s.updHost f).mems = s.mems := same_mems rfl rfl rfl
@[simp] theorem updUart_mems {f} : (s.updUart f).mems = s.mems := same_mems rfl rfl rfl
@[simp] theorem updBoard_mems {f} : (s.updBoard f).mems = s.mems := same_mems rfl rfl rfl
@[simp] theorem updSpdm_mems {f} : (s.updSpdm f).mems = s.mems := same_mems rfl rfl rfl
@[simp] theorem send_mems {o} : (s.send o).mems = s.mems := same_mems rfl rfl rfl
@[simp] theorem fresh_mems : s.fresh.mems = s.mems := same_mems rfl rfl rfl
@[simp] theorem setFree_mems {n} : ({ s with free := n } : State).mems = s.mems := same_mems rfl rfl rfl
@[simp] theorem land_mems {clu adrs} : (s.land clu adrs).mems = s.mems := same_mems rfl rfl rfl
@[simp] theorem updStr_mems {g st f} : (s.updStr g st f).mems = s.mems := updClu_mems (fun _ => rfl) fun _ => rfl
@[simp] theorem passTime_mems {g} : (s.passTime g).mems = s.mems := by
  refine congrArg (Mems.mk s.dram s.poison) (map_modify_of_eq (fun _ => ?_) g s.cl)
  rfl

/-- A loop whose steps leave the memories leaves them. -/
@[simp] theorem foldl_mems {β : Type} {f : State → β → State} {l : List β} (hf : ∀ t b, (f t b).mems = t.mems) :
    (l.foldl f s).mems = s.mems :=
  foldl_keeps (·.mems = s.mems) f l s rfl fun t b h => (hf t b).trans h

/-- A loop whose steps keep the memories canonical keeps them so. -/
theorem foldl_ok {β : Type} {f : State → β → State} {l : List β} (h : s.mems.Ok)
    (hf : ∀ t b, t.mems.Ok → (f t b).mems.Ok) : (l.foldl f s).mems.Ok :=
  foldl_keeps (·.mems.Ok) f l s h hf

/-! ## Sending -/

@[simp] theorem msix_mems {v} : (s.msix v).mems = s.mems := by rw [msix_frame]; rfl
@[simp] theorem txd_mems {b} : (s.txd b).mems = s.mems := by rw [txd_frame]; rfl
@[simp] theorem uartEcho_mems {b} : (s.uartEcho b).mems = s.mems := by simp [State.uartEcho]
@[simp] theorem emit_mems {w u l} : (s.emit w u l).mems = s.mems := by rw [emit_frame]; rfl
@[simp] theorem reply_mems {w l b} : (s.reply w l b).mems = s.mems := emit_mems
@[simp] theorem ok_mems {w l ks} : (s.ok w l ks).mems = s.mems := emit_mems
@[simp] theorem no_mems {w l why ks} : (s.no w l why ks).mems = s.mems := emit_mems
@[simp] theorem replies_mems {w l d ks} : (s.replies w l d ks).mems = s.mems := by simp [State.replies]
@[simp] theorem event_mems {l} : (s.event l).mems = s.mems := by simp [State.event]
@[simp] theorem aer_mems {b} : (s.aer b).mems = s.mems := by rw [aer_frame]; rfl
@[simp] theorem ignore_mems {w l why} : (s.ignore w l why).mems = s.mems := by rw [ignore_frame]; rfl
@[simp] theorem biAsk_mems {ls} : (s.biAsk ls).mems = s.mems := foldl_mems fun t b => by simp

/-! ## Rally ports -/

/-- A state that differs in its ports and in what is sent has the same memories. -/
theorem SameButPorts.mems {t : State} (h : SameButPorts s t) : t.mems = s.mems := by rw [h]; rfl

@[simp] theorem sendFrame_mems {x f} : (s.sendFrame x f).mems = s.mems := (sendFrame_sameButPorts s x f).mems
@[simp] theorem idle_mems {x w} : (s.idle x w).mems = s.mems := (idle_sameButPorts s x w).mems
@[simp] theorem freeBuf_mems {x f} : (s.freeBuf x f).mems = s.mems := (freeBuf_sameButPorts s x f).mems
@[simp] theorem emptyPort_mems {x} : (s.emptyPort x).mems = s.mems := (emptyPort_sameButPorts s x).mems
@[simp] theorem portDown_mems {x hold retry} : (s.portDown x hold retry).mems = s.mems :=
  (portDown_sameButPorts s x hold retry).mems
@[simp] theorem train_mems {x} : (s.train x).mems = s.mems := (train_sameButPorts s x).mems

@[simp] theorem drainPort_mems {n x} : (drainPort n x s).mems = s.mems := by
  induction n generalizing s with
  | zero => rfl
  | succ n ih =>
    unfold drainPort
    dsimp only
    split
    · rfl
    · split
      · rfl
      · rw [ih]
        split <;> simp

@[simp] theorem egress_mems {x f held} : (s.egress x f held).mems = s.mems := drainPort_mems

@[simp] theorem route_mems {p f} : (s.route p f).mems = s.mems := by
  unfold State.route
  split <;> simp

@[simp] theorem dropFrame_mems {x} : (s.dropFrame x).mems = s.mems := same_mems rfl rfl rfl
@[simp] theorem linkEvent_mems {x up} : (s.linkEvent x up).mems = s.mems := event_mems
@[simp] theorem linkUp_mems {x} : (s.linkUp x).mems = s.mems := by simp [State.linkUp, State.drain]
@[simp] theorem resend_mems {x} : (s.resend x).mems = s.mems := by simp [State.resend]

@[simp] theorem receive_mems {x f} : (s.receive x f).2.mems = s.mems := by
  unfold State.receive
  extract_lets q t u v
  have hv : v.mems = s.mems := by simp [v, u, t, State.drain]
  clear_value v
  repeat' split
  all_goals simp [hv]

@[simp] theorem forward_mems {x f} : (s.forward x f).mems = s.mems := by
  unfold State.forward
  split
  · split <;> simp
  · simp

@[simp] theorem readRsp_mems {p dst tid st} : (s.readRsp p dst tid st).mems = s.mems := by
  unfold State.readRsp
  split <;> simp

/-! ## Partitions and reports -/

@[simp] theorem haltDone_mems {p} : (s.haltDone p).mems = s.mems := by
  unfold State.haltDone
  split <;> simp

@[simp] theorem settle_mems {p} : (s.settle p).mems = s.mems := same_mems rfl rfl rfl

@[simp] theorem endRun_mems {p r st code line fv} : (s.endRun p r st code line fv).mems = s.mems := by
  simp [State.endRun]

@[simp] theorem endJob_mems {p j st} : (s.endJob p j st).mems = s.mems := same_mems rfl rfl rfl
@[simp] theorem suspect_mems {p g hit} : (s.suspect p g hit).mems = s.mems := by simp [State.suspect]
@[simp] theorem chargeSlots_mems {p} : (s.chargeSlots p).mems = s.mems := by simp [State.chargeSlots]
@[simp] theorem dropRally_mems {p} : (s.dropRally p).mems = s.mems := by simp [State.dropRally]

@[simp] theorem floodAbort_mems {p code} : (s.floodAbort p code).mems = s.mems := by
  unfold State.floodAbort
  split <;> simp

@[simp] theorem lateErr_mems {p n} : (s.lateErr p n).mems = s.mems := by simp [State.lateErr]

@[simp] theorem keepCopy_mems {p} : (s.keepCopy p).mems = s.mems := by
  unfold State.keepCopy
  split <;> simp

@[simp] theorem cutFlash_mems : s.cutFlash.mems = s.mems := by
  unfold State.cutFlash
  split <;> rfl

@[simp] theorem faultAgain_mems {cause} : (s.faultAgain cause).mems = s.mems := by simp [State.faultAgain]

@[simp] theorem rallySettle_mems {p} : (s.rallySettle p).mems = s.mems := by
  unfold State.rallySettle
  split <;> simp

@[simp] theorem updJob_mems {p id f} : (s.updJob p id f).mems = s.mems := same_mems rfl rfl rfl
@[simp] theorem stageShard_mems {p i e} : (s.stageShard p i e).mems = s.mems := same_mems rfl rfl rfl
@[simp] theorem setStop_mems {p x} : (s.setStop p x).mems = s.mems := same_mems rfl rfl rfl
@[simp] theorem trigger_mems {p rel st} : (s.trigger p rel st).mems = s.mems := same_mems rfl rfl rfl
@[simp] theorem rlyClear_mems {p rid} : (s.rlyClear p rid).mems = s.mems := same_mems rfl rfl rfl
@[simp] theorem rxCounted_mems {p src} : (s.rxCounted p src).mems = s.mems := same_mems rfl rfl rfl
@[simp] theorem refuse_mems {p src st} : (s.refuse p src st).mems = s.mems := same_mems rfl rfl rfl

@[simp] theorem countDrop_mems {da} : (s.countDrop da).mems = s.mems := by
  unfold State.countDrop
  split <;> simp

/-! ## Streams and long words -/

@[simp] theorem count_mems {g set cs} : (s.count g set cs).mems = s.mems := updClu_mems (fun _ => rfl) fun _ => rfl

@[simp] theorem draws_mems {p g st w n c} : (s.draws p g st w n c).2.mems = s.mems := by
  unfold State.draws
  split
  · split <;> simp
  · rfl

@[simp] theorem fetch_mems {g st} : (s.fetch g st).mems = s.mems := updStr_mems
@[simp] theorem fetchAll_mems {g} : (s.fetchAll g).mems = s.mems := foldl_mems fun _ _ => fetch_mems

@[simp] theorem signal_mems {p g w} : (s.signal p g w).mems = s.mems := by rw [signal_frame]; rfl
@[simp] theorem issueStop_mems {hd st n} : (s.issueStop hd st n).mems = s.mems := by rw [issueStop_frame]; rfl

@[simp] theorem issueWith_mems {hd g st ws adv} : (issueWith s hd g st ws adv).mems = s.mems := by
  have hk : (s.updClu g fun k => k.issueLw hd st).mems = s.mems := updClu_mems (fun _ => rfl) fun _ => rfl
  simp [issueWith, hk]

@[simp] theorem issueCommon_mems {hd g st ws} : (issueCommon s hd g st ws).mems = s.mems := issueWith_mems

@[simp] theorem withHead_mems {g st op} {f : Head → State} (hf : ∀ hd, (f hd).mems = s.mems) :
    (withHead s g st op f).mems = s.mems := by
  unfold withHead
  split <;> simp [hf]

@[simp] theorem spSeen_mems {cs obs} : (s.spSeen cs obs).mems = s.mems :=
  foldl_mems fun _ _ => updClu_mems (fun _ => rfl) fun _ => rfl

@[simp] theorem remember_mems {t : State} {p g st ws} : (t.remember s p g st ws).mems = t.mems := by
  rw [remember_frame]; rfl

@[simp] theorem keepLate_mems {t : State} {p g st ws ds} : (t.keepLate s p g st ws ds).mems = t.mems := by
  rw [keepLate_frame]; rfl

@[simp] theorem retire_mems {p g st f} : (s.retire p g st f).mems = s.mems := by
  unfold State.retire
  extract_lets u t v w x
  have hw : w.mems = s.mems :=
    (updClu_mems (f := (·.regionComplete _)) (fun _ => rfl) fun _ => rfl).trans updStr_mems
  have hx : x.mems = s.mems := by
    unfold x
    split <;> simp [hw]
  simp [hx]

/-! ## Writes of device memory and of scratchpads -/

/-- Canonical device memory and marks, beside clusters as they were. -/
theorem ok_of_same_clusters {t : State} (h : s.mems.Ok) (hd : Memory.wf t.dram = true)
    (hp : spWf none t.poison = true) (hc : t.cl = s.cl) : t.mems.Ok :=
  ok_iff.mpr ⟨hd, hp, hc ▸ (ok_iff.mp h).2.2⟩

/-- A poison mark is set, however it came about. -/
theorem poison_ok {l : Nat} {c : Option Cause} (h : s.mems.Ok) :
    ({ s with poison := spSet none s.poison l c } : State).mems.Ok :=
  ok_of_same_clusters h h.1 (spSet_wf none _ _ _ h.2.1) rfl

@[simp] theorem tableAdd_mems {l} : (s.tableAdd l).mems = s.mems := same_mems rfl rfl rfl

@[simp] theorem mark_ok {l c} (h : s.mems.Ok) : (s.mark l c).mems.Ok := by
  simp [State.mark, h, poison_ok h]

@[simp] theorem markHost_ok {l} (h : s.mems.Ok) : (s.markHost l).mems.Ok := poison_ok h

@[simp] theorem observe_ok {o ls} (h : s.mems.Ok) : (s.observe o ls).mems.Ok :=
  foldl_ok (foldl_ok (foldl_ok (foldl_ok h fun _ _ => id) fun t _ ht => by simp [ht]) fun _ _ => id)
    fun t _ ht => by simp [ht]

@[simp] theorem wrDa_ok {cells} (h : s.mems.Ok) : (s.wrDa cells).mems.Ok :=
  ok_of_same_clusters h (wrDa_wf s cells h.1) (wrDa_poison_wf s cells h.2.1) (by rw [wrDa_frame])

@[simp] theorem wrPa_ok {p cells} (h : s.mems.Ok) : (s.wrPa p cells).mems.Ok := wrDa_ok h

@[simp] theorem zeroCourt_ok {c} (h : s.mems.Ok) : (s.zeroCourt c).mems.Ok :=
  ok_of_same_clusters h (zeroCourt_wf s c h.1) (zeroCourt_poison_wf s c h.2.1) rfl

theorem Cluster.MemOk.setSp {k : Cluster} {m : Mem} (h : k.MemOk) (hm : Memory.wf m = true) :
    ({ k with sp := m } : Cluster).MemOk := ⟨hm, h.2⟩

theorem Cluster.MemOk.setVr {k : Cluster} {m : Mem} (h : k.MemOk) (hm : Memory.wf m = true) :
    ({ k with vr := m } : Cluster).MemOk := ⟨h.1, hm⟩

@[simp] theorem wrArg_ok {p g a cells} (h : s.mems.Ok) : (s.wrArg p g a cells).mems.Ok := by
  unfold State.wrArg
  split
  · simp [h]
  · exact updClu_ok (by simpa using h) fun _ hk => hk.setSp (writes_wf _ _ hk.1)

@[simp] theorem wrSettled_ok {p g a cells} (h : s.mems.Ok) : (s.wrSettled p g a cells).mems.Ok := by
  simp [State.wrSettled, h]

/-! ## Faults and what they abandon -/

@[simp] theorem unwrite_ok {o} (h : s.mems.Ok) : (s.unwrite o).mems.Ok := by
  unfold State.unwrite
  split
  · have hd : ({ s with dram := spSet 0 s.dram o.adr o.old } : State).mems.Ok :=
      ok_of_same_clusters h (spSet_wf 0 _ _ _ h.1) h.2.1 rfl
    dsimp only
    split
    · exact mark_ok hd
    · exact hd
  · exact updClu_ok h fun _ hk => hk.setSp (spSet_wf 0 _ _ _ hk.1)

@[simp] theorem abandonWrites_ok {es ws} (h : s.mems.Ok) : (s.abandonWrites es ws).mems.Ok := by
  induction es generalizing s ws with
  | nil => exact h
  | cons e r ih => exact ih (foldl_ok h fun _ _ => unwrite_ok)

@[simp] theorem abandonAll_ok {p} (h : s.mems.Ok) : (s.abandonAll p).mems.Ok := by
  unfold State.abandonAll
  dsimp only
  split
  · exact h
  · exact abandonWrites_ok h

@[simp] theorem stopEngines_ok {p} (h : s.mems.Ok) : (s.stopEngines p).mems.Ok := by
  simp [State.stopEngines, h]

@[simp] theorem latchAll_ok {p errs} (h : s.mems.Ok) : (s.latchAll p errs).mems.Ok := by
  unfold State.latchAll
  dsimp only
  split
  · exact h
  · simp [h]

@[simp] theorem latch_ok {p e} (h : s.mems.Ok) : (s.latch p e).mems.Ok := latchAll_ok h

@[simp] theorem linkDown_ok {x hold retry} (h : s.mems.Ok) : (s.linkDown x hold retry).mems.Ok := by
  unfold State.linkDown
  dsimp only
  split <;> simp [h]

/-- Each report leaves through a merging write of its done word, if it has one. -/
@[simp] theorem pumpReports_ok {obs n p} (h : s.mems.Ok) : (pumpReports obs n p s).mems.Ok := by
  induction n generalizing s with
  | zero => exact h
  | succ n ih =>
    unfold pumpReports
    extract_lets q
    split
    · exact h
    next r rest _ =>
      extract_lets held t u v w x y
      have ht : t.mems.Ok := by
        unfold t
        split
        · exact h
        · split <;> simp [h]
      clear_value t
      split
      · exact h
      · split
        · simp [h]
        · split
          · exact ht
          · exact ih (by simp [y, x, w, v, u, ht])

@[simp] theorem pump_ok {p obs} (h : s.mems.Ok) : (s.pump p obs).mems.Ok := by simp [State.pump, h]
@[simp] theorem pumpFree_ok {p} (h : s.mems.Ok) : (s.pumpFree p).mems.Ok := by simp [State.pumpFree, h]

/-! ## Scrubs, device faults and court caches -/

/-- The marks of court cache lines that are written back are set anew, each on its own. -/
theorem writeBack_ok {l : List (Nat × Option Cause)} {b : State → Nat × Option Cause → Bool} (h : s.mems.Ok) :
    (l.foldl (fun s e => if b s e then
      ({ s with poison := spSet none s.poison e.1 (some .cache) } : State).tableAdd e.1 else s) s).mems.Ok := by
  refine foldl_ok h fun t e ht => ?_
  split
  · exact poison_ok ht
  · exact ht

@[simp] theorem unhold_ok {cs} (h : s.mems.Ok) : (s.unhold cs).mems.Ok :=
  writeBack_ok (b := fun _ e => e.2 == some .held && cs.contains (64 * e.1 / courtBytes)) h

theorem evictPoison_ok (h : s.mems.Ok) : s.evictPoison.mems.Ok := by
  unfold State.evictPoison
  split
  · exact h
  · exact writeBack_ok (b := fun s e => e.2 == some .held && Config.evicted s.free e.1) h

/-- A scrubbed cluster has empty memories. -/
theorem Cluster.scrubbed_memOk (k : Cluster) : k.scrubbed.MemOk := ⟨rfl, rfl⟩

@[simp] theorem scrub_ok {cs keep} (h : s.mems.Ok) : (s.scrub cs keep).mems.Ok := by
  unfold State.scrub
  extract_lets t
  have ht : t.mems.Ok := by
    unfold t
    split <;> simp [h]
  obtain ⟨hd, hp, hk⟩ := ok_iff.mp ht
  refine ok_iff.mpr ⟨hd, hp, List.forall_mem_map.mpr fun k hm => ?_⟩
  split
  · exact Cluster.scrubbed_memOk k.1
  · exact hk k.1 (List.fst_mem_of_mem_zipIdx hm)

@[simp] theorem deviceLatch_ok {cause p} (h : s.mems.Ok) : (s.deviceLatch cause p).mems.Ok := by
  unfold State.deviceLatch
  split <;> simp [h]

@[simp] theorem deviceFault_ok {cause handler} (h : s.mems.Ok) : (s.deviceFault cause handler).mems.Ok := by
  unfold State.deviceFault
  split
  · simp [h]
  extract_lets t u v w x
  have hu : u.mems.Ok := foldl_ok h fun t p ht => by simp [deviceLatch_ok ht]
  clear_value u
  have hw : w.mems.Ok := by
    have hm : w.mems = u.cutFlash.mems := same_mems rfl rfl rfl
    simp [hm, hu]
  clear_value w
  split
  · exact hw
  · simp [x, hw]

@[simp] theorem rewritePoison_ok {p} (h : s.mems.Ok) : (s.rewritePoison p).mems.Ok := by
  have hw {l : List (Nat × Cause)} : (l.foldl (fun s e => s.wrDa (cellsAt (64 * e.1) zeros64)) s).mems.Ok :=
    foldl_ok h fun _ _ => wrDa_ok
  simp [State.rewritePoison, hw]

/-! ## What every long word does at its issue -/

/-- A long word with operands keeps the memories canonical when its body does: before that it reads or faults. -/
theorem withArgs_ok {g st op obs} {f : Head → List Arg → State → State} (h : s.mems.Ok)
    (hf : ∀ hd args t, t.mems.Ok → (f hd args t).mems.Ok) : (withArgs s g st op obs f).mems.Ok := by
  have hr {hd} : (s.readDescs hd g st op obs).mems.Ok := observe_ok h
  have ha {hd args} : ((s.readDescs hd g st op obs).readArgs hd g st op obs args).mems.Ok := by
    simp [State.readArgs, State.seen, hr]
  unfold withArgs withHead
  split
  · dsimp only
    split
    · split
      · simp [h]
      · split
        · exact latch_ok hr
        · split
          · exact latch_ok hr
          · split
            · exact latch_ok hr
            · split
              · simp [h]
              · split
                · exact latch_ok ha
                · split
                  · exact latch_ok ha
                  · rw [remember_mems]
                    exact hf _ _ _ (by simp [ha])
    · exact h
  · exact h

/-- A long word on registers and regions keeps the memories canonical when its body does. -/
theorem withRegions_ok {g op obs srcs dsts} {f : Head → State → State} (h : s.mems.Ok)
    (hf : ∀ hd t, t.mems.Ok → (f hd t).mems.Ok) : (withRegions s g op obs srcs dsts f).mems.Ok := by
  unfold withRegions withHead
  split
  · dsimp only
    split
    · split
      · simp [h]
      · split
        · simp [h]
        · rw [remember_mems]
          exact hf _ _ (by simp [h])
    · exact h
  · exact h

/-- An operation of two operands does what its body does, or nothing. -/
theorem twoArgs_ok {args} {f : Arg → Arg → State} (h : s.mems.Ok) (hf : ∀ a b, (f a b).mems.Ok) :
    (twoArgs args s f).mems.Ok := by
  unfold twoArgs
  split
  · exact hf _ _
  · exact h

/-! ## Loads, moves and stores -/

theorem convMove_ok {hd g st w src dst els} (h : s.mems.Ok) : (convMove s hd g st w src dst els).mems.Ok := by
  simp [convMove, h]

theorem convRows_ok {hd g st w src cut full els} (h : s.mems.Ok) :
    (convRows s hd g st w src cut full els).mems.Ok := by
  simp [convRows, h]

theorem afterIndices_ok {hd g st l n} (h : s.mems.Ok) : (afterIndices s hd g st l n).mems.Ok := by
  unfold afterIndices
  split <;> simp [h]

theorem loadBody_ok {g hd args} (h : s.mems.Ok) : (loadBody g hd args s).mems.Ok := by
  unfold loadBody
  split
  · simp [convMove_ok h]
  · exact h

theorem gathBody_ok {g hd args} (h : s.mems.Ok) : (gathBody g hd args s).mems.Ok := by
  unfold gathBody
  split
  · exact afterIndices_ok (convRows_ok h)
  · exact h

theorem moveBody_ok {g hd src dst f} (h : s.mems.Ok) : (moveBody g hd src dst f s).mems.Ok := by
  simp [moveBody, h]

theorem repackBody_ok {g hd src dst f} (h : s.mems.Ok) : (repackBody g hd src dst f s).mems.Ok := by
  simp [repackBody, h]

/-- A permute moves whole elements, or packs Iris4 blocks afresh. -/
theorem permuteBody_ok {c : Bool} {g hd src dst f} (h : s.mems.Ok) :
    ((if c then repackBody else moveBody) g hd src dst f s).mems.Ok := by
  split
  · exact repackBody_ok h
  · exact moveBody_ok h

theorem packBody_ok {g hd args} (h : s.mems.Ok) : (packBody g hd args s).mems.Ok :=
  twoArgs_ok h fun _ _ => by simp [convMove_ok h]

theorem storeBody_ok {g hd args} (h : s.mems.Ok) : (storeBody g hd args s).mems.Ok :=
  twoArgs_ok h fun _ _ => by simp [convMove_ok h]

/-- A PUT writes another device's memory: it sends frames, or faults. -/
theorem putBody_ok {g hd args} (h : s.mems.Ok) : (putBody g hd args s).mems.Ok := by
  refine twoArgs_ok h fun _ _ => ?_
  extract_lets q dev member
  split
  · split
    · exact latch_ok h
    · dsimp only
      split <;> simp [h]
  · exact latch_ok h

/-! ## Reductions and orders -/

@[simp] theorem putResults_ok {p g dst set res} (h : s.mems.Ok) : (s.putResults p g dst set res).mems.Ok := by
  simp [State.putResults, h]

theorem reduceBody_ok {g hd args} (h : s.mems.Ok) : (reduceBody g hd args s).mems.Ok := by
  unfold reduceBody
  extract_lets x ax sum pick go
  have hgo {src src2 dst idst} : (go src src2 dst idst).mems.Ok := by
    dsimp only [go]
    split
    · rw [issueCommon_mems]
      split <;> simp [h]
    · exact h
  clear_value go
  split
  · exact hgo
  · split <;> exact hgo
  · exact h

theorem orderBody_ok {g st k desc ax src dst idst hd} (h : s.mems.Ok) :
    (orderBody g st k desc ax src dst idst hd s).mems.Ok := by
  unfold orderBody
  split <;> simp [h]

theorem scanBody_ok {g hd args} (h : s.mems.Ok) : (scanBody g hd args s).mems.Ok := by
  unfold scanBody
  split
  · split <;> simp [h]
  · exact h

theorem xredBody_ok {obs g hd args} (h : s.mems.Ok) : (xredBody obs g hd args s).mems.Ok := by
  unfold xredBody
  split
  · split <;> simp [h]
  · exact h

theorem xredDeliver_ok {p ps susp me} (h : s.mems.Ok) : (s.xredDeliver p ps susp me).mems.Ok := by
  unfold State.xredDeliver
  dsimp only
  split <;> simp [h]

/-! ## Rally reductions -/

theorem rlyFinish_ok {p r} (h : s.mems.Ok) : (s.rlyFinish p r).mems.Ok := by
  unfold State.rlyFinish
  split
  · dsimp only
    split <;> simp [h]
  · exact h

theorem rlyRoot_ok {p x t} (h : s.mems.Ok) : (s.rlyRoot p x t).mems.Ok := by
  unfold State.rlyRoot
  split
  · split
    · exact h
    · dsimp only
      split
      · exact rlyFinish_ok (by simp [h])
      · simp [h]
  · exact h

@[simp] theorem child_ok {p x c} (h : s.mems.Ok) : (s.child p x c).mems.Ok := by
  unfold State.child
  split
  · exact h
  · dsimp only
    split
    · exact latch_ok h
    · exact foldl_ok h fun _ _ => rlyRoot_ok

theorem retryReduce_ok {n p x} (h : s.mems.Ok) : (retryReduce n p x s).mems.Ok := by
  induction n generalizing s with
  | zero => exact h
  | succ n ih =>
    unfold retryReduce
    split
    · exact ih (by simp [h])
    · split
      · split
        · exact ih (by simp [h])
        · exact h
      · exact h

theorem childAndRest_ok {p x c} (h : s.mems.Ok) : (s.childAndRest p x c).mems.Ok := retryReduce_ok (child_ok h)

@[simp] theorem placeOwn_ok {p x r lines} (h : s.mems.Ok) : (s.placeOwn p x r lines).mems.Ok :=
  retryReduce_ok (by simpa using h)

theorem rlyBody_ok {obs g hd args} (h : s.mems.Ok) : (rlyBody obs g hd args s).mems.Ok := by
  unfold rlyBody
  split
  · split
    · extract_lets q w x rid kind axc ax rack k err member exts b need epoch x0 home c8
      have herr {a d} : (err a d).mems.Ok := latch_ok h
      clear_value err member
      split
      · exact herr
      · split
        · exact herr
        · split
          · exact herr
          · dsimp only
            split <;> simp [h]
    · exact h
  · exact h

/-! ## Chains and vector registers -/

/-- Lanes written to a register keep a register file canonical. -/
theorem writeLanes_wf {vr : Mem} {wide r vals} (h : Memory.wf vr = true) : Memory.wf (writeLanes vr wide r vals) = true :=
  foldl_keeps (Memory.wf · = true) _ _ vr h fun _ _ => writes_wf _ _

theorem microStep_mems {hd g w n vr av bv q} {c : PassSt} : (microStep hd g w n vr av bv c q).s.mems = c.s.mems := by
  unfold microStep
  split
  · rfl
  · split <;> simp

theorem chainPass_ok {hd g w j} (h : s.mems.Ok) : (chainPass hd g w s j).mems.Ok := by
  unfold chainPass
  extract_lets lw n k els av bv c t
  have hc : c.s.mems.Ok :=
    foldl_keeps (fun c : PassSt => c.s.mems.Ok) _ _ _ h fun _ _ hc => by rwa [microStep_mems]
  have ht : t.mems.Ok := updClu_ok hc fun k hk =>
    hk.setVr (foldl_keeps (Memory.wf · = true) _ _ k.vr hk.2 fun _ _ => writeLanes_wf)
  clear_value t c
  split
  · simp [ht]
  · rw [count_mems]
    exact updClu_ok (by simp [ht]) fun _ hk => hk.setSp (writes_wf _ _ hk.1)

theorem chainBody_ok {g hd} (h : s.mems.Ok) : (chainBody g hd s).mems.Ok := by
  unfold chainBody
  rw [issueCommon_mems]
  exact foldl_ok h fun _ _ => chainPass_ok

theorem constBody_ok {g hd} (h : s.mems.Ok) : (constBody g hd s).mems.Ok := by
  unfold constBody
  split
  · rw [issueCommon_mems]
    exact updClu_ok h fun _ hk => hk.setVr (writeLanes_wf hk.2)
  · exact h

/-- Bytes copied into a memory keep it canonical. -/
theorem copyBytes_wf {src dst : Mem} {a b n} (h : Memory.wf dst = true) : Memory.wf (copyBytes src dst a b n) = true :=
  foldl_keeps (Memory.wf · = true) _ _ dst h fun m _ => spSet_wf 0 m _ _

theorem vmovBody_ok {g hd} (h : s.mems.Ok) : (vmovBody g hd s).mems.Ok := by
  unfold vmovBody
  rw [issueCommon_mems]
  refine updClu_ok h fun k hk => ?_
  split
  · exact hk.setVr (copyBytes_wf hk.2)
  · exact hk.setSp (copyBytes_wf hk.1)
  · split
    · exact hk.setVr (writeLanes_wf hk.2)
    · exact hk

/-! ## Jobs of the movers -/

theorem moveAll_ok {p j ls} (h : s.mems.Ok) : (s.moveAll p j ls).1.mems.Ok :=
  foldl_ok h fun t l ht => by simp [State.moveLine, ht]

@[simp] theorem abandon_ok {p j status} (h : s.mems.Ok) : (s.abandon p j status).mems.Ok := by
  unfold State.abandon
  split
  · extract_lets q tried lines r done m
    have hr : r.mems.Ok := by simp [r, h]
    clear_value r
    rw [endJob_mems]
    exact moveAll_ok hr
  · simp [h]

/-! ## Frames that arrive at a port -/

/-- A frame keeps the memories canonical when what its acceptance does keeps them so. -/
theorem onFrame_ok {x f mine} {body : State → State} (h : s.mems.Ok) (hb : ∀ t, t.mems.Ok → (body t).mems.Ok) :
    (onFrame s x f mine body).mems.Ok := by
  have hr : (s.receive x f).2.mems.Ok := by simp [h]
  unfold onFrame
  split
  · exact h
  · split
    next t e => rwa [e] at hr
    next t e => exact hb t (by rwa [e] at hr)

/-- A frame keeps the memories canonical when its meaning here and its refusal elsewhere do. -/
theorem arrive_ok {x f mine} {other : State → State} {body : Nat → State → State} (h : s.mems.Ok)
    (ho : ∀ t, t.mems.Ok → (other t).mems.Ok) (hb : ∀ p t, t.mems.Ok → (body p t).mems.Ok) :
    (arrive s x f mine other body).mems.Ok := by
  refine onFrame_ok h fun t ht => ?_
  split
  · simp [ht]
  · simp [ho t ht]
  · exact hb _ t ht

/-! ## Lines that touch no memory -/

/-- A line keeps the memories canonical when the verb that takes effect does. -/
theorem atLine_ok {w i} {body : State → State} (h : s.mems.Ok) (hb : ∀ t, t.mems.Ok → (body t).mems.Ok) :
    (s.atLine w i body).mems.Ok := by
  simp [State.atLine, State.hold, h, hb s]

@[simp] theorem verbHello_mems {l b} : (verbHello l b s).mems = s.mems := by
  unfold verbHello
  split
  · simp
  · dsimp only
    split <;> simp

@[simp] theorem verbClock_mems {l p m} : (verbClock l p m s).mems = s.mems := by simp [verbClock]
@[simp] theorem verbLinkReport_mems {l x} : (verbLinkReport l x s).mems = s.mems := by simp [verbLinkReport]
@[simp] theorem opDown_mems {x hold} : (s.opDown x hold).mems = s.mems := by simp [State.opDown]
@[simp] theorem verbLinkOpUp_mems {l x} : (verbLinkOpUp l x s).mems = s.mems := by simp [verbLinkOpUp]
@[simp] theorem verbLinkOpDown_mems {l x} : (verbLinkOpDown l x s).mems = s.mems := by simp [verbLinkOpDown]
@[simp] theorem verbLinkOpRetrain_mems {l x} : (verbLinkOpRetrain l x s).mems = s.mems := by simp [verbLinkOpRetrain]
@[simp] theorem verbLinkRack_mems {l n} : (verbLinkRack l n s).mems = s.mems := by simp [verbLinkRack]
@[simp] theorem verbRoute_mems {l p d x} : (verbRoute l p d x s).mems = s.mems := by simp [verbRoute]

@[simp] theorem verbGroup_mems {l p id ms rto} : (verbGroup l p id ms rto s).mems = s.mems := by
  unfold verbGroup
  dsimp only
  repeat' split
  all_goals simp

@[simp] theorem verbStatDevice_mems {l} : (verbStatDevice l s).mems = s.mems := ok_mems
@[simp] theorem verbStatParts_mems {l} : (verbStatParts l s).mems = s.mems := replies_mems
@[simp] theorem verbStatCourts_mems {l} : (verbStatCourts l s).mems = s.mems := replies_mems
@[simp] theorem verbStatDeviceCounters_mems {l} : (verbStatDeviceCounters l s).mems = s.mems := replies_mems
@[simp] theorem verbTemp_mems {l} : (verbTemp l s).mems = s.mems := by simp [verbTemp]
@[simp] theorem verbEcho_mems {l on} : (verbEcho l on s).mems = s.mems := by simp [verbEcho]
@[simp] theorem verbReset_mems {l} : (verbReset l s).mems = s.mems := by simp [verbReset]

@[simp] theorem verbLoad_mems {l p b src len} : (verbLoad l p b src len s).mems = s.mems := by simp [verbLoad]
@[simp] theorem verbSwap_mems {l p} : (verbSwap l p s).mems = s.mems := by simp [verbSwap]
@[simp] theorem verbGo_mems {l p i a d n w} : (verbGo l p i a d n w s).mems = s.mems := by simp [verbGo]
@[simp] theorem verbWait_mems {l p} : (verbWait l p s).mems = s.mems := by simp [verbWait]
@[simp] theorem verbSig_mems {l p} : (verbSig l p s).mems = s.mems := by simp [verbSig]
@[simp] theorem verbSet_mems {l p n d} : (verbSet l p n d s).mems = s.mems := by simp [verbSet]

@[simp] theorem verbShard_mems {l p i g q c d} : (verbShard l p i g q c d s).mems = s.mems := by
  unfold verbShard
  dsimp only
  split
  · simp
  · split <;> simp

@[simp] theorem verbShardDrop_mems {l p i} : (verbShardDrop l p i s).mems = s.mems := by simp [verbShardDrop]

@[simp] theorem verbCommit_mems {l p} : (verbCommit l p s).mems = s.mems := by
  unfold verbCommit
  split
  · simp
  · split <;> simp

@[simp] theorem verbStatPartition_mems {l p} : (verbStatPartition l p s).mems = s.mems := ok_mems
@[simp] theorem verbStatSlots_mems {l p} : (verbStatSlots l p s).mems = s.mems := replies_mems
@[simp] theorem verbStatKeys_mems {l p} : (verbStatKeys l p s).mems = s.mems := replies_mems
@[simp] theorem verbStatPartCounters_mems {l p} : (verbStatPartCounters l p s).mems = s.mems := replies_mems
@[simp] theorem verbStatPoison_mems {l p} : (verbStatPoison l p s).mems = s.mems := by simp [verbStatPoison]

@[simp] theorem verbStatShard_mems {l p i} : (verbStatShard l p i s).mems = s.mems := by
  unfold verbStatShard
  dsimp only
  split
  · simp
  · split <;> simp

@[simp] theorem verbTally_mems {l p n} : (verbTally l p n s).mems = s.mems := by
  unfold verbTally
  dsimp only
  repeat' split
  all_goals simp

@[simp] theorem verbKey_mems {l p k w} : (verbKey l p k w s).mems = s.mems := by
  unfold verbKey
  repeat' split
  all_goals simp

@[simp] theorem verbUnkey_mems {l p k} : (verbUnkey l p k s).mems = s.mems := by simp [verbUnkey]

@[simp] theorem submitJob_mems {l p kind key pa host len val} :
    (submitJob l p kind key pa host len val s).mems = s.mems := by
  simp [submitJob, State.submit]

/-- A debug line leaves the memories when its verb does. -/
theorem debugVerb_mems {l p st} {body : State → State} (hb : ∀ t, t.mems = s.mems → (body t).mems = s.mems) :
    (debugVerb l p st s body).mems = s.mems := by
  unfold debugVerb
  split
  · simp
  · split
    · simp
    · exact hb _ updPart_mems

@[simp] theorem armBreak_mems {l p ok b} : (armBreak l p ok b s).mems = s.mems :=
  debugVerb_mems fun t ht => by simp [ht]

@[simp] theorem verbBreakCount_mems {l p c t n} : (verbBreakCount l p c t n s).mems = s.mems := armBreak_mems
@[simp] theorem verbBreakTag_mems {l p t} : (verbBreakTag l p t s).mems = s.mems := armBreak_mems

@[simp] theorem verbBreakDrop_mems {l p} : (verbBreakDrop l p s).mems = s.mems :=
  debugVerb_mems fun t ht => by simp [ht]

@[simp] theorem verbStep_mems {l p c t m} : (verbStep l p c t m s).mems = s.mems :=
  debugVerb_mems fun t ht => by simp [ht]

@[simp] theorem verbCont_mems {l p} : (verbCont l p s).mems = s.mems :=
  debugVerb_mems fun t ht => by simp [ht]

@[simp] theorem peekSp_mems {g a n} : (s.peekSp g a n).mems = s.mems := by simp [State.peekSp]

@[simp] theorem verbPeek_mems {l p c x st r a n} : (verbPeek l p c x st r a n s).mems = s.mems := by
  unfold verbPeek
  split
  · simp
  · exact debugVerb_mems fun t ht => by simp [ht]

@[simp] theorem verbLock_mems {l p x} : (verbLock l p x s).mems = s.mems := by
  unfold verbLock
  split <;> simp

@[simp] theorem startPass_mems {c} : (s.startPass c).mems = s.mems := by simp [State.startPass]

@[simp] theorem nextPass_mems {c} : (s.nextPass c).mems = s.mems := by
  unfold State.nextPass
  split
  · rfl
  · split <;> simp

@[simp] theorem verbDrillCourts_mems {l cs} : (verbDrillCourts l cs s).mems = s.mems := by simp [verbDrillCourts]
@[simp] theorem verbDrillPartition_mems {l p} : (verbDrillPartition l p s).mems = s.mems := by simp [verbDrillPartition]

@[simp] theorem verbAttest_mems {l n} : (verbAttest l n s).mems = s.mems := by simp [verbAttest]

@[simp] theorem verbSession_mems {l p k} : (verbSession l p k s).mems = s.mems := by
  unfold verbSession
  dsimp only
  repeat' split
  all_goals simp

@[simp] theorem verbFwStat_mems {l} : (verbFwStat l s).mems = s.mems := by simp [verbFwStat]

/-! ## Lines that read or write memories -/

theorem verbPart_ok {l p cs il e} (h : s.mems.Ok) : (verbPart l p cs il s e).mems.Ok := by simp [verbPart, h]

theorem verbFree_ok {l p e} (h : s.mems.Ok) : (verbFree l p s e).mems.Ok := by simp [verbFree, h]

@[simp] theorem startFlash_mems {l b} : (s.startFlash l b).mems = s.mems := same_mems rfl rfl rfl

theorem verbFwWrite_ok {l a n} (h : s.mems.Ok) : (verbFwWrite l a n s).mems.Ok := by
  have hc : (s.coreRead (linesOf a n)).mems.Ok := by simp [State.coreRead, h]
  simp [verbFwWrite, h, hc]

theorem verbHalt_ok {l p} (h : s.mems.Ok) : (verbHalt l p s).mems.Ok := by simp [verbHalt, h]

theorem verbAbort_ok {l p} (h : s.mems.Ok) : (verbAbort l p s).mems.Ok := by simp [verbAbort, h]

/-- What a `poke` writes to scratchpad or to a vector register is a list of bytes. -/
theorem pokeCluster_memOk {k : Cluster} {what st reg addr v data} (h : k.MemOk) :
    (pokeCluster k what st reg addr v data).MemOk := by
  cases what with
  | sp => exact h.setSp (writes_wf _ _ h.1)
  | v => exact h.setVr (writes_wf _ _ h.2)
  | a | l | e | w | t | tally | region | q => exact h

theorem pokeSp_ok {p g a n} (h : s.mems.Ok) : (s.pokeSp p g a n).2.mems.Ok := by
  unfold State.pokeSp
  dsimp only
  split <;> simp [h]

/-- A debug line keeps the memories canonical when its verb does. -/
theorem debugVerb_ok {l p st} {body : State → State} (h : s.mems.Ok) (hb : ∀ t, t.mems.Ok → (body t).mems.Ok) :
    (debugVerb l p st s body).mems.Ok := by
  unfold debugVerb
  split
  · simp [h]
  · split
    · simp [h]
    · exact hb _ (by simp [h])

theorem verbPoke_ok {l p c x st r a v d} (h : s.mems.Ok) : (verbPoke l p c x st r a v d s).mems.Ok := by
  unfold verbPoke
  split
  · simp [h]
  · split
    · simp [h]
    · split
      · simp [h]
      · refine debugVerb_ok h fun t ht => ?_
        extract_lets a v n ok g
        split
        · simp [h]
        · have hp : (if x == .sp then t.pokeSp p g a n else (true, t)).2.mems.Ok := by
            split
            · exact pokeSp_ok ht
            · exact ht
          generalize (if x == .sp then t.pokeSp p g a n else (true, t)) = y at hp ⊢
          obtain ⟨may, u⟩ := y
          dsimp -zeta only at hp ⊢
          extract_lets w z
          have hw : w.mems.Ok := by simp [w, hp]
          have hz : z.mems.Ok := by
            unfold z
            split
            · exact updClu_ok hw fun _ => pokeCluster_memOk
            · exact hw
          simp [hz]

/-! ## Lines from their text, windows and the UART -/

theorem runVerb_ok {i} (h : s.mems.Ok) : (runVerb i s).mems.Ok := by
  cases i with
  | part => exact atLine_ok h fun _ => verbPart_ok
  | free => exact atLine_ok h fun _ => verbFree_ok
  | fwWrite => exact atLine_ok h fun _ => verbFwWrite_ok
  | halt => exact atLine_ok h fun _ => verbHalt_ok
  | abort => exact atLine_ok h fun _ => verbAbort_ok
  | poke => exact atLine_ok h fun _ => verbPoke_ok
  | hello | clock | linkReport | linkOpUp | linkOpDown | linkOpRetrain | linkRack | route | group | attest | session
  | fwStat | statDevice | statParts | statCourts | statDeviceCounters | temp | echo | drillCourts | resetCommand | load
  | swap | go | wait | sig | set | shard | shardDrop | commit | statPartition | statSlots | statKeys | statPartCounters
  | statShard | statPoison | tally | key | unkey | move | fill | breakCount | breakTag | breakDrop | step | cont | peek
  | drillPartition | lock =>
    exact atLine_ok h fun _ ht => by simp [ht]
  | _ => exact h

theorem judge_ok {w r body mac locked e} (h : s.mems.Ok) : (s.judge w r body mac locked e).mems.Ok := by
  unfold State.judge
  dsimp only
  split
  · simp [h]
  · split
    · simp [h]
    · split
      · exact h
      · split
        · split
          · simp [h]
          · split <;> simp [h]
        · split
          · simp [h]
          · exact runVerb_ok h

theorem takeLine_ok {w r e} (h : s.mems.Ok) : (s.takeLine w r e).mems.Ok := by
  unfold State.takeLine
  obtain ⟨body, mac⟩ := splitMac r.bytes
  dsimp only
  split
  · exact judge_ok h
  · split
    · exact h
    · split
      · exact judge_ok (by simp [h])
      · simp [h]

@[simp] theorem nextRaw_mems {w} : (s.nextRaw w).2.mems = s.mems := by
  unfold State.nextRaw
  dsimp only
  split
  · simp
  · split <;> simp

theorem execLineParse_ok {w e} (h : s.mems.Ok) : (outOf s (execLineParse w s e)).mems.Ok := by
  have hr : (s.nextRaw w).2.mems.Ok := by simp [h]
  unfold execLineParse
  rw [outOf_next]
  split
  · exact h
  · split
    next t e => rwa [e] at hr
    next r t e =>
      rw [e] at hr
      split
      · simp [hr]
      · exact takeLine_ok hr

theorem execParserResume_ok {w e} (h : s.mems.Ok) : (outOf s (execParserResume w s e)).mems.Ok := by
  unfold execParserResume
  rw [outOf_next]
  split
  · exact h
  · split
    · exact h
    · exact takeLine_ok (by simp [h])
    · split
      · exact h
      · exact runVerb_ok (by simp [h])

@[simp] theorem execEvLost_mems {w} : (outOf s (execEvLost w s)).mems = s.mems := by
  unfold execEvLost
  dsimp only
  split
  · rfl
  · split <;> simp

@[simp] theorem execCmdinWrite_mems {w sid data off} : (outOf s (execCmdinWrite w sid data s off)).mems = s.mems := by
  simp [execCmdinWrite]

@[simp] theorem execReplyoutRead_mems {w sid off n} : (outOf s (execReplyoutRead w sid off n s)).mems = s.mems := by
  simp [execReplyoutRead]

@[simp] theorem execWinctlWrite_mems {w sid v} : (outOf s (execWinctlWrite w sid v s)).mems = s.mems := by
  simp [execWinctlWrite]

@[simp] theorem execUartByteReceive_mems {b} : (outOf s (execUartByteReceive b s)).mems = s.mems := by
  simp [execUartByteReceive]

@[simp] theorem execUartLineHandoff_mems : (outOf s (execUartLineHandoff s)).mems = s.mems := by
  unfold execUartLineHandoff
  dsimp only
  split
  · rfl
  · split
    · simp
    · split <;> simp

@[simp] theorem execCmdRtsN_mems {a} : (outOf s (execCmdRtsN a s)).mems = s.mems := by
  simp [execCmdRtsN]

@[simp] theorem execUartBaudSwitch_mems : (outOf s (execUartBaudSwitch s)).mems = s.mems := by
  unfold execUartBaudSwitch
  split <;> simp

/-! ## Registers and memory accesses of the host -/

@[simp] theorem ringWrite_mems {p sid f} : (s.ringWrite p sid f).mems = s.mems := by simp [State.ringWrite]

@[simp] theorem execRingbaseWrite_mems {p sid lo hi} : (outOf s (execRingbaseWrite p sid lo hi s)).mems = s.mems :=
  ringWrite_mems

@[simp] theorem execRingsizeWrite_mems {p sid v} : (outOf s (execRingsizeWrite p sid v s)).mems = s.mems := ringWrite_mems
@[simp] theorem execRingEnable_mems {p sid cie} : (outOf s (execRingEnable p sid cie s)).mems = s.mems := ringWrite_mems
@[simp] theorem execRingCieWrite_mems {p sid cie} : (outOf s (execRingCieWrite p sid cie s)).mems = s.mems := ringWrite_mems

theorem execRingDisable_ok {p sid cie} (h : s.mems.Ok) : (outOf s (execRingDisable p sid cie s)).mems.Ok := by
  simp [execRingDisable, h]

theorem execRingconsWrite_ok {p sid v} (h : s.mems.Ok) : (outOf s (execRingconsWrite p sid v s)).mems.Ok := by
  simp [execRingconsWrite, h]

theorem execRingEntryWrite_ok {p obs} (h : s.mems.Ok) : (outOf s (execRingEntryWrite p s obs)).mems.Ok := by
  simp [execRingEntryWrite, h]

@[simp] theorem msixFlush_mems {v} : (s.msixFlush v).mems = s.mems := by simp [State.msixFlush]

@[simp] theorem execMsixUnmask_mems {v en entry mask} : (outOf s (execMsixUnmask v en s entry mask)).mems = s.mems := by
  simp [execMsixUnmask]

theorem execBusMasterEnableSet_ok {viral aer} (h : s.mems.Ok) : (outOf s (execBusMasterEnableSet s viral aer)).mems.Ok := by
  unfold execBusMasterEnableSet
  rw [outOf_next]
  split
  · exact h
  · exact foldl_ok (by simp [h]) fun t p ht => by simp [ht]

theorem execFunctionLevelReset_ok (h : s.mems.Ok) : (outOf s (execFunctionLevelReset s)).mems.Ok := by
  unfold execFunctionLevelReset
  dsimp only
  rw [outOf_next]
  split
  · exact h
  · refine foldl_ok h fun t p ht => pumpFree_ok (foldl_ok ht fun u j => abandon_ok)

@[simp] theorem execHdmDecoderCommit_mems {b z w bi} : (outOf s (execHdmDecoderCommit b z w bi s)).mems = s.mems := by
  simp [execHdmDecoderCommit]

@[simp] theorem readOut_ok {da n obs} (h : s.mems.Ok) : (s.readOut da n obs).mems.Ok := by
  simp [State.readOut, h]

@[simp] theorem writeIn_ok {line cells poison obs} (h : s.mems.Ok) : (s.writeIn line cells poison obs).mems.Ok := by
  simp [State.writeIn, h]

theorem execCxlMemRead_ok {hpa sid cache obs} (h : s.mems.Ok) : (outOf s (execCxlMemRead hpa sid cache obs s)).mems.Ok := by
  unfold execCxlMemRead
  dsimp only
  rw [outOf_next]
  split
  · exact h
  · split
    · simp [h]
    · split
      · simp [h]
      · split
        · simp [h]
        · split <;> simp [h]

theorem execCxlMemWrite_ok {hpa sid data en poison obs} (h : s.mems.Ok) :
    (outOf s (execCxlMemWrite hpa sid data en poison obs s)).mems.Ok := by
  unfold execCxlMemWrite
  dsimp only
  rw [outOf_next]
  split
  · exact h
  · split <;> simp [h]

theorem execBirsp_ok {da data} (h : s.mems.Ok) : (outOf s (execBirsp da data s)).mems.Ok := by
  unfold execBirsp
  dsimp only
  rw [outOf_next]
  split
  · exact h
  · split <;> simp [h]

theorem execBar4Read_ok {off n sid obs} (h : s.mems.Ok) : (outOf s (execBar4Read off n sid obs s)).mems.Ok := by
  unfold execBar4Read
  rw [outOf_next]
  split
  · exact h
  · exact foldl_ok h fun t _ ht => by simp [ht]

theorem execBar4Write_ok {off data sid ep obs holes} (h : s.mems.Ok) :
    (outOf s (execBar4Write off data sid ep obs s holes)).mems.Ok := by
  unfold execBar4Write
  rw [outOf_next]
  split
  · exact h
  extract_lets t cells ps u
  have ht : t.mems.Ok := by simp [t, h]
  have hu : u.mems.Ok := by simp [u, ht]
  split
  · exact ht
  · split
    · simp [ht]
    · exact foldl_ok hu fun v _ hv => by simp [hv]

/-! ## IDE and SPDM -/

@[simp] theorem execIdeIntegrityFailure_mems {k} : (outOf s (execIdeIntegrityFailure k s)).mems = s.mems := by
  simp [execIdeIntegrityFailure]

@[simp] theorem spdmReply_mems {r} : (s.spdmReply r).mems = s.mems := by simp [State.spdmReply]

/-- A request in a session leaves the memories when its effect does. -/
@[simp] theorem inSession_mems {sess} {f : State → State} (hf : ∀ t, (f t).mems = t.mems) :
    (s.inSession sess f).mems = s.mems := by
  simp [State.inSession, hf]

/-- A request after the negotiation leaves the memories when its effect does. -/
@[simp] theorem negotiated_mems {f : State → State} (hf : ∀ t, (f t).mems = t.mems) :
    (s.negotiated f).mems = s.mems := by
  simp [State.negotiated, hf]

@[simp] theorem keyProg_mems {k set dir sub key} : (s.keyProg k set dir sub key).mems = s.mems := by simp [State.keyProg]

@[simp] theorem ideGo_mems {k set} : (s.ideGo k set).mems = s.mems := by
  unfold State.ideGo
  dsimp only
  split
  · simp
  · split <;> simp

@[simp] theorem ideStop_mems {k set} : (s.ideStop k set).mems = s.mems := by simp [State.ideStop]
@[simp] theorem spdmSign_mems {kind req} : (s.spdmSign kind req).2.mems = s.mems := fresh_mems

@[simp] theorem execIdeKmKeyProg_mems {sess k set dir sub key} :
    (outOf s (execIdeKmKeyProg sess k set dir sub key s)).mems = s.mems := inSession_mems fun _ => keyProg_mems

@[simp] theorem execKSetGo_mems {sess k set} :
    (outOf s (execKSetGo sess k set s)).mems = s.mems := inSession_mems fun _ => ideGo_mems

@[simp] theorem execKSetStop_mems {sess k set} : (outOf s (execKSetStop sess k set s)).mems = s.mems :=
  inSession_mems fun _ => ideStop_mems

@[simp] theorem execGetVersion_mems : (outOf s (execGetVersion s)).mems = s.mems := by
  unfold execGetVersion
  rw [outOf_next, ite_mems, spdmReply_mems]
  exact ite_self _
@[simp] theorem execGetCapabilities_mems : (outOf s (execGetCapabilities s)).mems = s.mems := by simp [execGetCapabilities]

@[simp] theorem execNegotiateAlgorithms_mems {a b c} : (outOf s (execNegotiateAlgorithms a b c s)).mems = s.mems := by
  simp [execNegotiateAlgorithms]

@[simp] theorem execGetDigests_mems : (outOf s (execGetDigests s)).mems = s.mems := negotiated_mems fun _ => spdmReply_mems

@[simp] theorem execGetCertificate_mems {slot off len} : (outOf s (execGetCertificate slot off len s)).mems = s.mems := by
  simp [execGetCertificate]

@[simp] theorem execChallenge_mems {slot nonce} : (outOf s (execChallenge slot nonce s)).mems = s.mems := by
  simp [execChallenge]

@[simp] theorem execGetMeasurements_mems {i sign nonce} : (outOf s (execGetMeasurements i sign nonce s)).mems = s.mems := by
  simp [execGetMeasurements]

@[simp] theorem execKeyExchange_mems {pub} : (outOf s (execKeyExchange pub s)).mems = s.mems := by
  unfold execKeyExchange
  rw [outOf_next]
  refine negotiated_mems fun _ => ?_
  split <;> simp

@[simp] theorem execFinish_mems {sess mac} : (outOf s (execFinish sess mac s)).mems = s.mems := by
  simp [execFinish]
@[simp] theorem execHeartbeat_mems {sess} : (outOf s (execHeartbeat sess s)).mems = s.mems := by
  simp [execHeartbeat]
@[simp] theorem execKeyUpdate_mems {sess} : (outOf s (execKeyUpdate sess s)).mems = s.mems := by
  simp [execKeyUpdate]
@[simp] theorem execEndSession_mems {sess} : (outOf s (execEndSession sess s)).mems = s.mems := by
  simp [execEndSession]

@[simp] theorem execVendorDefinedRequest_mems {sess m} : (outOf s (execVendorDefinedRequest sess m s)).mems = s.mems := by
  unfold execVendorDefinedRequest
  rw [outOf_next]
  refine inSession_mems fun _ => ?_
  split <;> simp

@[simp] theorem execSpdmUnsupportedRequest_mems {code} : (outOf s (execSpdmUnsupportedRequest code s)).mems = s.mems := by
  simp [execSpdmUnsupportedRequest]

@[simp] theorem execMailboxCommand_mems {opcode} : (outOf s (execMailboxCommand opcode s)).mems = s.mems := by
  simp [execMailboxCommand]

/-! ## Streams, signals and requests between clusters -/

@[simp] theorem execNop_mems {g st} : (outOf s (execNop g st s)).mems = s.mems := by simp [execNop]
@[simp] theorem execSync_mems {g st} : (outOf s (execSync g st s)).mems = s.mems := by simp [execSync]
@[simp] theorem execLoop_mems {g st} : (outOf s (execLoop g st s)).mems = s.mems := by simp [execLoop]
@[simp] theorem execBr_mems {g st} : (outOf s (execBr g st s)).mems = s.mems := by simp [execBr]
@[simp] theorem execAop_mems {g st} : (outOf s (execAop g st s)).mems = s.mems := by simp [execAop]
@[simp] theorem execEop_mems {g st} : (outOf s (execEop g st s)).mems = s.mems := by simp [execEop]
@[simp] theorem execTop_mems {g st} : (outOf s (execTop g st s)).mems = s.mems := by simp [execTop]
@[simp] theorem execQcmp_mems {g st} : (outOf s (execQcmp g st s)).mems = s.mems := by simp [execQcmp]
@[simp] theorem execBrk_mems {g st} : (outOf s (execBrk g st s)).mems = s.mems := by simp [execBrk]
@[simp] theorem execFin_mems {g st} : (outOf s (execFin g st s)).mems = s.mems := by simp [execFin]

theorem execLongWordComplete_ok {g st} (h : s.mems.Ok) : (outOf s (execLongWordComplete g st s)).mems.Ok := by
  unfold execLongWordComplete
  rw [outOf_next]
  split
  · split
    · exact h
    · split <;> simp [h]
  · exact h

theorem execSignalArrive_ok {g t n} (h : s.mems.Ok) : (outOf s (execSignalArrive g t n s)).mems.Ok := by
  unfold execSignalArrive
  rw [outOf_next]
  split
  · simp [h]
  · exact h

@[simp] theorem Cluster.regionIssue_sp {k : Cluster} {us} : (k.regionIssue us).sp = k.sp := rfl
@[simp] theorem Cluster.regionIssue_vr {k : Cluster} {us} : (k.regionIssue us).vr = k.vr := rfl
@[simp] theorem Cluster.regionComplete_sp {k : Cluster} {us} : (k.regionComplete us).sp = k.sp := rfl
@[simp] theorem Cluster.regionComplete_vr {k : Cluster} {us} : (k.regionComplete us).vr = k.vr := rfl

@[simp] theorem Cluster.icacheAdd_sp {k : Cluster} {free e} : (k.icacheAdd free e).sp = k.sp := by
  unfold Cluster.icacheAdd
  dsimp only
  repeat' split
  all_goals rfl

@[simp] theorem Cluster.icacheAdd_vr {k : Cluster} {free e} : (k.icacheAdd free e).vr = k.vr := by
  unfold Cluster.icacheAdd
  dsimp only
  repeat' split
  all_goals rfl

@[simp] theorem execRemoteRequest_mems {g st} : (outOf s (execRemoteRequest g st s)).mems = s.mems := by
  unfold execRemoteRequest
  rw [outOf_next]
  split
  · dsimp only
    split <;> simp
  · rfl

@[simp] theorem execRemoteGrant_mems {g} : (outOf s (execRemoteGrant g s)).mems = s.mems := by
  unfold execRemoteGrant
  rw [outOf_next]
  split
  · dsimp only
    split <;> simp
  · rfl

@[simp] theorem execRemoteRelease_mems {g} : (outOf s (execRemoteRelease g s)).mems = s.mems := by
  unfold execRemoteRelease
  rw [outOf_next]
  split <;> simp

@[simp] theorem icacheRead_ok {p g b line obs} (h : s.mems.Ok) : (s.icacheRead p g b line obs).mems.Ok := by
  simp [State.icacheRead, h]

theorem execIcacheFill_ok {g b line obs} (h : s.mems.Ok) : (outOf s (execIcacheFill g b line obs s)).mems.Ok := by
  unfold execIcacheFill
  rw [outOf_next]
  split
  · simp [h]
  · exact h

theorem execIcacheParityRefetch_ok {g b line again obs} (h : s.mems.Ok) :
    (outOf s (execIcacheParityRefetch g b line again obs s)).mems.Ok := by
  unfold execIcacheParityRefetch
  rw [outOf_next]
  split
  · simp [h]
  · exact h

/-! ## Engine operations: the body of each, on the operands read -/

theorem execScat_ok {g obs} (h : s.mems.Ok) : (outOf s (execScat g obs s)).mems.Ok := by
  refine next_ok (withArgs_ok h fun _ _ _ ht => ?_)
  split
  · exact afterIndices_ok (wrSettled_ok ht)
  · exact ht

theorem execGatp_ok {g obs} (h : s.mems.Ok) : (outOf s (execGatp g obs s)).mems.Ok := by
  refine next_ok (withArgs_ok h fun _ _ _ ht => ?_)
  split
  · exact afterIndices_ok (wrSettled_ok ht)
  · exact ht

theorem execTopk_ok {g obs} (h : s.mems.Ok) : (outOf s (execTopk g obs s)).mems.Ok := by
  refine next_ok (withArgs_ok h fun _ _ _ ht => ?_)
  split
  · exact orderBody_ok ht
  · exact ht

theorem execSort_ok {g obs} (h : s.mems.Ok) : (outOf s (execSort g obs s)).mems.Ok := by
  refine next_ok (withArgs_ok h fun _ _ _ ht => ?_)
  split
  · exact orderBody_ok ht
  · exact ht

theorem execXredResult_ok {p xtag k obs first} (h : s.mems.Ok) :
    (outOf s (execXredResult p xtag k obs s first)).mems.Ok := by
  unfold execXredResult
  dsimp only
  rw [outOf_next]
  split
  · exact h
  · split
    · exact h
    · split
      · simp [h]
      · split
        · simp [h]
        · exact foldl_ok (by simp [h]) fun _ _ => xredDeliver_ok

theorem execDone_ok {g obs} (h : s.mems.Ok) : (outOf s (execDone g obs s)).mems.Ok := by
  unfold execDone withHead
  rw [outOf_next]
  split <;> simp [h]

theorem execFence_ok {g obs} (h : s.mems.Ok) : (outOf s (execFence g obs s)).mems.Ok := by
  unfold execFence withHead
  rw [outOf_next]
  split <;> simp [h]

/-! ## Frames and the timers of a link -/

theorem execFrameWrite_ok {x f obs} (h : s.mems.Ok) : (outOf s (execFrameWrite x f obs s)).mems.Ok := by
  unfold execFrameWrite
  dsimp only
  rw [outOf_next]
  split
  · simp [h]
  · refine arrive_ok h (fun t ht => ?_) fun p t ht => ?_
    · split <;> simp [ht]
    · rw [freeBuf_mems]
      split <;> simp [ht]

theorem execFrameReadreq_ok {x f} (h : s.mems.Ok) : (outOf s (execFrameReadreq x f s)).mems.Ok := by
  unfold execFrameReadreq
  rw [outOf_next]
  exact arrive_ok h (fun _ => id) fun p t ht => by simp [ht]

@[simp] theorem execFlushTableRelease_mems {x} : (outOf s (execFlushTableRelease x s)).mems = s.mems := by
  unfold execFlushTableRelease
  dsimp only
  rw [outOf_next]
  split
  · split
    · split <;> simp
    · rfl
  · rfl

theorem execFrameReadrsp_ok {x f} (h : s.mems.Ok) : (outOf s (execFrameReadrsp x f s)).mems.Ok := by
  unfold execFrameReadrsp
  rw [outOf_next]
  refine arrive_ok h (fun _ => id) fun p t ht => ?_
  dsimp only
  split
  · simp [ht]
  · split
    · simp [ht]
    · split <;> simp [ht]

theorem execFrameReduce_ok {x f su} (h : s.mems.Ok) : (outOf s (execFrameReduce x f su s)).mems.Ok := by
  unfold execFrameReduce
  rw [outOf_next]
  refine arrive_ok h (fun _ => id) fun p t ht => ?_
  dsimp only
  split
  · simp [ht]
  · split
    · simp [ht]
    · split
      · simp [ht]
      · exact childAndRest_ok (by simp [ht])

theorem execFrameHello_ok {x f} (h : s.mems.Ok) : (outOf s (execFrameHello x f s)).mems.Ok :=
  onFrame_ok h fun t ht => by simp [ht]

theorem execFrameAbort_ok {x f} (h : s.mems.Ok) : (outOf s (execFrameAbort x f s)).mems.Ok := by
  unfold execFrameAbort
  rw [outOf_next]
  refine arrive_ok h (fun _ => id) fun p t ht => ?_
  dsimp only
  split <;> simp [ht]

theorem execFrameIdle_ok {x f} (h : s.mems.Ok) : (outOf s (execFrameIdle x f s)).mems.Ok := onFrame_ok h fun _ => id

theorem execLinkCrcTimeout_ok {x} (h : s.mems.Ok) : (outOf s (execLinkCrcTimeout x s)).mems.Ok := by
  simp [execLinkCrcTimeout, h]

theorem execLinkReplayLimit_ok {x} (h : s.mems.Ok) : (outOf s (execLinkReplayLimit x s)).mems.Ok := by
  simp [execLinkReplayLimit, h]

@[simp] theorem execLinkRetryTimer_mems {x} : (outOf s (execLinkRetryTimer x s)).mems = s.mems := by
  simp [execLinkRetryTimer]

theorem execReductionTimeout_ok {g st} (h : s.mems.Ok) : (outOf s (execReductionTimeout g st s)).mems.Ok := by
  unfold execReductionTimeout
  rw [outOf_next]
  split
  · dsimp only
    split
    · split <;> simp [h]
    · exact h
  · exact h

/-! ## Rally settings and mover jobs -/

@[simp] theorem execRallySetApply_mems {p} : (outOf s (execRallySetApply p s)).mems = s.mems := rallySettle_mems

@[simp] theorem aerRead_mems {err} : (s.aerRead err).mems = s.mems := by
  unfold State.aerRead
  split <;> simp

theorem execHostReadCompletion_ok {p id off data err} (h : s.mems.Ok) :
    (outOf s (execHostReadCompletion p id off data s err)).mems.Ok := by
  unfold execHostReadCompletion
  rw [outOf_next]
  split
  · exact h
  · extract_lets q c l due
    split
    · exact h
    · split <;> simp [h]

theorem execSealChunk_ok {p id obs k} (h : s.mems.Ok) : (outOf s (execSealChunk p id obs s k)).mems.Ok := by
  unfold execSealChunk
  dsimp only
  rw [outOf_next]
  split
  · exact h
  · split <;> simp [h]

theorem execUnsealChunk_ok {p id k} (h : s.mems.Ok) : (outOf s (execUnsealChunk p id s k)).mems.Ok := by
  unfold execUnsealChunk
  dsimp only
  rw [outOf_next]
  split
  · exact h
  · split
    · exact h
    · split
      · exact h
      · split <;> simp [h]

theorem execMoverJobEnd_ok {p id obs} (h : s.mems.Ok) : (outOf s (execMoverJobEnd p id obs s)).mems.Ok := by
  unfold execMoverJobEnd
  dsimp only
  rw [outOf_next]
  split
  · exact h
  · split
    · exact h
    · split
      · simp [h]
      · split
        · split
          · simp [h]
          · split
            · simp [h, moveAll_ok]
            · refine pump_ok ?_
              rw [endJob_mems, setFree_mems]
              exact moveAll_ok (observe_ok h)
        · simp [h]

/-! ## Launches, fault reports and partition resets -/

/-- A launch starts with empty vector registers and finds the scratchpad as it was. -/
theorem Cluster.launched_memOk {k : Cluster} {args rel count} (h : k.MemOk) : (k.launched args rel count).MemOk :=
  h.setVr rfl

theorem execLaunchStart_ok {p} (h : s.mems.Ok) : (outOf s (execLaunchStart p s)).mems.Ok := by
  unfold execLaunchStart
  dsimp only
  rw [outOf_next]
  split
  · exact h
  · split
    · exact h
    · refine foldl_ok (by simp [h]) fun t c ht => ?_
      rw [fetchAll_mems]
      exact updClu_ok ht fun _ => Cluster.launched_memOk

theorem execLaunchEnd_ok {p obs} (h : s.mems.Ok) : (outOf s (execLaunchEnd p s obs)).mems.Ok := by
  unfold execLaunchEnd
  rw [outOf_next]
  split <;> simp [h]

theorem execDeadlineExpire_ok {p} (h : s.mems.Ok) : (outOf s (execDeadlineExpire p s)).mems.Ok := by
  unfold execDeadlineExpire
  rw [outOf_next]
  split <;> simp [h]

theorem execFaultLatch_ok {p errs} (h : s.mems.Ok) : (outOf s (execFaultLatch p errs s)).mems.Ok := latchAll_ok h

theorem execFaultReport_ok {p obs} (h : s.mems.Ok) : (outOf s (execFaultReport p s obs)).mems.Ok := by
  unfold execFaultReport
  dsimp only
  rw [outOf_next]
  split
  · exact h
  · refine pump_ok (foldl_ok ?_ fun _ _ => abandon_ok)
    rw [updPart_mems]
    split <;> simp [h]

theorem execDeviceFault_ok {cause handler} (h : s.mems.Ok) : (outOf s (execDeviceFault cause s handler)).mems.Ok := by
  simp [execDeviceFault, h]

theorem execPartitionReset_ok {p e} (h : s.mems.Ok) : (outOf s (execPartitionReset p e s)).mems.Ok := by
  simp [execPartitionReset, h]

@[simp] theorem execPartitionResetEnd_mems {p} : (outOf s (execPartitionResetEnd p s)).mems = s.mems := by
  simp [execPartitionResetEnd]

theorem execReverifyDone_ok {p obs} (h : s.mems.Ok) : (outOf s (execReverifyDone p obs s)).mems.Ok := by
  have hf {l : List Bool} : (l.foldl (fun t b => t.reverify p b obs) s).mems.Ok :=
    foldl_ok h fun t b ht => by simp [State.reverify, ht]
  simp [execReverifyDone, h, hf]

/-! ## What lines of the device window started -/

@[simp] theorem holdDown_mems {x} : (s.holdDown x).mems = s.mems := by simp [State.holdDown]

theorem execFreeDone_ok {p} (h : s.mems.Ok) : (outOf s (execFreeDone p s)).mems.Ok := by
  have hz {l : List Nat} : (l.foldl (fun t c => t.zeroCourt c) s).mems.Ok := foldl_ok h fun _ _ => zeroCourt_ok
  unfold execFreeDone
  rw [outOf_next]
  split <;> simp [h, hz]

@[simp] theorem execRelockDone_mems {p} : (outOf s (execRelockDone p s)).mems = s.mems := by
  unfold execRelockDone
  dsimp only
  rw [outOf_next]
  split
  · split <;> simp
  · rfl

theorem execLoadDone_ok {p obs} (h : s.mems.Ok) : (outOf s (execLoadDone p obs s)).mems.Ok := by
  unfold execLoadDone
  dsimp only
  rw [outOf_next]
  split
  · exact h
  · split
    · exact h
    · split
      · simp [h]
      · split <;> simp [h]

@[simp] theorem execBreakStopped_mems {p} : (outOf s (execBreakStopped p s)).mems = s.mems := by
  unfold execBreakStopped
  rw [outOf_next]
  split <;> simp

@[simp] theorem execDrillSchedule_mems {c} : (outOf s (execDrillSchedule c s)).mems = s.mems := by simp [execDrillSchedule]

@[simp] theorem passOver_mems {c} : (s.passOver c).mems = s.mems := by
  unfold State.passOver
  dsimp only
  split <;> simp

theorem Cluster.afterRun_sp {k : Cluster} {kernel n} :
    (k.afterRun kernel n).sp = spDrop (fun a => kernel == 9 || Config.drillUses kernel (a / 4096)) k.sp := rfl

theorem Cluster.afterRun_vr {k : Cluster} {kernel n} : (k.afterRun kernel n).vr =
    (List.range 32768).foldl (fun m i => spSet 0 m i (byteOf (Config.leftover n (4096 + i)))) [] := by
  simp only [Cluster.afterRun]

/-- A drill kernel drops the scratchpad that it uses and fills the vector registers byte by byte. -/
theorem Cluster.afterRun_memOk {k : Cluster} {kernel n} (h : k.MemOk) : (k.afterRun kernel n).MemOk := by
  refine ⟨?_, ?_⟩
  · rw [afterRun_sp]
    exact spDrop_wf 0 _ _ h.1
  · rw [afterRun_vr]
    generalize List.range 32768 = l
    exact foldl_keeps (Memory.wf · = true) _ l [] rfl fun m i => spSet_wf 0 m i _

theorem execDrillKernelEnd_ok {g pass obs} (h : s.mems.Ok) : (outOf s (execDrillKernelEnd g pass s obs)).mems.Ok := by
  unfold execDrillKernelEnd
  extract_lets pass c kernel own t u v w
  rw [outOf_next]
  have ht : t.mems.Ok := updClu_ok h fun k hk => by
    split
    · simpa [Cluster.MemOk] using Cluster.afterRun_memOk hk
    · exact hk
  have hv : v.mems.Ok := by simp [v, u, ht]
  have hu : u.mems.Ok := by simp [u, ht]
  clear_value own t u v
  have hw : w.mems.Ok := by
    unfold w
    split
    · simp [hu]
    · simp [hv]
  split
  · exact h
  · split <;> simp [hw]

@[simp] theorem execDrillPassDone_mems {w} : (outOf s (execDrillPassDone w s)).mems = s.mems := by
  unfold execDrillPassDone
  dsimp only
  rw [outOf_next]
  repeat' split
  all_goals simp

@[simp] theorem execAttestReportDone_mems : (outOf s (execAttestReportDone s)).mems = s.mems := by
  unfold execAttestReportDone
  dsimp only
  rw [outOf_next]
  split
  · rfl
  · split
    · rfl
    · rw [replies_mems]
      exact same_mems rfl rfl rfl

/-! ## Resets: device memory stays, the clusters start afresh -/

/-- A cluster of a state after reset, whose registers and scratchpad are empty. -/
theorem mem_replicate_memOk {n : Nat} : ∀ k ∈ List.replicate n ({} : Cluster), k.MemOk :=
  fun _ hk => List.eq_of_mem_replicate hk ▸ ⟨rfl, rfl⟩

@[simp] theorem deviceReset_ok {srcs} (h : s.mems.Ok) : (s.deviceReset srcs).mems.Ok := by
  have hc : s.cutFlash.mems.Ok := by simp [h]
  exact ok_iff.mpr ⟨hc.1, hc.2.1, mem_replicate_memOk⟩

@[simp] theorem assert_ok {r} (h : s.mems.Ok) : (s.assert r).mems.Ok := deviceReset_ok h

@[simp] theorem release_mems {r} : (s.release r).mems = s.mems := by simp [State.release]

/-- Without power, nothing of the memories stays. -/
@[simp] theorem powerLost_ok : s.powerLost.mems.Ok := ok_iff.mpr ⟨rfl, rfl, mem_replicate_memOk⟩

@[simp] theorem railsUp_ok : s.railsUp.mems.Ok := powerLost_ok
@[simp] theorem railsDown_ok : s.railsDown.mems.Ok := by simp [State.railsDown]

@[simp] theorem inputAt_mems {mv} : (s.inputAt mv).mems = s.mems := by simp [State.inputAt]

theorem execResetCommandFire_ok (h : s.mems.Ok) : (outOf s (execResetCommandFire s)).mems.Ok := by
  simp [execResetCommandFire, h]

theorem execResetN_ok {ns} (h : s.mems.Ok) : (outOf s (execResetN ns s)).mems.Ok := by simp [execResetN, h]
theorem execPerstN_ok {b} (h : s.mems.Ok) : (outOf s (execPerstN b s)).mems.Ok :=
  next_ok (ok_ite h (ok_ite (assert_ok (by simp [h])) (by simp [h])))

theorem execHotReset_ok (h : s.mems.Ok) : (outOf s (execHotReset s)).mems.Ok := by simp [execHotReset, h]
theorem execDlDown_ok {r} (h : s.mems.Ok) : (outOf s (execDlDown s r)).mems.Ok := by simp [execDlDown, h]

@[simp] theorem execResetRelease_mems {src r} : (outOf s (execResetRelease src s r)).mems = s.mems := by
  unfold execResetRelease
  dsimp only
  rw [outOf_next]
  split <;> simp

theorem execPowerOn_ok {mv w} (h : s.mems.Ok) : (outOf s (execPowerOn mv s w)).mems.Ok := by simp [execPowerOn, h]

@[simp] theorem execPowerOnResetRelease_mems : (outOf s (execPowerOnResetRelease s)).mems = s.mems := by
  simp [execPowerOnResetRelease]

theorem execPowerOff_ok {mv hdr} (h : s.mems.Ok) : (outOf s (execPowerOff mv s hdr)).mems.Ok := by simp [execPowerOff, h]

theorem execOvervoltageRestart_ok {mv} (h : s.mems.Ok) : (outOf s (execOvervoltageRestart mv s)).mems.Ok := by
  simp [execOvervoltageRestart, h]

theorem execRailFault_ok {rail} (h : s.mems.Ok) : (outOf s (execRailFault rail s)).mems.Ok := by simp [execRailFault, h]
theorem execRestart_ok {v pec} (h : s.mems.Ok) : (outOf s (execRestart v s pec)).mems.Ok :=
  next_ok (ok_ite h (ok_ite (ok_ite railsUp_ok (by simp [h])) h))

/-! ## Boot -/

@[simp] theorem tryBank_mems {b} : (s.tryBank b).2.mems = s.mems := same_mems rfl rfl rfl

@[simp] theorem stage2_mems : s.stage2.mems = s.mems := by
  have hb (t : State) (b : Bool) : (t.tryBank b).2.mems = t.mems := tryBank_mems
  unfold State.stage2
  extract_lets boots b
  have hboots (t b) : (boots t b).mems = t.mems := same_mems rfl rfl rfl
  split
  next t e => rw [hboots, ← hb s b, e]
  next t e =>
    have ht : t.mems = s.mems := by rw [← hb s b, e]
    split
    next u e => rw [hboots, ← ht, ← hb t, e]
    next u e => rw [updDev_mems, ← ht, ← hb t, e]

@[simp] theorem becomeReady_ok : s.becomeReady.mems.Ok := by
  unfold State.becomeReady
  rw [emit_mems, emit_mems]
  exact ok_iff.mpr ⟨rfl, rfl, mem_replicate_memOk⟩

theorem execBootStageAdvance_ok {obs} (h : s.mems.Ok) : (outOf s (execBootStageAdvance obs s)).mems.Ok := by
  unfold execBootStageAdvance
  dsimp only
  rw [outOf_next]
  split
  · exact h
  · split
    · simp [h]
    · split
      · simp [h]
      · simp [h]
      · simp [h]
      · split <;> simp [h]
      · exact ok_of_same_clusters h rfl rfl rfl
      · exact becomeReady_ok
      · exact h

@[simp] theorem execHostLinkTraining_mems : (outOf s (execHostLinkTraining s)).mems = s.mems := by
  simp [execHostLinkTraining]

@[simp] theorem execDlUp_mems {w r c} : (outOf s (execDlUp w r c s)).mems = s.mems := by simp [execDlUp]

/-! ## The board -/

@[simp] theorem updCage_mems {k f} : (s.updCage k f).mems = s.mems := same_mems rfl rfl rfl
@[simp] theorem portOff_ok {x} (h : s.mems.Ok) : (s.portOff x).mems.Ok := by simp [State.portOff, h]
theorem execCageTrip_ok {k mw} (h : s.mems.Ok) : (outOf s (execCageTrip k mw s)).mems.Ok := by simp [execCageTrip, h]

theorem execCableChange_ok {k c} (h : s.mems.Ok) : (outOf s (execCableChange k c s)).mems.Ok := by
  unfold execCableChange
  rw [outOf_next]
  split <;> simp [h]

@[simp] theorem tapData_mems {tdi} : (s.tapData tdi).mems = s.mems := by
  unfold State.tapData
  dsimp only
  split <;> simp

@[simp] theorem portHeld_ok {x} (h : s.mems.Ok) : (s.portHeld x).mems.Ok := by simp [State.portHeld, h]

@[simp] theorem pinsHeld_ok (h : s.mems.Ok) : s.pinsHeld.mems.Ok := by
  have hf {l : List Nat} : (l.foldl (fun t x => t.portHeld x) s).mems.Ok := foldl_ok h fun _ _ => portHeld_ok
  simp [State.pinsHeld, h, hf]

@[simp] theorem tapClock_mems {ir c} : (s.tapClock ir c).mems = s.mems := by
  unfold State.tapClock
  extract_lets st t tap
  have ht : t.mems = s.mems := by simp [t]
  rw [← ht]
  exact same_mems rfl rfl rfl

theorem tck_ok {ir c} (h : s.mems.Ok) : (s.tck ir c).mems.Ok := pinsHeld_ok (by simp [h])

theorem execJtagTapActive_ok {ir clocks} (h : s.mems.Ok) : (outOf s (execJtagTapActive s ir clocks)).mems.Ok := by
  have hf {l : List TapClk} : (l.foldl (fun t c => t.tck ir c) s).mems.Ok := foldl_ok h fun _ _ => tck_ok
  simp [execJtagTapActive, h, hf]

@[simp] theorem hold100_mems : s.hold100.mems = s.mems := by simp [State.hold100]

theorem execThermalSample_ok {temps} (h : s.mems.Ok) : (outOf s (execThermalSample temps s)).mems.Ok := by
  simp [execThermalSample, h]

theorem execPatrolRead_ok {da obs} (h : s.mems.Ok) : (outOf s (execPatrolRead da obs s)).mems.Ok := by
  simp [execPatrolRead, h]

/-! ## Every command and every step -/

@[simp] theorem flashDone_mems : s.flashDone.mems = s.mems := by
  unfold State.flashDone
  dsimp only
  split
  · split
    · simp
    · rw [ok_mems]
      exact same_mems rfl rfl rfl
  · rfl

theorem tick_ok (h : s.mems.Ok) : s.tick.mems.Ok := evictPoison_ok (by simp [h])

/-- Every command keeps the memories canonical: a verb, a command that touches none of them, or one with a lemma of its own. -/
theorem exec_ok {c} (h : s.mems.Ok) : (outOf s (exec c s)).mems.Ok := by
  have hv : (runVerb c s).mems.Ok := runVerb_ok h
  cases c with
  | hello | part | free | clock | linkReport | linkOpUp | linkOpDown | linkOpRetrain | linkRack | route | group | attest
  | session | fwStat | fwWrite | statDevice | statParts | statCourts | statDeviceCounters | temp | echo | drillCourts
  | resetCommand | load | swap | go | wait | sig | halt | abort | set | shard | shardDrop | commit | statPartition
  | statSlots | statKeys | statPartCounters | statShard | statPoison | tally | key | unkey | move | fill | breakCount
  | breakTag | breakDrop | step | cont | peek | poke | drillPartition | lock =>
    exact hv
  | uartBaudSwitch | relockDone | attestReportDone | drillPassDone | rallySetApply | breakStopped | evLost
  | replyoutRead | winctlWrite | ringbaseWrite | ringsizeWrite | ringEnable | ringCieWrite | msixUnmask
  | hdmDecoderCommit | ideIntegrityFailure | ideKmKeyProg | kSetGo | kSetStop | getVersion | getCapabilities
  | negotiateAlgorithms | getDigests | getCertificate | challenge | getMeasurements | keyExchange | finish | heartbeat
  | keyUpdate | endSession | vendorDefinedRequest | mailboxCommand | uartByteReceive | uartLineHandoff | nop | sync
  | loop | br | aop | eop | top | qcmp | brk | fin | remoteRequest | remoteGrant | remoteRelease | flushTableRelease
  | linkRetryTimer | partitionResetEnd | drillSchedule | powerOnResetRelease | resetRelease | hostLinkTraining | dlUp
  | cmdRtsN | cmdinWrite | spdmUnsupportedRequest =>
    simp [exec, h]
  | ldt | lds | ldx => exact next_ok (withArgs_ok h fun _ _ _ => loadBody_ok)
  | gath => exact next_ok (withArgs_ok h fun _ _ _ => gathBody_ok)
  | rsum | rmax | rmin | rssq | rdot | argmx | argmn => exact next_ok (withArgs_ok h fun _ _ _ => reduceBody_ok)
  | scan => exact next_ok (withArgs_ok h fun _ _ _ => scanBody_ok)
  | xred => exact next_ok (withArgs_ok h fun _ _ _ => xredBody_ok)
  | rly => exact next_ok (withArgs_ok h fun _ _ _ => rlyBody_ok)
  | pack | unpk => exact next_ok (withArgs_ok h fun _ _ _ => packBody_ok)
  | stt | stx => exact next_ok (withArgs_ok h fun _ _ _ => storeBody_ok)
  | put => exact next_ok (withArgs_ok h fun _ _ _ => putBody_ok)
  | chain => exact next_ok (withRegions_ok h fun _ _ => chainBody_ok)
  | const => exact next_ok (withRegions_ok h fun _ _ => constBody_ok)
  | vmov => exact next_ok (withRegions_ok h fun _ _ => vmovBody_ok)
  | trn | perm => exact next_ok (withArgs_ok h fun _ _ _ ht => twoArgs_ok ht fun _ _ => permuteBody_ok ht)
  | cpy | bcst => exact next_ok (withArgs_ok h fun _ _ _ ht => twoArgs_ok ht fun _ _ => moveBody_ok ht)
  | freeDone => exact execFreeDone_ok h
  | resetCommandFire => exact execResetCommandFire_ok h
  | loadDone => exact execLoadDone_ok h
  | moverJobEnd => exact execMoverJobEnd_ok h
  | sealChunk => exact execSealChunk_ok h
  | unsealChunk p id k => exact execUnsealChunk_ok (p := p) (id := id) (k := k) h
  | lineParse => exact execLineParse_ok h
  | parserResume => exact execParserResume_ok h
  | ringDisable => exact execRingDisable_ok h
  | ringconsWrite => exact execRingconsWrite_ok h
  | ringEntryWrite => exact execRingEntryWrite_ok h
  | busMasterEnableSet => exact execBusMasterEnableSet_ok h
  | functionLevelReset => exact execFunctionLevelReset_ok h
  | cxlMemRead => exact execCxlMemRead_ok h
  | cxlMemWrite => exact execCxlMemWrite_ok h
  | birsp => exact execBirsp_ok h
  | bar4Read => exact execBar4Read_ok h
  | bar4Write => exact execBar4Write_ok h
  | launchStart => exact execLaunchStart_ok h
  | launchEnd => exact execLaunchEnd_ok h
  | deadlineExpire => exact execDeadlineExpire_ok h
  | topk => exact execTopk_ok h
  | xredResult => exact execXredResult_ok h
  | scat => exact execScat_ok h
  | gatp => exact execGatp_ok h
  | sort => exact execSort_ok h
  | done => exact execDone_ok h
  | fence => exact execFence_ok h
  | longWordComplete => exact execLongWordComplete_ok h
  | signalArrive => exact execSignalArrive_ok h
  | icacheFill => exact execIcacheFill_ok h
  | icacheParityRefetch => exact execIcacheParityRefetch_ok h
  | frameWrite => exact execFrameWrite_ok h
  | frameReadreq => exact execFrameReadreq_ok h
  | frameReadrsp => exact execFrameReadrsp_ok h
  | frameReduce => exact execFrameReduce_ok h
  | frameHello => exact execFrameHello_ok h
  | frameAbort => exact execFrameAbort_ok h
  | frameIdle => exact execFrameIdle_ok h
  | linkCrcTimeout => exact execLinkCrcTimeout_ok h
  | linkReplayLimit => exact execLinkReplayLimit_ok h
  | reductionTimeout => exact execReductionTimeout_ok h
  | faultLatch => exact execFaultLatch_ok h
  | faultReport => exact execFaultReport_ok h
  | partitionReset => exact execPartitionReset_ok h
  | reverifyDone => exact execReverifyDone_ok h
  | deviceFault => exact execDeviceFault_ok h
  | thermalSample => exact execThermalSample_ok h
  | patrolRead => exact execPatrolRead_ok h
  | drillKernelEnd => exact execDrillKernelEnd_ok h
  | powerOn => exact execPowerOn_ok h
  | powerOff => exact execPowerOff_ok h
  | railFault => exact execRailFault_ok h
  | restart => exact execRestart_ok h
  | resetN => exact execResetN_ok h
  | perstN => exact execPerstN_ok h
  | hotReset => exact execHotReset_ok h
  | dlDown => exact execDlDown_ok h
  | bootStageAdvance => exact execBootStageAdvance_ok h
  | cageTrip => exact execCageTrip_ok h
  | cableChange => exact execCableChange_ok h
  | jtagTapActive => exact execJtagTapActive_ok h
  | overvoltageRestart => exact execOvervoltageRestart_ok h
  | hostReadCompletion => exact execHostReadCompletion_ok h
  | registerWriteIgnored => exact h

theorem step_ok {t : State} (h : s.mems.Ok) (hs : step s = .next t) : t.mems.Ok := by
  unfold step at hs
  split at hs
  next => exact Host.Outcome.next.inj hs ▸ tick_ok h
  next c rest _ =>
    have hx := exec_ok (s := { s with pending := rest }) (c := c) h
    rwa [hs] at hx

end

/-- Settles O4: a command keeps the memories canonical, and so does the device on its own (`step_ok`). -/
theorem stepKeepsMemoriesCanonical : Obligations.StepKeepsMemoriesCanonical :=
  fun _ _ h hs => memOk_iff.mpr (step_ok (memOk_iff.mp h) hs)

end Sys2Proof.Machine

namespace Sys2Proof.Machine

/-! # What a write of device memory stores

`State.wrDa` writes line by line where some line is poisoned: `State.wrLine` is its write of one line, `LinesWritten` what
holds once the lines of a list have been written. -/

section

variable {s t : State} {cells : List Host.Cell} {l a : Nat}

/-! ## The cells of one line -/

/-- The cells that lie in a line. -/
def lineCells (cells : List Host.Cell) (line : Nat) : List Host.Cell := cells.filter fun c => c.1 / 64 = line

theorem wholeLine_iff : wholeLine cells l = true ↔ ∀ k < 64, ∃ c ∈ cells, c.1 = 64 * l + k := by
  simp [wholeLine]

/-- An address has a last write where it has a write. -/
theorem lastAt_eq_none (h : ∀ c ∈ cells, c.1 ≠ a) : lastAt cells a = none := by
  simpa [lastAt] using h

/-- Within a line, the cells of the line tell what is written last. -/
theorem lastAt_lineCells : lastAt (lineCells cells l) a = if a / 64 = l then lastAt cells a else none := by
  split
  next ha =>
    rw [lastAt, lastAt, lineCells, ← List.filter_reverse, List.find?_filter]
    congr 2
    funext c
    by_cases hc : c.1 = a <;> simp [hc, ha]
  next ha => exact lastAt_eq_none fun c hc he => ha (he ▸ by simpa using (List.mem_filter.mp hc).2)

/-- Whether a line is written whole depends on the cells of the line alone. -/
theorem wholeLine_lineCells : wholeLine (lineCells cells l) l = wholeLine cells l := by
  have hk (c k : Nat) (h : k < 64) : (c / 64 = l ∧ c = 64 * l + k) ↔ c = 64 * l + k := by omega
  rw [Bool.eq_iff_iff]
  simp +contextual [wholeLine, lineCells, hk]

/-! ## The write of one line -/

/-- Cells are stored as they stand, whatever is poisoned. -/
def State.wrCells (s : State) (cs : List Host.Cell) : State :=
  { s.land none (cs.map (·.1)) with dram := cs.foldl (fun m c => spSet 0 m c.1 c.2) s.dram }

/-- The write of one line: a poisoned line takes its cells only where they are all of it (R342). -/
def State.wrLine (cells : List Host.Cell) (s : State) (line : Nat) : State :=
  if (s.cause line).isSome && !wholeLine cells line then s
  else (if (s.cause line).isSome then s.unmark line else s).wrCells (lineCells cells line)

theorem wrDa_of_clean (h : s.poison.isEmpty = true) : s.wrDa cells = s.wrCells cells := by
  rw [State.wrDa, if_pos h, State.wrCells]

theorem wrDa_of_poisoned (h : ¬ s.poison.isEmpty = true) :
    s.wrDa cells = (cells.map (·.1 / 64)).eraseDups.foldl (State.wrLine cells) s := by
  rw [State.wrDa, if_neg h]
  congr 1
  funext t line
  rw [State.wrLine, ← wholeLine_lineCells]
  rfl

theorem wrCells_rdDa (h : Memory.wf s.dram = true) : (s.wrCells cells).rdDa a = (lastAt cells a).getD (s.rdDa a) :=
  writes_get cells s.dram a h

theorem wrCells_cause : (s.wrCells cells).cause l = s.cause l := rfl

theorem unmark_cause {k : Nat} (h : spWf none s.poison = true) :
    (s.unmark l).cause k = if k = l then none else s.cause k := spGet_spSet none s.poison l k none h

/-- What the write of a line leaves at an address. -/
theorem wrLine_rdDa (h : Memory.wf s.dram = true) : (s.wrLine cells l).rdDa a =
    if a / 64 = l ∧ ((s.cause l).isSome && !wholeLine cells l) = false then (lastAt cells a).getD (s.rdDa a)
    else s.rdDa a := by
  have hw (t : State) (ht : t.dram = s.dram) : (t.wrCells (lineCells cells l)).rdDa a =
      if a / 64 = l then (lastAt cells a).getD (s.rdDa a) else s.rdDa a := by
    rw [wrCells_rdDa (ht ▸ h), lastAt_lineCells, State.rdDa, ht]
    split <;> rfl
  unfold State.wrLine
  split
  next hb => simp [hb]
  next hb =>
    rw [hw _ (by split <;> rfl)]
    simp [hb]

/-- The marks after the write of a line: its own is cleared where the line is written whole. -/
theorem wrLine_cause {k : Nat} (h : spWf none s.poison = true) : (s.wrLine cells l).cause k =
    if k = l ∧ wholeLine cells l = true then none else s.cause k := by
  unfold State.wrLine
  split
  next hb =>
    simp at hb
    simp [hb.2]
  next hb =>
    rw [wrCells_cause]
    by_cases hm : (s.cause l).isSome = true
    · have hw : wholeLine cells l = true := by simpa [hm] using hb
      simp [hm, hw, unmark_cause h]
    · have hn : s.cause l = none := by simpa using hm
      by_cases hk : k = l
      · subst hk
        simp [hn]
      · simp [hn, hk]

/-! ## What of the long words in flight a fault may still undo -/

/-- A choice of old bytes that drops those of the lines written whole, and none at an address not written. -/
structure Outlives (cells : List Host.Cell) (done : List Nat) (keep : OldByte → Bool) : Prop where
  drops : ∀ o, keep o = true → o.clu = none → o.adr / 64 ∈ done → wholeLine cells (o.adr / 64) = false
  keeps : ∀ o, (∀ c ∈ cells, c.1 ≠ o.adr) → keep o = true

/-- The old bytes chosen are left of a long word in flight. -/
def Undo.filter (keep : OldByte → Bool) (e : Undo) : Undo := { e with bytes := e.bytes.filter keep }

/-- Nothing written, nothing dropped. -/
theorem outlives_nil : Outlives cells [] fun _ => true := ⟨by simp, by simp⟩

/-- What cells of device memory do not cover. -/
def survives (cs : List Host.Cell) (o : OldByte) : Bool := !o.covered ((cs.map (·.1)).map fun a => (none, a))

theorem unmark_undo : (s.unmark l).undo = s.undo := rfl

theorem wrCells_undo : (s.wrCells cells).undo = s.undo.map (Undo.filter (survives cells)) := rfl

/-- A byte at an address that no cell writes is not covered. -/
theorem survives_of_not_written {cs : List Host.Cell} {o : OldByte} (h : ∀ c ∈ cs, c.1 ≠ o.adr) :
    survives cs o = true := by
  have hc : ((cs.map (·.1)).map fun a => ((none : Option Nat), a)).contains (o.clu, o.adr) = false := by
    simpa using fun v hm => absurd rfl (h (o.adr, v) hm)
  rw [survives, OldByte.covered, hc]
  rfl

/-- A byte of device memory is covered where all of its line is written. -/
theorem survives_of_whole {cs : List Host.Cell} {o : OldByte} (hd : o.clu = none) (h : wholeLine cs (o.adr / 64) = true) :
    survives cs o = false := by
  have hk (k : Nat) (hk : k < 64) :
      ((cs.map (·.1)).map fun a => ((none : Option Nat), a)).contains (o.clu, o.adr / 64 * 64 + k) = true := by
    obtain ⟨c, hc, he⟩ := wholeLine_iff.mp h k hk
    rw [hd, show o.adr / 64 * 64 + k = c.1 by omega]
    simpa using ⟨c.2, hc⟩
  have ha := hk (o.adr % 64) (Nat.mod_lt _ (by decide))
  rw [Nat.div_add_mod'] at ha
  simp only [survives, OldByte.covered, ha, Bool.true_and, Bool.not_eq_false', Bool.or_eq_true, List.all_eq_true,
    List.mem_range]
  exact Or.inr hk

/-- What outlives the writes so far and the write of one more line. -/
theorem Outlives.cons {done keep} (h : Outlives cells done keep) :
    Outlives cells (l :: done) fun o => keep o && survives (lineCells cells l) o where
  drops o hk hd hm := by
    obtain ⟨hk, hs⟩ := (Bool.and_eq_true _ _).mp hk
    rcases List.mem_cons.mp hm with hl | hm
    · subst hl
      by_contra hw
      rw [survives_of_whole hd (wholeLine_lineCells.trans (by simpa using hw))] at hs
      exact absurd hs Bool.false_ne_true
    · exact h.drops o hk hd hm
  keeps o hw := by
    have hs : survives (lineCells cells l) o = true := survives_of_not_written fun c hc => hw c (List.mem_filter.mp hc).1
    rw [h.keeps o hw, hs, Bool.and_self]

/-- A line of which a part only is written need drop nothing. -/
theorem Outlives.cons_of_part {done keep} (h : Outlives cells done keep) (hw : wholeLine cells l = false) :
    Outlives cells (l :: done) keep where
  drops o hk hd hm := by
    rcases List.mem_cons.mp hm with hl | hm
    · exact hl ▸ hw
    · exact h.drops o hk hd hm
  keeps := h.keeps

/-! ## The lines of a list are written -/

/-- The state t is s once the cells in the lines of a list have been written. -/
structure LinesWritten (s : State) (cells : List Host.Cell) (done : List Nat) (t : State) : Prop where
  dramWf : Memory.wf t.dram = true
  poisonWf : spWf none t.poison = true
  rdDa : ∀ a, t.rdDa a = if a / 64 ∈ done then s.afterWrite cells a else s.rdDa a
  cause : ∀ l, t.cause l = if l ∈ done ∧ wholeLine cells l = true then none else s.cause l
  undo : ∃ keep, Outlives cells done keep ∧ t.undo = s.undo.map (Undo.filter keep)

theorem Undo.filter_true : Undo.filter (fun _ => true) = id := by
  funext e
  simp [Undo.filter]

theorem linesWritten_nil (hd : Memory.wf s.dram = true) (hp : spWf none s.poison = true) : LinesWritten s cells [] s where
  dramWf := hd
  poisonWf := hp
  rdDa := by simp
  cause := by simp
  undo := ⟨_, outlives_nil, by simp [Undo.filter_true]⟩

theorem Undo.filter_filter {f k : OldByte → Bool} {e : Undo} :
    (e.filter f).filter k = e.filter fun o => f o && k o := by
  simp [Undo.filter, List.filter_filter, Bool.and_comm]

theorem wrLine_dram_wf (h : Memory.wf s.dram = true) : Memory.wf (s.wrLine cells l).dram = true := by
  unfold State.wrLine
  split
  · exact h
  · exact writes_wf _ _ (by split <;> exact h)

theorem wrLine_poison_wf (h : spWf none s.poison = true) : spWf none (s.wrLine cells l).poison = true := by
  unfold State.wrLine
  split
  · exact h
  · split
    · exact unmark_poison_wf _ _ h
    · exact h

/-- One more line is written, on what the writes so far have left; a line written twice is as written once. -/
theorem LinesWritten.cons {done} (h : LinesWritten s cells done t) :
    LinesWritten s cells (l :: done) (t.wrLine cells l) where
  dramWf := wrLine_dram_wf h.dramWf
  poisonWf := wrLine_poison_wf h.poisonWf
  rdDa a := by
    have hm : ((if l ∈ done ∧ wholeLine cells l = true then none else s.cause l).isSome && !wholeLine cells l) =
        ((s.cause l).isSome && !wholeLine cells l) := by
      cases wholeLine cells l <;> simp
    rw [wrLine_rdDa h.dramWf, h.rdDa, h.cause, hm]
    by_cases ha : a / 64 = l
    · subst ha
      cases hb : (s.cause (a / 64)).isSome && !wholeLine cells (a / 64) <;>
        cases hl : lastAt cells a <;> simp [State.afterWrite, hb, hl]
    · simp [ha]
  cause k := by
    rw [wrLine_cause h.poisonWf, h.cause]
    by_cases hk : k = l <;> by_cases hw : wholeLine cells k = true <;> simp_all
  undo := by
    obtain ⟨keep, ho, hu⟩ := h.undo
    unfold State.wrLine
    split
    next hb => exact ⟨keep, ho.cons_of_part (by simp at hb; exact hb.2), hu⟩
    next =>
      refine ⟨_, ho.cons, ?_⟩
      rw [wrCells_undo, apply_ite State.undo, unmark_undo, ite_self, hu, List.map_map]
      exact List.map_congr_left fun _ _ => Undo.filter_filter

/-- The lines of a list are written one after the other. -/
theorem LinesWritten.foldl {done} {ls : List Nat} (h : LinesWritten s cells done t) :
    LinesWritten s cells (ls.reverse ++ done) (ls.foldl (State.wrLine cells) t) := by
  induction ls generalizing t done with
  | nil => exact h
  | cons l r ih => simpa using ih h.cons

/-- A write of device memory writes the lines of a list in which every cell lies. -/
theorem wrDa_linesWritten (hd : Memory.wf s.dram = true) (hp : spWf none s.poison = true) :
    ∃ done, (∀ c ∈ cells, c.1 / 64 ∈ done) ∧ LinesWritten s cells done (s.wrDa cells) := by
  by_cases hc : s.poison.isEmpty = true
  · have hn (l : Nat) : s.cause l = none := by rw [State.cause, List.isEmpty_iff.mp hc]; rfl
    refine ⟨cells.map (·.1 / 64), fun c hm => List.mem_map_of_mem hm, ?_⟩
    rw [wrDa_of_clean hc]
    refine ⟨writes_wf cells _ hd, hp, fun a => ?_, fun l => ?_, survives cells, ⟨?_, ?_⟩, wrCells_undo⟩
    · rw [wrCells_rdDa hd]
      split
      · simp [State.afterWrite, hn]
      next ha => rw [lastAt_eq_none (a := a) fun c hm he => ha (he ▸ List.mem_map_of_mem hm)]; rfl
    · rw [wrCells_cause, hn, ite_self]
    · intro o hk ho _
      by_contra hw
      rw [survives_of_whole ho (by simpa using hw)] at hk
      exact absurd hk Bool.false_ne_true
    · exact fun o => survives_of_not_written
  · refine ⟨_, fun c hm => ?_, wrDa_of_poisoned hc ▸ (linesWritten_nil hd hp).foldl⟩
    simpa [List.mem_eraseDups] using ⟨c.1, ⟨c.2, hm⟩, rfl⟩

/-! ## Lines in which no cell lies -/

theorem wholeLine_of_untouched (h : ∀ c ∈ cells, c.1 / 64 ≠ l) : wholeLine cells l = false := by
  by_contra hw
  obtain ⟨c, hc, he⟩ := wholeLine_iff.mp (by simpa using hw) 0 (by decide)
  exact h c hc (by omega)

theorem afterWrite_of_untouched (h : ∀ c ∈ cells, c.1 / 64 ≠ a / 64) : s.afterWrite cells a = s.rdDa a := by
  rw [State.afterWrite, lastAt_eq_none fun c hc he => h c hc (he ▸ rfl)]
  exact ite_self _

end

/-- Settles O42: the lines in which a cell lies are written one by one (`wrDa_linesWritten`), the others are not touched. -/
theorem deviceMemoryWrites : Obligations.DeviceMemoryWrites := by
  intro s cells hs
  obtain ⟨hd, hp, -⟩ := memOk_iff.mp hs
  obtain ⟨done, hdone, hw⟩ := wrDa_linesWritten (cells := cells) hd hp
  have hout (l : Nat) (hl : l ∉ done) : ∀ c ∈ cells, c.1 / 64 ≠ l := fun c hc he => hl (he ▸ hdone c hc)
  obtain ⟨keep, ho, hu⟩ := hw.undo
  refine ⟨fun a => ?_, fun l => ?_, ?_, fun k => ?_, fun k e e' he he' o => ?_⟩
  · rw [hw.rdDa]
    split
    · rfl
    next ha => exact (afterWrite_of_untouched (hout _ ha)).symm
  · rw [hw.cause]
    by_cases hl : l ∈ done
    · simp [hl]
    · simp [wholeLine_of_untouched (hout l hl)]
  · rw [wrDa_frame]
  · rw [hu, List.getElem?_map, Option.map_map]
    rfl
  · obtain rfl : e.filter keep = e' := by simpa [hu, he] using he'
    rw [Undo.filter, List.mem_filter]
    refine ⟨fun ⟨hm, hk⟩ => ⟨hm, fun hn => ?_⟩, fun hm hc => ⟨hm, ho.keeps o hc⟩⟩
    by_cases hl : o.adr / 64 ∈ done
    · exact ho.drops o hk hn hl
    · exact wholeLine_of_untouched (hout _ hl)

end Sys2Proof.Machine

namespace Sys2Proof.Machine

/-! # Every step keeps partitions apart

`State.courtsOk` speaks of the courts of each partition and of whether it is FREE. Few commands change these: `part`, the end
of `free`, and what resets the device. `State.charter` collects them, with the fuses, which change as rarely (R475): a
function of the model that changes none of them has a lemma `…_charter`, a simp lemma, so that a composition of functions
reduces to the charter of the state it starts from. The functions that do change courts have a lemma `…_courtsOk`. -/

section

/-! ## The charter of a state -/

/-- The courts of a partition, and whether it is FREE. -/
def Partition.tenure (q : Partition) : List Nat × Bool := (q.courts, q.stat == .free)

/-- What only few commands change: the fuses, and the tenure of each partition. -/
def State.charter (s : State) : Fuses × List (List Nat × Bool) := (s.fuses, s.parts.map Partition.tenure)

variable {s : State}

/-- Whether partitions are apart is written in the charter. -/
theorem courtsOk_eq :
    s.courtsOk = ((s.charter.2.all fun e => (e.1.isEmpty == e.2) && e.1.all fun c => decide (c < 8)) &&
      decide (s.charter.2.flatMap (·.1)).Nodup) := by
  simp only [State.courtsOk, State.charter, List.all_map, List.flatMap_map]
  rfl

/-- States of one charter keep partitions apart alike. -/
theorem courtsOk_of_charter {t : State} (h : s.courtsOk = true) (e : t.charter = s.charter) : t.courtsOk = true := by
  rwa [courtsOk_eq, e, ← courtsOk_eq]

/-- States of one charter have the same tenure of each partition. -/
theorem tenure_of_charter {t : State} (e : t.charter = s.charter) (p : Nat) :
    (t.part p).tenure = (s.part p).tenure := by
  have h (u : State) : (u.part p).tenure = u.charter.2.getD p ([], true) := by
    simp only [State.part, tget, State.charter, List.getD_eq_getElem?_getD, List.getElem?_map]
    cases u.parts[p]? <;> rfl
  rw [h, e, ← h]

/-- States of one charter have the same owner of each court. -/
theorem owner_of_charter {t : State} (e : t.charter = s.charter) (c : Nat) : t.owner c = s.owner c := by
  have h (u : State) : u.owner c = u.charter.2.findIdx? fun x => x.1.contains c := by
    rw [State.charter, List.findIdx?_map]
    rfl
  rw [h, e, ← h]

@[simp] theorem ite_charter {c : Prop} [Decidable c] {a b : State} :
    (if c then a else b).charter = if c then a.charter else b.charter := apply_ite State.charter c a b

/-! ## Updates of one item -/

/-- States with the same fuses and partitions have the same charter. -/
theorem same_charter {t : State} (hf : t.fuses = s.fuses) (hp : t.parts = s.parts) : t.charter = s.charter := by
  simp [State.charter, hf, hp]

/-- A change of one item that keeps what `f` sees of that item keeps what `f` sees of the list. -/
theorem map_modify_of_getElem {α β : Type} {f : α → β} {u : α → α} {i : Nat} {l : List α}
    (h : ∀ a, l[i]? = some a → f (u a) = f a) : (l.modify i u).map f = l.map f := by
  refine List.ext_getElem? fun j => ?_
  rw [List.getElem?_map, List.getElem?_map, List.getElem?_modify]
  split
  next hj =>
    subst hj
    cases ha : l[i]? with
    | none => rfl
    | some a => simpa using h a ha
  next => simp

/-- A change of a partition that leaves its tenure as it stands leaves the charter. -/
theorem updPart_charter_of {p} {f : Partition → Partition} (h : (f (s.part p)).tenure = (s.part p).tenure) :
    (s.updPart p f).charter = s.charter := by
  refine congrArg (Prod.mk s.fuses) (map_modify_of_getElem fun q hq => ?_)
  rwa [State.part, tget, List.getD_eq_getElem?_getD, hq] at h

/-- A change that leaves the courts and the stored state of every partition leaves the charter. -/
@[simp] theorem updPart_charter {p} {f : Partition → Partition} (hc : ∀ q, (f q).courts = q.courts)
    (hs : ∀ q, (f q).stat = q.stat) : (s.updPart p f).charter = s.charter :=
  updPart_charter_of (by simp [Partition.tenure, hc, hs])

@[simp] theorem updWin_charter {w f} : (s.updWin w f).charter = s.charter := same_charter rfl rfl
@[simp] theorem updCourt_charter {c f} : (s.updCourt c f).charter = s.charter := same_charter rfl rfl
@[simp] theorem updClu_charter {g f} : (s.updClu g f).charter = s.charter := same_charter rfl rfl
@[simp] theorem updChan_charter {m f} : (s.updChan m f).charter = s.charter := same_charter rfl rfl
@[simp] theorem updPort_charter {x f} : (s.updPort x f).charter = s.charter := same_charter rfl rfl
@[simp] theorem updIde_charter {k f} : (s.updIde k f).charter = s.charter := same_charter rfl rfl
@[simp] theorem updDev_charter {f} : (s.updDev f).charter = s.charter := same_charter rfl rfl
@[simp] theorem updHost_charter {f} : (s.updHost f).charter = s.charter := same_charter rfl rfl
@[simp] theorem updUart_charter {f} : (s.updUart f).charter = s.charter := same_charter rfl rfl
@[simp] theorem updBoard_charter {f} : (s.updBoard f).charter = s.charter := same_charter rfl rfl
@[simp] theorem updSpdm_charter {f} : (s.updSpdm f).charter = s.charter := same_charter rfl rfl
@[simp] theorem send_charter {o} : (s.send o).charter = s.charter := same_charter rfl rfl
@[simp] theorem fresh_charter : s.fresh.charter = s.charter := same_charter rfl rfl
@[simp] theorem setFree_charter {n} : ({ s with free := n } : State).charter = s.charter := same_charter rfl rfl
@[simp] theorem setUndo_charter {us} : ({ s with undo := us } : State).charter = s.charter := same_charter rfl rfl
@[simp] theorem setPoison_charter {m} : ({ s with poison := m } : State).charter = s.charter := same_charter rfl rfl
@[simp] theorem setDram_charter {m} : ({ s with dram := m } : State).charter = s.charter := same_charter rfl rfl
@[simp] theorem setWindows_charter {ws} : ({ s with windows := ws } : State).charter = s.charter := same_charter rfl rfl
@[simp] theorem land_charter {clu adrs} : (s.land clu adrs).charter = s.charter := same_charter rfl rfl
@[simp] theorem updStr_charter {g st f} : (s.updStr g st f).charter = s.charter := same_charter rfl rfl
@[simp] theorem passTime_charter {g} : (s.passTime g).charter = s.charter := same_charter rfl rfl

/-- A loop whose steps leave the charter leaves it. -/
@[simp] theorem foldl_charter {β : Type} {f : State → β → State} {l : List β}
    (hf : ∀ t b, (f t b).charter = t.charter) : (l.foldl f s).charter = s.charter :=
  foldl_keeps (·.charter = s.charter) f l s rfl fun t b h => (hf t b).trans h

/-! ## Sending -/

@[simp] theorem msix_charter {v} : (s.msix v).charter = s.charter := by rw [msix_frame]; rfl
@[simp] theorem txd_charter {b} : (s.txd b).charter = s.charter := by rw [txd_frame]; rfl
@[simp] theorem uartEcho_charter {b} : (s.uartEcho b).charter = s.charter := by simp [State.uartEcho]
@[simp] theorem deliver_charter {w u l} : (s.deliver w u l).charter = s.charter := by rw [deliver_frame]; rfl
@[simp] theorem countLine_charter {w} : (s.countLine w).charter = s.charter := by simp [State.countLine]
@[simp] theorem emit_charter {w u l} : (s.emit w u l).charter = s.charter := by simp [State.emit]
@[simp] theorem reply_charter {w l b} : (s.reply w l b).charter = s.charter := emit_charter
@[simp] theorem ok_charter {w l ks} : (s.ok w l ks).charter = s.charter := emit_charter
@[simp] theorem no_charter {w l why ks} : (s.no w l why ks).charter = s.charter := emit_charter
@[simp] theorem replies_charter {w l d ks} : (s.replies w l d ks).charter = s.charter := by simp [State.replies]
@[simp] theorem event_charter {l} : (s.event l).charter = s.charter := by simp [State.event]
@[simp] theorem aer_charter {b} : (s.aer b).charter = s.charter := by rw [aer_frame]; rfl
@[simp] theorem ignore_charter {w l why} : (s.ignore w l why).charter = s.charter := by rw [ignore_frame]; rfl
@[simp] theorem biAsk_charter {ls} : (s.biAsk ls).charter = s.charter := foldl_charter fun t b => by simp

/-! ## Rally ports -/

/-- A state that differs in its ports and in what is sent has the same charter. -/
theorem SameButPorts.charter {t : State} (h : SameButPorts s t) : t.charter = s.charter := by rw [h]; rfl

@[simp] theorem sendFrame_charter {x f} : (s.sendFrame x f).charter = s.charter := (sendFrame_sameButPorts s x f).charter
@[simp] theorem idle_charter {x w} : (s.idle x w).charter = s.charter := (idle_sameButPorts s x w).charter
@[simp] theorem freeBuf_charter {x f} : (s.freeBuf x f).charter = s.charter := (freeBuf_sameButPorts s x f).charter
@[simp] theorem emptyPort_charter {x} : (s.emptyPort x).charter = s.charter := (emptyPort_sameButPorts s x).charter
@[simp] theorem portDown_charter {x hold retry} : (s.portDown x hold retry).charter = s.charter :=
  (portDown_sameButPorts s x hold retry).charter
@[simp] theorem train_charter {x} : (s.train x).charter = s.charter := (train_sameButPorts s x).charter

@[simp] theorem drainPort_charter {n x} : (drainPort n x s).charter = s.charter := by
  induction n generalizing s with
  | zero => rfl
  | succ n ih =>
    unfold drainPort
    dsimp only
    split
    · rfl
    · split
      · rfl
      · rw [ih]
        split <;> simp

@[simp] theorem drain_charter {x} : (s.drain x).charter = s.charter := drainPort_charter
@[simp] theorem egress_charter {x f held} : (s.egress x f held).charter = s.charter := drainPort_charter

@[simp] theorem route_charter {p f} : (s.route p f).charter = s.charter := by
  unfold State.route
  split <;> simp

@[simp] theorem dropFrame_charter {x} : (s.dropFrame x).charter = s.charter := same_charter rfl rfl
@[simp] theorem linkEvent_charter {x up} : (s.linkEvent x up).charter = s.charter := event_charter
@[simp] theorem linkUp_charter {x} : (s.linkUp x).charter = s.charter := by simp [State.linkUp]
@[simp] theorem resend_charter {x} : (s.resend x).charter = s.charter := by simp [State.resend]

@[simp] theorem receive_charter {x f} : (s.receive x f).2.charter = s.charter := by
  unfold State.receive
  extract_lets q t u v
  have hv : v.charter = s.charter := by simp [v, u, t]
  clear_value v
  repeat' split
  all_goals simp [hv]

@[simp] theorem forward_charter {x f} : (s.forward x f).charter = s.charter := by
  unfold State.forward
  split
  · split <;> simp
  · simp

@[simp] theorem readRsp_charter {p dst tid st} : (s.readRsp p dst tid st).charter = s.charter := by
  unfold State.readRsp
  split <;> simp

/-! ## Memories -/

@[simp] theorem tableAdd_charter {l} : (s.tableAdd l).charter = s.charter := same_charter rfl rfl
@[simp] theorem mark_charter {l c} : (s.mark l c).charter = s.charter := by simp [State.mark]
@[simp] theorem markHost_charter {l} : (s.markHost l).charter = s.charter := same_charter rfl rfl
@[simp] theorem observe_charter {o ls} : (s.observe o ls).charter = s.charter := by simp [State.observe]
@[simp] theorem wrDa_charter {cells} : (s.wrDa cells).charter = s.charter := by rw [wrDa_frame]; rfl
@[simp] theorem wrPa_charter {p cells} : (s.wrPa p cells).charter = s.charter := wrDa_charter
@[simp] theorem zeroCourt_charter {c} : (s.zeroCourt c).charter = s.charter := same_charter rfl rfl
@[simp] theorem wrArg_charter {p g a cells} : (s.wrArg p g a cells).charter = s.charter := by simp [State.wrArg]
@[simp] theorem wrSettled_charter {p g a cells} : (s.wrSettled p g a cells).charter = s.charter := by
  simp [State.wrSettled]

@[simp] theorem unwrite_charter {o} : (s.unwrite o).charter = s.charter := by
  unfold State.unwrite
  split
  · dsimp only
    split <;> simp
  · simp

@[simp] theorem abandonWrites_charter {es ws} : (s.abandonWrites es ws).charter = s.charter := by
  induction es generalizing s ws with
  | nil => rfl
  | cons e r ih => exact ih.trans (foldl_charter fun _ _ => unwrite_charter)

@[simp] theorem abandonAll_charter {p} : (s.abandonAll p).charter = s.charter := by
  unfold State.abandonAll
  dsimp only
  split
  · rfl
  · exact (same_charter rfl rfl).trans abandonWrites_charter

/-! ## Partitions, reports and faults -/

@[simp] theorem haltDone_charter {p} : (s.haltDone p).charter = s.charter := by
  unfold State.haltDone
  split <;> simp

@[simp] theorem settle_charter {p} : (s.settle p).charter = s.charter := by
  refine updPart_charter (fun q => ?_) fun q => ?_ <;> split <;> rfl

@[simp] theorem endRun_charter {p r st code line fv} : (s.endRun p r st code line fv).charter = s.charter := by
  simp [State.endRun]

@[simp] theorem endJob_charter {p j st} : (s.endJob p j st).charter = s.charter := by simp [State.endJob]
@[simp] theorem suspect_charter {p g hit} : (s.suspect p g hit).charter = s.charter := by simp [State.suspect]
@[simp] theorem chargeSlots_charter {p} : (s.chargeSlots p).charter = s.charter := by simp [State.chargeSlots]
@[simp] theorem dropRally_charter {p} : (s.dropRally p).charter = s.charter := by simp [State.dropRally]

@[simp] theorem floodAbort_charter {p code} : (s.floodAbort p code).charter = s.charter := by
  unfold State.floodAbort
  split <;> simp

@[simp] theorem lateErr_charter {p n} : (s.lateErr p n).charter = s.charter := by simp [State.lateErr]
@[simp] theorem stopEngines_charter {p} : (s.stopEngines p).charter = s.charter := by simp [State.stopEngines]

/-- Errors that may latch are errors of a partition that is up. -/
theorem stat_of_latched {q : Partition} {errs : List HwErr} {e : HwErr} {worst : Option HwErr → HwErr → Option HwErr}
    (h : (errs.filter fun e => q.mayLatch e.code).foldl worst none = some e) : q.stat = .up := by
  cases hf : errs.filter fun e => q.mayLatch e.code with
  | nil => simp [hf] at h
  | cons a r =>
    obtain ⟨-, ha⟩ := List.mem_filter.mp (hf ▸ List.mem_cons_self : a ∈ errs.filter fun e => q.mayLatch e.code)
    simp only [Partition.mayLatch, Bool.and_eq_true, beq_iff_eq] at ha
    exact ha.1

/-- A fault latches in a partition that is not FREE, as `Partition.mayLatch` asks, and takes no court from it. -/
@[simp] theorem latchAll_charter {p errs} : (s.latchAll p errs).charter = s.charter := by
  unfold State.latchAll
  extract_lets q late errs'
  split
  · rfl
  next e he =>
    split
    · simp
    next hl =>
      have hup : (s.part p).stat = .up := stat_of_latched (by simpa [errs', hl, q] using he)
      extract_lets t u
      have ht : t.charter = s.charter := updPart_charter_of (by simp [Partition.tenure, hup])
      have hu : u.charter = s.charter := by simp [u, ht]
      rw [ite_charter, floodAbort_charter, ite_self, hu]

@[simp] theorem latch_charter {p e} : (s.latch p e).charter = s.charter := latchAll_charter

@[simp] theorem linkDown_charter {x hold retry} : (s.linkDown x hold retry).charter = s.charter := by
  unfold State.linkDown
  dsimp only
  split <;> simp

/-- Each report leaves with the write of its done word, its line and its vectors. -/
@[simp] theorem pumpReports_charter {obs n p} : (pumpReports obs n p s).charter = s.charter := by
  induction n generalizing s with
  | zero => rfl
  | succ n ih =>
    unfold pumpReports
    extract_lets q
    split
    · rfl
    next r rest _ =>
      extract_lets held t u v w x y
      have ht : t.charter = s.charter := by
        unfold t
        split
        · rfl
        · split <;> simp
      clear_value t
      split
      · rfl
      · split
        · simp
        · split
          · simp [ht]
          · simp [ih, y, x, w, v, u, ht]

@[simp] theorem pump_charter {p obs} : (s.pump p obs).charter = s.charter := by simp [State.pump]
@[simp] theorem pumpFree_charter {p} : (s.pumpFree p).charter = s.charter := by simp [State.pumpFree]

/-! ## Scrubs, device faults and court caches -/

/-- The marks of court cache lines that are written back are set anew, each on its own. -/
@[simp] theorem unhold_charter {cs} : (s.unhold cs).charter = s.charter := by simp [State.unhold]

@[simp] theorem evictPoison_charter : s.evictPoison.charter = s.charter := by simp [State.evictPoison]

/-- A scrub takes drill lines from partitions, no courts. -/
@[simp] theorem scrub_charter {cs keep} : (s.scrub cs keep).charter = s.charter := by
  unfold State.scrub
  extract_lets t
  have ht : t.charter = s.charter := by simp [t]
  rw [← ht]
  exact congrArg (Prod.mk t.fuses) (List.map_map ..)

/-- A device fault makes a partition FAULTED that is not FREE. -/
@[simp] theorem deviceLatch_charter {cause p} : (s.deviceLatch cause p).charter = s.charter := by
  unfold State.deviceLatch
  split
  · rfl
  · simp
  next hf _ =>
    have ht : (((s.lateErr p 1).part p).stat == .free) = ((s.part p).stat == .free) :=
      congrArg Prod.snd (tenure_of_charter lateErr_charter p)
    refine (updPart_charter_of ?_).trans lateErr_charter
    simpa [Partition.tenure, ht] using hf

@[simp] theorem keepCopy_charter {p} : (s.keepCopy p).charter = s.charter := by
  unfold State.keepCopy
  split <;> simp

@[simp] theorem cutFlash_charter : s.cutFlash.charter = s.charter := by
  unfold State.cutFlash
  split <;> rfl

@[simp] theorem faultAgain_charter {cause} : (s.faultAgain cause).charter = s.charter := by simp [State.faultAgain]

@[simp] theorem deviceFault_charter {cause handler} : (s.deviceFault cause handler).charter = s.charter := by
  simp [State.deviceFault]

@[simp] theorem rewritePoison_charter {p} : (s.rewritePoison p).charter = s.charter := by
  simp [State.rewritePoison]

/-- A command leaves the charter when the state that it answers has it. -/
theorem next_charter {t : State} (h : t.charter = s.charter) : (outOf s (.next t)).charter = s.charter := h

/-! ## Streams and long words -/

@[simp] theorem count_charter {g set cs} : (s.count g set cs).charter = s.charter := updClu_charter

@[simp] theorem draws_charter {p g st w n c} : (s.draws p g st w n c).2.charter = s.charter := by
  unfold State.draws
  split
  · split <;> simp
  · rfl

@[simp] theorem fetch_charter {g st} : (s.fetch g st).charter = s.charter := updStr_charter
@[simp] theorem fetchAll_charter {g} : (s.fetchAll g).charter = s.charter := foldl_charter fun _ _ => fetch_charter
@[simp] theorem setStop_charter {p x} : (s.setStop p x).charter = s.charter := by simp [State.setStop]
@[simp] theorem trigger_charter {p rel st} : (s.trigger p rel st).charter = s.charter := by simp [State.trigger]

@[simp] theorem signal_charter {p g w} : (s.signal p g w).charter = s.charter := by
  unfold State.signal
  split <;> simp

@[simp] theorem issueStop_charter {hd st n} : (s.issueStop hd st n).charter = s.charter := by
  unfold State.issueStop
  dsimp only
  split
  · simp
  · split <;> simp

@[simp] theorem issueWith_charter {hd g st ws adv} : (issueWith s hd g st ws adv).charter = s.charter := by
  simp [issueWith]

@[simp] theorem issueCommon_charter {hd g st ws} : (issueCommon s hd g st ws).charter = s.charter := issueWith_charter

/-- An operation at the head of a stream leaves the charter when what it does there does. -/
@[simp] theorem withHead_charter {g st op} {f : Head → State} (hf : ∀ hd, (f hd).charter = s.charter) :
    (withHead s g st op f).charter = s.charter := by
  unfold withHead
  split <;> simp [hf]

@[simp] theorem spSeen_charter {cs obs} : (s.spSeen cs obs).charter = s.charter := by simp [State.spSeen]
@[simp] theorem seen_charter {cs obs ls} : (s.seen cs obs ls).charter = s.charter := by simp [State.seen]

@[simp] theorem readDescs_charter {hd g st op obs} : (s.readDescs hd g st op obs).charter = s.charter :=
  observe_charter

@[simp] theorem readArgs_charter {hd g st op obs args} : (s.readArgs hd g st op obs args).charter = s.charter :=
  seen_charter

@[simp] theorem remember_charter {t : State} {p g st ws} : (t.remember s p g st ws).charter = t.charter := by
  rw [remember_frame]
  exact setUndo_charter

@[simp] theorem keepLate_charter {t : State} {p g st ws ds} : (t.keepLate s p g st ws ds).charter = t.charter := by
  rw [keepLate_frame]
  exact setUndo_charter

@[simp] theorem retire_charter {p g st f} : (s.retire p g st f).charter = s.charter := by
  unfold State.retire
  extract_lets u t v w x
  have hx : x.charter = s.charter := by
    unfold x
    split <;> simp [w, v, t]
  simp [hx]

/-- A long word with operands leaves the charter when its body does: before that it reads or faults. -/
theorem withArgs_charter {g st op obs} {f : Head → List Arg → State → State}
    (hf : ∀ hd args t, (f hd args t).charter = t.charter) : (withArgs s g st op obs f).charter = s.charter := by
  refine withHead_charter fun hd => ?_
  dsimp only
  split
  · simp
  · split
    · simp
    · split
      · simp
      · split
        · simp
        · split
          · simp
          · split
            · simp
            · split <;> simp [hf]

/-- A long word on registers and regions leaves the charter when its body does. -/
theorem withRegions_charter {g op obs srcs dsts} {f : Head → State → State}
    (hf : ∀ hd t, (f hd t).charter = t.charter) : (withRegions s g op obs srcs dsts f).charter = s.charter := by
  refine withHead_charter fun hd => ?_
  dsimp only
  split
  · simp
  · split <;> simp [hf]

/-- An operation of two operands does what its body does, or nothing. -/
theorem twoArgs_charter {args} {f : Arg → Arg → State} (hf : ∀ a b, (f a b).charter = s.charter) :
    (twoArgs args s f).charter = s.charter := by
  unfold twoArgs
  split
  · exact hf _ _
  · rfl

/-! ## Operations of every stream, signals and requests between clusters -/

@[simp] theorem execNop_charter {g st} : (outOf s (execNop g st s)).charter = s.charter := by simp [execNop]
@[simp] theorem execSync_charter {g st} : (outOf s (execSync g st s)).charter = s.charter := by simp [execSync]
@[simp] theorem execLoop_charter {g st} : (outOf s (execLoop g st s)).charter = s.charter := by simp [execLoop]
@[simp] theorem execBr_charter {g st} : (outOf s (execBr g st s)).charter = s.charter := by simp [execBr]
@[simp] theorem execAop_charter {g st} : (outOf s (execAop g st s)).charter = s.charter := by simp [execAop]
@[simp] theorem execEop_charter {g st} : (outOf s (execEop g st s)).charter = s.charter := by simp [execEop]
@[simp] theorem execTop_charter {g st} : (outOf s (execTop g st s)).charter = s.charter := by simp [execTop]
@[simp] theorem execQcmp_charter {g st} : (outOf s (execQcmp g st s)).charter = s.charter := by simp [execQcmp]
@[simp] theorem execBrk_charter {g st} : (outOf s (execBrk g st s)).charter = s.charter := by simp [execBrk]
@[simp] theorem execFin_charter {g st} : (outOf s (execFin g st s)).charter = s.charter := by simp [execFin]
@[simp] theorem rlyClear_charter {p rid} : (s.rlyClear p rid).charter = s.charter := by simp [State.rlyClear]

@[simp] theorem execLongWordComplete_charter {g st} : (outOf s (execLongWordComplete g st s)).charter = s.charter := by
  unfold execLongWordComplete
  rw [outOf_next]
  split
  · split
    · rfl
    · split <;> simp
  · rfl

@[simp] theorem execSignalArrive_charter {g t n} : (outOf s (execSignalArrive g t n s)).charter = s.charter := by
  unfold execSignalArrive
  rw [outOf_next]
  split <;> simp

@[simp] theorem execRemoteRequest_charter {g st} : (outOf s (execRemoteRequest g st s)).charter = s.charter := by
  unfold execRemoteRequest
  rw [outOf_next]
  split
  · dsimp only
    split <;> simp
  · rfl

@[simp] theorem execRemoteGrant_charter {g} : (outOf s (execRemoteGrant g s)).charter = s.charter := by
  unfold execRemoteGrant
  rw [outOf_next]
  split
  · dsimp only
    split <;> simp
  · rfl

@[simp] theorem execRemoteRelease_charter {g} : (outOf s (execRemoteRelease g s)).charter = s.charter := by
  unfold execRemoteRelease
  rw [outOf_next]
  split <;> simp

@[simp] theorem icacheRead_charter {p g b line obs} : (s.icacheRead p g b line obs).charter = s.charter := by
  simp [State.icacheRead]

@[simp] theorem execIcacheFill_charter {g b line obs} :
    (outOf s (execIcacheFill g b line obs s)).charter = s.charter := by
  unfold execIcacheFill
  rw [outOf_next]
  split <;> simp

@[simp] theorem execIcacheParityRefetch_charter {g b line again obs} :
    (outOf s (execIcacheParityRefetch g b line again obs s)).charter = s.charter := by
  unfold execIcacheParityRefetch
  rw [outOf_next]
  split <;> simp

/-! ## Loads, permutes and stores -/

@[simp] theorem convMove_charter {hd g st w src dst els} : (convMove s hd g st w src dst els).charter = s.charter := by
  simp [convMove]

@[simp] theorem convRows_charter {hd g st w src cut full els} :
    (convRows s hd g st w src cut full els).charter = s.charter := by
  simp [convRows]

@[simp] theorem afterIndices_charter {hd g st l n} : (afterIndices s hd g st l n).charter = s.charter := by
  unfold afterIndices
  split <;> simp

theorem loadBody_charter {g hd args} : (loadBody g hd args s).charter = s.charter := by
  unfold loadBody
  split <;> simp

theorem gathBody_charter {g hd args} : (gathBody g hd args s).charter = s.charter := by
  unfold gathBody
  split <;> simp

theorem moveBody_charter {g hd src dst f} : (moveBody g hd src dst f s).charter = s.charter := by simp [moveBody]
theorem repackBody_charter {g hd src dst f} : (repackBody g hd src dst f s).charter = s.charter := by simp [repackBody]

/-- A permute moves whole elements, or packs Iris4 blocks afresh. -/
theorem permuteBody_charter {c : Bool} {g hd src dst f} :
    ((if c then repackBody else moveBody) g hd src dst f s).charter = s.charter := by
  split
  · exact repackBody_charter
  · exact moveBody_charter

theorem packBody_charter {g hd args} : (packBody g hd args s).charter = s.charter :=
  twoArgs_charter fun _ _ => by simp

theorem storeBody_charter {g hd args} : (storeBody g hd args s).charter = s.charter :=
  twoArgs_charter fun _ _ => by simp

/-- A PUT writes another device's memory: it sends frames, or faults. -/
theorem putBody_charter {g hd args} : (putBody g hd args s).charter = s.charter := by
  refine twoArgs_charter fun _ _ => ?_
  extract_lets q dev member
  split
  · split
    · simp
    · dsimp only
      split <;> simp
  · simp

/-! ## Reductions and orders -/

@[simp] theorem putResults_charter {p g dst set res} : (s.putResults p g dst set res).charter = s.charter := by
  simp [State.putResults]

theorem reduceBody_charter {g hd args} : (reduceBody g hd args s).charter = s.charter := by
  unfold reduceBody
  extract_lets x ax sum pick go
  have hgo {src src2 dst idst} : (go src src2 dst idst).charter = s.charter := by
    dsimp only [go]
    split
    · rw [issueCommon_charter]
      split <;> simp
    · rfl
  clear_value go
  split
  · exact hgo
  · split <;> exact hgo
  · rfl

theorem orderBody_charter {g st k desc ax src dst idst hd} :
    (orderBody g st k desc ax src dst idst hd s).charter = s.charter := by
  unfold orderBody
  split <;> simp

theorem scanBody_charter {g hd args} : (scanBody g hd args s).charter = s.charter := by
  unfold scanBody
  split
  · split <;> simp
  · rfl

theorem xredBody_charter {obs g hd args} : (xredBody obs g hd args s).charter = s.charter := by
  unfold xredBody
  split
  · split <;> simp
  · rfl

@[simp] theorem xredDeliver_charter {p ps susp me} : (s.xredDeliver p ps susp me).charter = s.charter := by
  unfold State.xredDeliver
  dsimp only
  split <;> simp

/-! ## Rally reductions -/

@[simp] theorem rlyFinish_charter {p r} : (s.rlyFinish p r).charter = s.charter := by
  unfold State.rlyFinish
  split
  · dsimp only
    split <;> simp
  · rfl

@[simp] theorem rlyRoot_charter {p x t} : (s.rlyRoot p x t).charter = s.charter := by
  unfold State.rlyRoot
  split
  · split
    · rfl
    · dsimp only
      split <;> simp
  · rfl

@[simp] theorem child_charter {p x c} : (s.child p x c).charter = s.charter := by
  unfold State.child
  split
  · rfl
  · dsimp only
    split
    · simp
    · exact foldl_charter fun _ _ => rlyRoot_charter

@[simp] theorem retryReduce_charter {n p x} : (retryReduce n p x s).charter = s.charter := by
  induction n generalizing s with
  | zero => rfl
  | succ n ih =>
    unfold retryReduce
    split
    · simp [ih]
    · split
      · split
        · simp [ih]
        · rfl
      · rfl

@[simp] theorem childAndRest_charter {p x c} : (s.childAndRest p x c).charter = s.charter :=
  retryReduce_charter.trans child_charter

@[simp] theorem placeOwn_charter {p x r lines} : (s.placeOwn p x r lines).charter = s.charter := by
  simp [State.placeOwn]

theorem rlyBody_charter {obs g hd args} : (rlyBody obs g hd args s).charter = s.charter := by
  unfold rlyBody
  split
  · split
    · extract_lets q w x rid kind axc ax rack k err member exts b need epoch x0 home c8
      have herr {a d} : (err a d).charter = s.charter := latch_charter
      clear_value err member
      split
      · exact herr
      · split
        · exact herr
        · split
          · exact herr
          · dsimp only
            split <;> simp
    · rfl
  · rfl

/-! ## Chains and vector registers -/

theorem microStep_charter {hd g w n vr av bv q} {c : PassSt} :
    (microStep hd g w n vr av bv c q).s.charter = c.s.charter := by
  unfold microStep
  split
  · rfl
  · split <;> simp

@[simp] theorem chainPass_charter {hd g w j} : (chainPass hd g w s j).charter = s.charter := by
  unfold chainPass
  extract_lets lw n k els av bv c t
  have hc : c.s.charter = s.charter :=
    foldl_keeps (fun c : PassSt => c.s.charter = s.charter) _ _ _ rfl fun _ _ hc => microStep_charter.trans hc
  have ht : t.charter = s.charter := updClu_charter.trans hc
  clear_value t c
  split <;> simp [ht]

theorem chainBody_charter {g hd} : (chainBody g hd s).charter = s.charter := by simp [chainBody]

theorem constBody_charter {g hd} : (constBody g hd s).charter = s.charter := by
  unfold constBody
  split <;> simp

theorem vmovBody_charter {g hd} : (vmovBody g hd s).charter = s.charter := by simp [vmovBody]

/-! ## Operations with a body of their own -/

@[simp] theorem execScat_charter {g obs} : (outOf s (execScat g obs s)).charter = s.charter := by
  refine next_charter (withArgs_charter fun _ _ _ => ?_)
  split <;> simp

@[simp] theorem execGatp_charter {g obs} : (outOf s (execGatp g obs s)).charter = s.charter := by
  refine next_charter (withArgs_charter fun _ _ _ => ?_)
  split <;> simp

@[simp] theorem execTopk_charter {g obs} : (outOf s (execTopk g obs s)).charter = s.charter := by
  refine next_charter (withArgs_charter fun _ _ _ => ?_)
  split
  · exact orderBody_charter
  · rfl

@[simp] theorem execSort_charter {g obs} : (outOf s (execSort g obs s)).charter = s.charter := by
  refine next_charter (withArgs_charter fun _ _ _ => ?_)
  split
  · exact orderBody_charter
  · rfl

@[simp] theorem execXredResult_charter {p xtag k obs first} :
    (outOf s (execXredResult p xtag k obs s first)).charter = s.charter := by
  unfold execXredResult
  dsimp only
  rw [outOf_next]
  split
  · rfl
  · split
    · rfl
    · split
      · simp
      · split <;> simp

@[simp] theorem execDone_charter {g obs} : (outOf s (execDone g obs s)).charter = s.charter := by
  exact next_charter (withHead_charter fun hd => by simp)

@[simp] theorem execFence_charter {g obs} : (outOf s (execFence g obs s)).charter = s.charter := by
  exact next_charter (withHead_charter fun hd => by simp)

/-! ## Frames that arrive at a port, and the timers of its link -/

/-- A frame leaves the charter when what its acceptance does leaves it. -/
theorem onFrame_charter {x f mine} {body : State → State} (hb : ∀ t, (body t).charter = t.charter) :
    (onFrame s x f mine body).charter = s.charter := by
  have hr : (s.receive x f).2.charter = s.charter := receive_charter
  unfold onFrame
  split
  · rfl
  · split
    next t e => rwa [e] at hr
    next t e => rw [hb, ← hr, e]

/-- A frame leaves the charter when its meaning here and its refusal elsewhere do. -/
theorem arrive_charter {x f mine} {other : State → State} {body : Nat → State → State}
    (ho : ∀ t, (other t).charter = t.charter) (hb : ∀ p t, (body p t).charter = t.charter) :
    (arrive s x f mine other body).charter = s.charter := by
  refine onFrame_charter fun t => ?_
  split <;> simp [ho, hb]

@[simp] theorem rxCounted_charter {p src} : (s.rxCounted p src).charter = s.charter := by simp [State.rxCounted]
@[simp] theorem refuse_charter {p src st} : (s.refuse p src st).charter = s.charter := by simp [State.refuse]

@[simp] theorem execFrameWrite_charter {x f obs} : (outOf s (execFrameWrite x f obs s)).charter = s.charter := by
  unfold execFrameWrite
  dsimp only
  rw [outOf_next]
  split
  · simp
  · refine arrive_charter (fun t => ?_) fun p t => ?_
    · split <;> simp
    · rw [freeBuf_charter]
      split <;> simp

@[simp] theorem execFrameReadreq_charter {x f} : (outOf s (execFrameReadreq x f s)).charter = s.charter :=
  next_charter (arrive_charter (fun _ => rfl) fun p t => by simp)

@[simp] theorem execFlushTableRelease_charter {x} : (outOf s (execFlushTableRelease x s)).charter = s.charter := by
  unfold execFlushTableRelease
  dsimp only
  rw [outOf_next]
  split
  · split
    · split <;> simp
    · rfl
  · rfl

@[simp] theorem execFrameReadrsp_charter {x f} : (outOf s (execFrameReadrsp x f s)).charter = s.charter := by
  refine next_charter (arrive_charter (fun _ => rfl) fun p t => ?_)
  dsimp only
  split
  · simp
  · split
    · simp
    · split <;> simp

@[simp] theorem execFrameReduce_charter {x f su} : (outOf s (execFrameReduce x f su s)).charter = s.charter := by
  refine next_charter (arrive_charter (fun _ => rfl) fun p t => ?_)
  dsimp only
  split
  · simp
  · split
    · simp
    · split <;> simp

@[simp] theorem execFrameHello_charter {x f} : (outOf s (execFrameHello x f s)).charter = s.charter :=
  next_charter (onFrame_charter fun t => by simp)

@[simp] theorem execFrameAbort_charter {x f} : (outOf s (execFrameAbort x f s)).charter = s.charter := by
  refine next_charter (arrive_charter (fun _ => rfl) fun p t => ?_)
  dsimp only
  split <;> simp

@[simp] theorem execFrameIdle_charter {x f} : (outOf s (execFrameIdle x f s)).charter = s.charter :=
  next_charter (onFrame_charter fun _ => rfl)

@[simp] theorem execLinkCrcTimeout_charter {x} : (outOf s (execLinkCrcTimeout x s)).charter = s.charter := by
  simp [execLinkCrcTimeout]

@[simp] theorem execLinkReplayLimit_charter {x} : (outOf s (execLinkReplayLimit x s)).charter = s.charter := by
  simp [execLinkReplayLimit]

@[simp] theorem execLinkRetryTimer_charter {x} : (outOf s (execLinkRetryTimer x s)).charter = s.charter := by
  simp [execLinkRetryTimer]

@[simp] theorem execReductionTimeout_charter {g st} : (outOf s (execReductionTimeout g st s)).charter = s.charter := by
  unfold execReductionTimeout
  rw [outOf_next]
  split
  · dsimp only
    split
    · split <;> simp
    · rfl
  · rfl

/-! ## Rally settings and mover jobs -/

@[simp] theorem Partition.applyRally_tenure {q : Partition} {r} : (q.applyRally r).tenure = q.tenure := by
  unfold Partition.applyRally
  dsimp only
  split <;> rfl

@[simp] theorem rallySettle_charter {p} : (s.rallySettle p).charter = s.charter := by
  have ha {r} : (s.updPart p fun q => q.applyRally r).charter = s.charter :=
    updPart_charter_of Partition.applyRally_tenure
  unfold State.rallySettle
  split <;> simp [ha]

@[simp] theorem execRallySetApply_charter {p} : (outOf s (execRallySetApply p s)).charter = s.charter :=
  rallySettle_charter

@[simp] theorem aerRead_charter {err} : (s.aerRead err).charter = s.charter := by
  unfold State.aerRead
  split <;> simp

@[simp] theorem updJob_charter {p id f} : (s.updJob p id f).charter = s.charter := by simp [State.updJob]
@[simp] theorem moveLine_charter {p j l} : (s.moveLine p j l).charter = s.charter := by simp [State.moveLine]

@[simp] theorem moveAll_charter {p j ls} : (s.moveAll p j ls).1.charter = s.charter := by
  simp [State.moveAll]

@[simp] theorem abandon_charter {p j status} : (s.abandon p j status).charter = s.charter := by
  unfold State.abandon
  split
  · extract_lets q tried lines r done m
    have hr : r.charter = s.charter := by simp [r]
    rw [endJob_charter, setFree_charter]
    exact moveAll_charter.trans hr
  · simp

@[simp] theorem execHostReadCompletion_charter {p id off data err} :
    (outOf s (execHostReadCompletion p id off data s err)).charter = s.charter := by
  unfold execHostReadCompletion
  rw [outOf_next]
  split
  · rfl
  · extract_lets q c l due
    split
    · rfl
    · split <;> simp

@[simp] theorem execSealChunk_charter {p id obs k} : (outOf s (execSealChunk p id obs s k)).charter = s.charter := by
  unfold execSealChunk
  dsimp only
  rw [outOf_next]
  split
  · rfl
  · split <;> simp

@[simp] theorem execUnsealChunk_charter {p id k} : (outOf s (execUnsealChunk p id s k)).charter = s.charter := by
  unfold execUnsealChunk
  dsimp only
  rw [outOf_next]
  split
  · rfl
  · split
    · rfl
    · split
      · rfl
      · split <;> simp

@[simp] theorem execMoverJobEnd_charter {p id obs} : (outOf s (execMoverJobEnd p id obs s)).charter = s.charter := by
  unfold execMoverJobEnd
  dsimp only
  rw [outOf_next]
  split
  · rfl
  · split
    · rfl
    · split
      · simp
      · split
        · split
          · simp
          · split <;> simp
        · simp

/-! ## Launches, fault reports and partition resets -/

@[simp] theorem execLaunchStart_charter {p} : (outOf s (execLaunchStart p s)).charter = s.charter := by
  unfold execLaunchStart
  dsimp only
  rw [outOf_next]
  split
  · rfl
  · split <;> simp

@[simp] theorem execLaunchEnd_charter {p obs} : (outOf s (execLaunchEnd p s obs)).charter = s.charter := by
  unfold execLaunchEnd
  rw [outOf_next]
  split <;> simp

@[simp] theorem execDeadlineExpire_charter {p} : (outOf s (execDeadlineExpire p s)).charter = s.charter := by
  unfold execDeadlineExpire
  rw [outOf_next]
  split <;> simp

@[simp] theorem execFaultLatch_charter {p errs} : (outOf s (execFaultLatch p errs s)).charter = s.charter :=
  latchAll_charter

@[simp] theorem execFaultReport_charter {p obs} : (outOf s (execFaultReport p s obs)).charter = s.charter := by
  unfold execFaultReport
  dsimp only
  rw [outOf_next]
  split
  · rfl
  · rw [pump_charter, foldl_charter fun _ _ => abandon_charter, updPart_charter]
    · split <;> simp
    · exact fun _ => rfl
    · exact fun _ => rfl

@[simp] theorem execDeviceFault_charter {cause handler} :
    (outOf s (execDeviceFault cause s handler)).charter = s.charter := by
  simp [execDeviceFault]

/-- A partition reset begins where the partition is FAULTED. -/
@[simp] theorem execPartitionReset_charter {p e} : (outOf s (execPartitionReset p e s)).charter = s.charter := by
  unfold execPartitionReset
  extract_lets q held t u
  rw [outOf_next]
  split
  · rfl
  next hc =>
    have hq : (s.part p).stat = .faulted := by
      simp only [Bool.or_eq_true, bne_iff_ne, not_or, not_not] at hc
      exact hc.1.1.1
    have ht : t.charter = s.charter := updPart_charter_of (by simp [Partition.tenure, hq])
    split
    · simp
    · simp [u, ht]

/-- A partition reset ends where the partition is RESETTING. -/
@[simp] theorem execPartitionResetEnd_charter {p} : (outOf s (execPartitionResetEnd p s)).charter = s.charter := by
  unfold execPartitionResetEnd
  dsimp only
  rw [outOf_next]
  split
  next hc =>
    simp only [Bool.and_eq_true, beq_iff_eq] at hc
    obtain ⟨⟨hq, -⟩, -⟩ := hc
    exact settle_charter.trans (updPart_charter_of (by simp [Partition.tenure, hq]))
  · rfl

@[simp] theorem execReverifyDone_charter {p obs} : (outOf s (execReverifyDone p obs s)).charter = s.charter := by
  simp [execReverifyDone, State.reverify]

/-! ## Lines -/

@[simp] theorem hold_charter {w i} : (s.hold w i).charter = s.charter := updWin_charter

@[simp] theorem verbHello_charter {l b} : (verbHello l b s).charter = s.charter := by
  unfold verbHello
  split
  · simp
  · dsimp only
    split <;> simp

@[simp] theorem verbClock_charter {l p m} : (verbClock l p m s).charter = s.charter := by simp [verbClock]
@[simp] theorem verbLinkReport_charter {l x} : (verbLinkReport l x s).charter = s.charter := by simp [verbLinkReport]
@[simp] theorem opDown_charter {x hold} : (s.opDown x hold).charter = s.charter := by simp [State.opDown]
@[simp] theorem verbLinkOpUp_charter {l x} : (verbLinkOpUp l x s).charter = s.charter := by simp [verbLinkOpUp]
@[simp] theorem verbLinkOpDown_charter {l x} : (verbLinkOpDown l x s).charter = s.charter := by simp [verbLinkOpDown]
@[simp] theorem verbLinkOpRetrain_charter {l x} : (verbLinkOpRetrain l x s).charter = s.charter := by
  simp [verbLinkOpRetrain]
@[simp] theorem verbLinkRack_charter {l n} : (verbLinkRack l n s).charter = s.charter := by simp [verbLinkRack]
@[simp] theorem verbRoute_charter {l p d x} : (verbRoute l p d x s).charter = s.charter := by simp [verbRoute]

@[simp] theorem verbGroup_charter {l p id ms rto} : (verbGroup l p id ms rto s).charter = s.charter := by
  unfold verbGroup
  dsimp only
  repeat' split
  all_goals simp

@[simp] theorem verbStatDevice_charter {l} : (verbStatDevice l s).charter = s.charter := ok_charter
@[simp] theorem verbStatParts_charter {l} : (verbStatParts l s).charter = s.charter := replies_charter
@[simp] theorem verbStatCourts_charter {l} : (verbStatCourts l s).charter = s.charter := replies_charter
@[simp] theorem verbStatDeviceCounters_charter {l} : (verbStatDeviceCounters l s).charter = s.charter := replies_charter
@[simp] theorem verbTemp_charter {l} : (verbTemp l s).charter = s.charter := by simp [verbTemp]
@[simp] theorem verbEcho_charter {l on} : (verbEcho l on s).charter = s.charter := by simp [verbEcho]
@[simp] theorem verbReset_charter {l} : (verbReset l s).charter = s.charter := by simp [verbReset]

@[simp] theorem verbLoad_charter {l p b src len} : (verbLoad l p b src len s).charter = s.charter := by simp [verbLoad]
@[simp] theorem verbSwap_charter {l p} : (verbSwap l p s).charter = s.charter := by simp [verbSwap]
@[simp] theorem verbGo_charter {l p i a d n w} : (verbGo l p i a d n w s).charter = s.charter := by simp [verbGo]
@[simp] theorem verbWait_charter {l p} : (verbWait l p s).charter = s.charter := by simp [verbWait]
@[simp] theorem verbSig_charter {l p} : (verbSig l p s).charter = s.charter := by simp [verbSig]
@[simp] theorem verbSet_charter {l p n d} : (verbSet l p n d s).charter = s.charter := by simp [verbSet]

@[simp] theorem stageShard_charter {p i e} : (s.stageShard p i e).charter = s.charter := by simp [State.stageShard]

@[simp] theorem verbShard_charter {l p i g q c d} : (verbShard l p i g q c d s).charter = s.charter := by
  unfold verbShard
  dsimp only
  split
  · simp
  · split <;> simp

@[simp] theorem verbShardDrop_charter {l p i} : (verbShardDrop l p i s).charter = s.charter := by simp [verbShardDrop]

@[simp] theorem verbCommit_charter {l p} : (verbCommit l p s).charter = s.charter := by
  have hc : (s.updPart p (·.committed)).charter = s.charter := updPart_charter_of rfl
  unfold verbCommit
  split
  · simp
  · split <;> simp [hc]

@[simp] theorem verbStatPartition_charter {l p} : (verbStatPartition l p s).charter = s.charter := ok_charter
@[simp] theorem verbStatSlots_charter {l p} : (verbStatSlots l p s).charter = s.charter := replies_charter
@[simp] theorem verbStatKeys_charter {l p} : (verbStatKeys l p s).charter = s.charter := replies_charter
@[simp] theorem verbStatPartCounters_charter {l p} : (verbStatPartCounters l p s).charter = s.charter := replies_charter
@[simp] theorem verbStatPoison_charter {l p} : (verbStatPoison l p s).charter = s.charter := by simp [verbStatPoison]

@[simp] theorem verbStatShard_charter {l p i} : (verbStatShard l p i s).charter = s.charter := by
  unfold verbStatShard
  dsimp only
  split
  · simp
  · split <;> simp

@[simp] theorem verbTally_charter {l p n} : (verbTally l p n s).charter = s.charter := by
  unfold verbTally
  dsimp only
  repeat' split
  all_goals simp

@[simp] theorem verbKey_charter {l p k w} : (verbKey l p k w s).charter = s.charter := by
  unfold verbKey
  repeat' split
  all_goals simp

@[simp] theorem verbUnkey_charter {l p k} : (verbUnkey l p k s).charter = s.charter := by simp [verbUnkey]

@[simp] theorem submitJob_charter {l p kind key pa host len val} :
    (submitJob l p kind key pa host len val s).charter = s.charter := by
  simp [submitJob, State.submit]

/-- A debug line leaves the charter when its verb does. -/
theorem debugVerb_charter {l p st} {body : State → State}
    (hb : ∀ t, t.charter = s.charter → (body t).charter = s.charter) : (debugVerb l p st s body).charter = s.charter := by
  unfold debugVerb
  split
  · simp
  · split
    · simp
    · exact hb _ (by simp)

@[simp] theorem armBreak_charter {l p ok b} : (armBreak l p ok b s).charter = s.charter :=
  debugVerb_charter fun t ht => by simp [ht]

@[simp] theorem verbBreakCount_charter {l p c t n} : (verbBreakCount l p c t n s).charter = s.charter := armBreak_charter
@[simp] theorem verbBreakTag_charter {l p t} : (verbBreakTag l p t s).charter = s.charter := armBreak_charter

@[simp] theorem verbBreakDrop_charter {l p} : (verbBreakDrop l p s).charter = s.charter :=
  debugVerb_charter fun t ht => by simp [ht]

@[simp] theorem verbStep_charter {l p c t m} : (verbStep l p c t m s).charter = s.charter :=
  debugVerb_charter fun t ht => by simp [ht]

@[simp] theorem verbCont_charter {l p} : (verbCont l p s).charter = s.charter :=
  debugVerb_charter fun t ht => by simp [ht]

@[simp] theorem peekSp_charter {g a n} : (s.peekSp g a n).charter = s.charter := by simp [State.peekSp]

@[simp] theorem verbPeek_charter {l p c x st r a n} : (verbPeek l p c x st r a n s).charter = s.charter := by
  unfold verbPeek
  split
  · simp
  · exact debugVerb_charter fun t ht => by simp [ht]

@[simp] theorem verbLock_charter {l p x} : (verbLock l p x s).charter = s.charter := by
  unfold verbLock
  split <;> simp

@[simp] theorem startPass_charter {c} : (s.startPass c).charter = s.charter := by simp [State.startPass]

@[simp] theorem nextPass_charter {c} : (s.nextPass c).charter = s.charter := by
  unfold State.nextPass
  split
  · rfl
  · split <;> simp

@[simp] theorem verbDrillCourts_charter {l cs} : (verbDrillCourts l cs s).charter = s.charter := by
  simp [verbDrillCourts]
@[simp] theorem verbDrillPartition_charter {l p} : (verbDrillPartition l p s).charter = s.charter := by
  simp [verbDrillPartition]

@[simp] theorem verbAttest_charter {l n} : (verbAttest l n s).charter = s.charter := by simp [verbAttest]

@[simp] theorem verbSession_charter {l p k} : (verbSession l p k s).charter = s.charter := by
  unfold verbSession
  dsimp only
  repeat' split
  all_goals simp

@[simp] theorem verbFwStat_charter {l} : (verbFwStat l s).charter = s.charter := by simp [verbFwStat]

/-- `free` is taken for a partition that is DEFINED or LOADED. -/
theorem stat_of_freeOk {p} (h : s.freeOk p = true) : (s.part p).stat = .up := by
  simp only [State.freeOk, Bool.and_eq_true, Bool.or_eq_true, beq_iff_eq] at h
  obtain ⟨⟨⟨-, hst⟩, -⟩, -⟩ := h
  cases hs : (s.part p).stat with
  | up => rfl
  | free | faulted | resetting => simp [Partition.state, hs] at hst

/-- A partition that `free` takes keeps its courts until the fill ends. -/
@[simp] theorem verbFree_charter {l p e} : (verbFree l p s e).charter = s.charter := by
  unfold verbFree
  extract_lets q t u v
  split
  · simp
  next hf =>
    have hq : (s.part p).stat = .up := stat_of_freeOk (by simpa using hf)
    have ht : (t.part p).tenure = (s.part p).tenure := tenure_of_charter dropRally_charter p
    have hu : u.charter = s.charter := by
      refine (updPart_charter_of ?_).trans dropRally_charter
      simpa [Partition.tenure, hq] using congrArg Prod.snd ht
    simp [v, hu]

@[simp] theorem startFlash_charter {l b} : (s.startFlash l b).charter = s.charter := same_charter rfl rfl

@[simp] theorem verbFwWrite_charter {l a n} : (verbFwWrite l a n s).charter = s.charter := by
  simp [verbFwWrite, State.coreRead]

@[simp] theorem verbHalt_charter {l p} : (verbHalt l p s).charter = s.charter := by simp [verbHalt]
@[simp] theorem verbAbort_charter {l p} : (verbAbort l p s).charter = s.charter := by simp [verbAbort]

@[simp] theorem pokeSp_charter {p g a n} : (s.pokeSp p g a n).2.charter = s.charter := by
  unfold State.pokeSp
  dsimp only
  split <;> simp

@[simp] theorem verbPoke_charter {l p c x st r a v d} : (verbPoke l p c x st r a v d s).charter = s.charter := by
  unfold verbPoke
  split
  · simp
  · split
    · simp
    · split
      · simp
      · refine debugVerb_charter fun t ht => ?_
        extract_lets a v n ok g
        split
        · simp
        · have hp : (if x == .sp then t.pokeSp p g a n else (true, t)).2.charter = s.charter := by
            split
            · exact pokeSp_charter.trans ht
            · exact ht
          generalize (if x == .sp then t.pokeSp p g a n else (true, t)) = y at hp ⊢
          obtain ⟨may, u⟩ := y
          dsimp -zeta only at hp ⊢
          extract_lets w z
          simp [z, w, hp]

/-! ## Windows and the UART -/

@[simp] theorem nextRaw_charter {w} : (s.nextRaw w).2.charter = s.charter := by
  unfold State.nextRaw
  dsimp only
  split
  · simp
  · split <;> simp

@[simp] theorem execEvLost_charter {w} : (outOf s (execEvLost w s)).charter = s.charter := by
  unfold execEvLost
  dsimp only
  split
  · rfl
  · split <;> simp

@[simp] theorem execCmdinWrite_charter {w sid data off} :
    (outOf s (execCmdinWrite w sid data s off)).charter = s.charter := by
  simp [execCmdinWrite]

@[simp] theorem execReplyoutRead_charter {w sid off n} :
    (outOf s (execReplyoutRead w sid off n s)).charter = s.charter := by
  simp [execReplyoutRead]

@[simp] theorem execWinctlWrite_charter {w sid v} : (outOf s (execWinctlWrite w sid v s)).charter = s.charter := by
  simp [execWinctlWrite]

@[simp] theorem execUartByteReceive_charter {b} : (outOf s (execUartByteReceive b s)).charter = s.charter := by
  simp [execUartByteReceive]

@[simp] theorem execUartLineHandoff_charter : (outOf s (execUartLineHandoff s)).charter = s.charter := by
  unfold execUartLineHandoff
  dsimp only
  split
  · rfl
  · split
    · simp
    · split <;> simp

@[simp] theorem execCmdRtsN_charter {a} : (outOf s (execCmdRtsN a s)).charter = s.charter := by
  simp [execCmdRtsN]

@[simp] theorem execUartBaudSwitch_charter : (outOf s (execUartBaudSwitch s)).charter = s.charter := by
  unfold execUartBaudSwitch
  split <;> simp

/-! ## Registers and memory accesses of the host -/

/-- A write of ring registers leaves the charter when it leaves the tenure of the partition. -/
theorem ringWrite_charter {p sid} {f : Partition → Partition} (hf : ∀ q, (f q).tenure = q.tenure) :
    (s.ringWrite p sid f).charter = s.charter := by
  simp [State.ringWrite, updPart_charter_of (hf _)]

@[simp] theorem execRingbaseWrite_charter {p sid lo hi} :
    (outOf s (execRingbaseWrite p sid lo hi s)).charter = s.charter :=
  next_charter <| ringWrite_charter fun q => by
    dsimp only
    split
    · rfl
    · simp only [Partition.tenure]

@[simp] theorem execRingsizeWrite_charter {p sid v} : (outOf s (execRingsizeWrite p sid v s)).charter = s.charter :=
  next_charter <| ringWrite_charter fun q => by
    split
    · rfl
    · rfl

@[simp] theorem execRingEnable_charter {p sid cie} : (outOf s (execRingEnable p sid cie s)).charter = s.charter :=
  next_charter <| ringWrite_charter fun q => by
    split
    · rfl
    · split
      · rfl
      · rfl

@[simp] theorem execRingCieWrite_charter {p sid cie} : (outOf s (execRingCieWrite p sid cie s)).charter = s.charter :=
  next_charter (ringWrite_charter fun _ => rfl)

@[simp] theorem execRingDisable_charter {p sid cie} : (outOf s (execRingDisable p sid cie s)).charter = s.charter := by
  simp [execRingDisable]

@[simp] theorem execRingconsWrite_charter {p sid v} : (outOf s (execRingconsWrite p sid v s)).charter = s.charter := by
  simp [execRingconsWrite]

@[simp] theorem execRingEntryWrite_charter {p obs} : (outOf s (execRingEntryWrite p s obs)).charter = s.charter := by
  simp [execRingEntryWrite]

@[simp] theorem msixFlush_charter {v} : (s.msixFlush v).charter = s.charter := by simp [State.msixFlush]

@[simp] theorem execMsixUnmask_charter {v en entry mask} :
    (outOf s (execMsixUnmask v en s entry mask)).charter = s.charter := by
  simp [execMsixUnmask]

@[simp] theorem execBusMasterEnableSet_charter {viral aer} :
    (outOf s (execBusMasterEnableSet s viral aer)).charter = s.charter := by
  unfold execBusMasterEnableSet
  rw [outOf_next]
  split
  · rfl
  · exact (foldl_charter fun t p => by simp).trans (by simp)

/-- A Function Level Reset disables every completion ring and takes no court from a partition. -/
@[simp] theorem execFunctionLevelReset_charter : (outOf s (execFunctionLevelReset s)).charter = s.charter := by
  unfold execFunctionLevelReset
  dsimp only
  rw [outOf_next]
  split
  · rfl
  · exact (foldl_charter fun t p => by simp).trans (congrArg (Prod.mk s.fuses) (List.map_map ..))

@[simp] theorem execHdmDecoderCommit_charter {b z w bi} :
    (outOf s (execHdmDecoderCommit b z w bi s)).charter = s.charter := by
  simp [execHdmDecoderCommit]

@[simp] theorem countDrop_charter {da} : (s.countDrop da).charter = s.charter := by
  unfold State.countDrop
  split <;> simp

@[simp] theorem readOut_charter {da n obs} : (s.readOut da n obs).charter = s.charter := by
  simp [State.readOut]

@[simp] theorem writeIn_charter {line cells poison obs} : (s.writeIn line cells poison obs).charter = s.charter := by
  simp [State.writeIn]

@[simp] theorem execCxlMemRead_charter {hpa sid cache obs} :
    (outOf s (execCxlMemRead hpa sid cache obs s)).charter = s.charter := by
  unfold execCxlMemRead
  dsimp only
  rw [outOf_next]
  split
  · rfl
  · split
    · simp
    · split
      · simp
      · split
        · simp
        · split <;> simp

@[simp] theorem execCxlMemWrite_charter {hpa sid data en poison obs} :
    (outOf s (execCxlMemWrite hpa sid data en poison obs s)).charter = s.charter := by
  unfold execCxlMemWrite
  dsimp only
  rw [outOf_next]
  split
  · rfl
  · split <;> simp

@[simp] theorem execBirsp_charter {da data} : (outOf s (execBirsp da data s)).charter = s.charter := by
  unfold execBirsp
  dsimp only
  rw [outOf_next]
  split
  · rfl
  · split <;> simp

@[simp] theorem execBar4Read_charter {off n sid obs} :
    (outOf s (execBar4Read off n sid obs s)).charter = s.charter := by
  unfold execBar4Read
  rw [outOf_next]
  split
  · rfl
  · exact foldl_charter fun t _ => by simp

@[simp] theorem execBar4Write_charter {off data sid ep obs holes} :
    (outOf s (execBar4Write off data sid ep obs s holes)).charter = s.charter := by
  unfold execBar4Write
  rw [outOf_next]
  split
  · rfl
  extract_lets t cells ps u
  have ht : t.charter = s.charter := by simp [t]
  have hu : u.charter = s.charter := by simp [u, ht]
  split
  · exact ht
  · split
    · simp [ht]
    · exact (foldl_charter fun v _ => by simp).trans hu

/-! ## IDE and SPDM -/

@[simp] theorem execIdeIntegrityFailure_charter {k} : (outOf s (execIdeIntegrityFailure k s)).charter = s.charter := by
  simp [execIdeIntegrityFailure]

@[simp] theorem spdmReply_charter {r} : (s.spdmReply r).charter = s.charter := by simp [State.spdmReply]

/-- A request in a session leaves the charter when its effect does. -/
@[simp] theorem inSession_charter {sess} {f : State → State} (hf : ∀ t, (f t).charter = t.charter) :
    (s.inSession sess f).charter = s.charter := by
  simp [State.inSession, hf]

/-- A request after the negotiation leaves the charter when its effect does. -/
@[simp] theorem negotiated_charter {f : State → State} (hf : ∀ t, (f t).charter = t.charter) :
    (s.negotiated f).charter = s.charter := by
  simp [State.negotiated, hf]

@[simp] theorem keyProg_charter {k set dir sub key} : (s.keyProg k set dir sub key).charter = s.charter := by
  simp [State.keyProg]

@[simp] theorem ideGo_charter {k set} : (s.ideGo k set).charter = s.charter := by
  unfold State.ideGo
  dsimp only
  split
  · simp
  · split <;> simp

@[simp] theorem ideStop_charter {k set} : (s.ideStop k set).charter = s.charter := by simp [State.ideStop]
@[simp] theorem spdmSign_charter {kind req} : (s.spdmSign kind req).2.charter = s.charter := fresh_charter

@[simp] theorem execIdeKmKeyProg_charter {sess k set dir sub key} :
    (outOf s (execIdeKmKeyProg sess k set dir sub key s)).charter = s.charter := inSession_charter fun _ => keyProg_charter

@[simp] theorem execKSetGo_charter {sess k set} :
    (outOf s (execKSetGo sess k set s)).charter = s.charter := inSession_charter fun _ => ideGo_charter

@[simp] theorem execKSetStop_charter {sess k set} : (outOf s (execKSetStop sess k set s)).charter = s.charter :=
  inSession_charter fun _ => ideStop_charter

@[simp] theorem execGetVersion_charter : (outOf s (execGetVersion s)).charter = s.charter := by
  unfold execGetVersion
  rw [outOf_next, ite_charter, spdmReply_charter]
  exact ite_self _
@[simp] theorem execGetCapabilities_charter : (outOf s (execGetCapabilities s)).charter = s.charter := by
  simp [execGetCapabilities]

@[simp] theorem execNegotiateAlgorithms_charter {a b c} :
    (outOf s (execNegotiateAlgorithms a b c s)).charter = s.charter := by
  simp [execNegotiateAlgorithms]

@[simp] theorem execGetDigests_charter : (outOf s (execGetDigests s)).charter = s.charter :=
  negotiated_charter fun _ => spdmReply_charter

@[simp] theorem execGetCertificate_charter {slot off len} :
    (outOf s (execGetCertificate slot off len s)).charter = s.charter := by
  simp [execGetCertificate]

@[simp] theorem execChallenge_charter {slot nonce} : (outOf s (execChallenge slot nonce s)).charter = s.charter := by
  simp [execChallenge]

@[simp] theorem execGetMeasurements_charter {i sign nonce} :
    (outOf s (execGetMeasurements i sign nonce s)).charter = s.charter := by
  simp [execGetMeasurements]

@[simp] theorem execKeyExchange_charter {pub} : (outOf s (execKeyExchange pub s)).charter = s.charter := by
  unfold execKeyExchange
  rw [outOf_next]
  refine negotiated_charter fun _ => ?_
  split <;> simp

@[simp] theorem execFinish_charter {sess mac} : (outOf s (execFinish sess mac s)).charter = s.charter := by
  simp [execFinish]
@[simp] theorem execHeartbeat_charter {sess} : (outOf s (execHeartbeat sess s)).charter = s.charter := by
  simp [execHeartbeat]
@[simp] theorem execKeyUpdate_charter {sess} : (outOf s (execKeyUpdate sess s)).charter = s.charter := by
  simp [execKeyUpdate]
@[simp] theorem execEndSession_charter {sess} : (outOf s (execEndSession sess s)).charter = s.charter := by
  simp [execEndSession]

@[simp] theorem execVendorDefinedRequest_charter {sess m} :
    (outOf s (execVendorDefinedRequest sess m s)).charter = s.charter := by
  unfold execVendorDefinedRequest
  rw [outOf_next]
  refine inSession_charter fun _ => ?_
  split <;> simp

@[simp] theorem execSpdmUnsupportedRequest_charter {code} :
    (outOf s (execSpdmUnsupportedRequest code s)).charter = s.charter := by
  simp [execSpdmUnsupportedRequest]

@[simp] theorem execMailboxCommand_charter {opcode} : (outOf s (execMailboxCommand opcode s)).charter = s.charter := by
  simp [execMailboxCommand]

/-! ## What lines of the device window started -/

@[simp] theorem holdDown_charter {x} : (s.holdDown x).charter = s.charter := by simp [State.holdDown]

@[simp] theorem execRelockDone_charter {p} : (outOf s (execRelockDone p s)).charter = s.charter := by
  unfold execRelockDone
  dsimp only
  rw [outOf_next]
  split
  · split <;> simp
  · rfl

@[simp] theorem execLoadDone_charter {p obs} : (outOf s (execLoadDone p obs s)).charter = s.charter := by
  unfold execLoadDone
  dsimp only
  rw [outOf_next]
  split
  · rfl
  · split
    · rfl
    · split
      · simp
      · split <;> simp

@[simp] theorem execBreakStopped_charter {p} : (outOf s (execBreakStopped p s)).charter = s.charter := by
  unfold execBreakStopped
  rw [outOf_next]
  split <;> simp

@[simp] theorem execDrillSchedule_charter {c} : (outOf s (execDrillSchedule c s)).charter = s.charter := by
  simp [execDrillSchedule]

@[simp] theorem passOver_charter {c} : (s.passOver c).charter = s.charter := by
  unfold State.passOver
  dsimp only
  split <;> simp

@[simp] theorem execDrillKernelEnd_charter {g pass obs} :
    (outOf s (execDrillKernelEnd g pass s obs)).charter = s.charter := by
  unfold execDrillKernelEnd
  extract_lets pass c kernel own t u v w
  rw [outOf_next]
  have ht : t.charter = s.charter := updClu_charter
  have hu : u.charter = s.charter := by simp [u, ht]
  have hv : v.charter = s.charter := by simp [v, hu]
  clear_value own t u v
  have hw : w.charter = s.charter := by
    unfold w
    split
    · simp [hu]
    · simp [hv]
  split
  · rfl
  · split <;> simp [hw]

@[simp] theorem execDrillPassDone_charter {w} : (outOf s (execDrillPassDone w s)).charter = s.charter := by
  unfold execDrillPassDone
  dsimp only
  rw [outOf_next]
  repeat' split
  all_goals simp

@[simp] theorem execAttestReportDone_charter : (outOf s (execAttestReportDone s)).charter = s.charter := by
  unfold execAttestReportDone
  dsimp only
  rw [outOf_next]
  split
  · rfl
  · split
    · rfl
    · rw [replies_charter]
      exact same_charter rfl rfl

/-! ## Boot -/

@[simp] theorem tryBank_charter {b} : (s.tryBank b).2.charter = s.charter := same_charter rfl rfl

@[simp] theorem stage2_charter : s.stage2.charter = s.charter := by
  have hb (t : State) (b : Bool) : (t.tryBank b).2.charter = t.charter := tryBank_charter
  unfold State.stage2
  extract_lets boots b
  have hboots (t b) : (boots t b).charter = t.charter := same_charter rfl rfl
  split
  next t e => rw [hboots, ← hb s b, e]
  next t e =>
    have ht : t.charter = s.charter := by rw [← hb s b, e]
    split
    next u e => rw [hboots, ← ht, ← hb t, e]
    next u e => rw [updDev_charter, ← ht, ← hb t, e]

@[simp] theorem execHostLinkTraining_charter : (outOf s (execHostLinkTraining s)).charter = s.charter := by
  simp [execHostLinkTraining]

@[simp] theorem execDlUp_charter {w r c} : (outOf s (execDlUp w r c s)).charter = s.charter := by simp [execDlUp]

/-! ## The board -/

@[simp] theorem updCage_charter {k f} : (s.updCage k f).charter = s.charter := same_charter rfl rfl
@[simp] theorem portOff_charter {x} : (s.portOff x).charter = s.charter := by simp [State.portOff]
@[simp] theorem execCageTrip_charter {k mw} : (outOf s (execCageTrip k mw s)).charter = s.charter := by
  simp [execCageTrip]

@[simp] theorem execCableChange_charter {k c} : (outOf s (execCableChange k c s)).charter = s.charter := by
  unfold execCableChange
  rw [outOf_next]
  split <;> simp

@[simp] theorem tapData_charter {tdi} : (s.tapData tdi).charter = s.charter := by
  unfold State.tapData
  dsimp only
  split <;> simp

@[simp] theorem portHeld_charter {x} : (s.portHeld x).charter = s.charter := by simp [State.portHeld]

@[simp] theorem tapClock_charter {ir c} : (s.tapClock ir c).charter = s.charter := by
  unfold State.tapClock
  extract_lets st t tap
  have ht : t.charter = s.charter := by simp [t]
  rw [← ht]
  exact same_charter rfl rfl

/-! ## Temperature, patrol, what goes on by itself -/

@[simp] theorem hold100_charter : s.hold100.charter = s.charter := by simp [State.hold100]

@[simp] theorem execThermalSample_charter {temps} : (outOf s (execThermalSample temps s)).charter = s.charter := by
  simp [execThermalSample]

@[simp] theorem execPatrolRead_charter {da obs} : (outOf s (execPatrolRead da obs s)).charter = s.charter := by
  simp [execPatrolRead]

@[simp] theorem flashDone_charter : s.flashDone.charter = s.charter := by
  unfold State.flashDone
  dsimp only
  split
  · split
    · simp
    · rw [ok_charter]
      exact same_charter rfl rfl
  · rfl

@[simp] theorem tick_charter : s.tick.charter = s.charter := evictPoison_charter.trans flashDone_charter

/-! ## Resets that end, and the input's voltage -/

@[simp] theorem release_charter {r} : (s.release r).charter = s.charter := by simp [State.release]

@[simp] theorem inputAt_charter {mv} : (s.inputAt mv).charter = s.charter := by simp [State.inputAt]

@[simp] theorem execResetRelease_charter {src r} : (outOf s (execResetRelease src s r)).charter = s.charter := by
  unfold execResetRelease
  dsimp only
  rw [outOf_next]
  split <;> simp

@[simp] theorem execPowerOnResetRelease_charter : (outOf s (execPowerOnResetRelease s)).charter = s.charter := by
  simp [execPowerOnResetRelease]

/-! ## What takes courts and gives them back -/

theorem owner_eq_none_iff {c} : s.owner c = none ↔ ∀ q ∈ s.parts, c ∉ q.courts := by
  simp [State.owner, List.findIdx?_eq_none_iff]

/-- `State.courtsOk` clause by clause. -/
theorem courtsOk_iff : s.courtsOk = true ↔
    (∀ q ∈ s.parts, q.courtsOk = true) ∧ (s.parts.flatMap fun q => q.courts).Nodup := by
  simp [State.courtsOk]

/-- The courts of a list of partitions are distinct when those of one of them are, and are none of the others'. -/
theorem nodup_courts_middle {a : Partition} {l r : List Partition} :
    ((l ++ a :: r).flatMap fun q => q.courts).Nodup ↔
      a.courts.Nodup ∧ ((l ++ r).flatMap fun q => q.courts).Nodup ∧ ∀ c ∈ a.courts, ∀ q ∈ l ++ r, c ∉ q.courts := by
  have hp : ((l ++ a :: r).flatMap fun q => q.courts).Perm (a.courts ++ (l ++ r).flatMap fun q => q.courts) :=
    (List.perm_middle (a := a)).flatMap_right _
  rw [hp.nodup_iff, List.nodup_append', List.disjoint_left]
  simp only [List.mem_flatMap, not_exists, not_and]

/-- A change of one partition keeps partitions apart when that partition is sound after it and has no court twice, and its
courts were its own before or nobody's. -/
theorem updPart_courtsOk {p} {f : Partition → Partition} (h : s.courtsOk = true)
    (hf : (f (s.part p)).courtsOk = true) (hn : (f (s.part p)).courts.Nodup)
    (ho : ∀ c ∈ (f (s.part p)).courts, c ∈ (s.part p).courts ∨ s.owner c = none) : (s.updPart p f).courtsOk = true := by
  by_cases hp : p < s.parts.length
  · have hpart : s.part p = s.parts[p] := by simp [State.part, tget, hp]
    have hparts : s.parts = s.parts.take p ++ s.part p :: s.parts.drop (p + 1) := by simp [hpart]
    have hmod : (s.updPart p f).parts = s.parts.take p ++ f (s.part p) :: s.parts.drop (p + 1) := by
      simp [State.updPart, List.modify_eq_take_cons_drop hp, hpart]
    simp only [owner_eq_none_iff] at ho
    rw [courtsOk_iff] at h ⊢
    rw [hmod]
    rw [hparts] at h ho
    generalize s.part p = a at h hf hn ho ⊢
    generalize s.parts.take p = l at h ho ⊢
    generalize s.parts.drop (p + 1) = r at h ho ⊢
    obtain ⟨hq, hd⟩ := h
    obtain ⟨-, hlr, hout⟩ := nodup_courts_middle.mp hd
    refine ⟨fun q hm => ?_, nodup_courts_middle.mpr ⟨hn, hlr, fun c hc q hm => ?_⟩⟩
    · obtain hl | rfl | hr : q ∈ l ∨ q = f a ∨ q ∈ r := by simpa using hm
      · exact hq q (by simp [hl])
      · exact hf
      · exact hq q (by simp [hr])
    · obtain ha | hfree := ho c hc
      · exact hout c ha q hm
      · exact hfree q (by simp only [List.mem_append, List.mem_cons] at hm ⊢; tauto)
  · rwa [State.updPart, List.modify_eq_self (Nat.le_of_not_lt hp)]

/-- A number that a list does not hold is put into it once. -/
theorem insSorted_perm {a : Nat} {l : List Nat} (h : a ∉ l) : (insSorted a l).Perm (a :: l) := by
  induction l with
  | nil => rfl
  | cons k r ih =>
    obtain ⟨hk, hr⟩ : a ≠ k ∧ a ∉ r := by simpa using h
    unfold insSorted
    split
    · rfl
    · exact ((ih hr).cons k).trans (List.Perm.swap a k r)

/-- Distinct numbers put into a list one by one are all there, each once. -/
theorem foldl_insSorted_perm {cs l : List Nat} (h : (cs ++ l).Nodup) :
    (cs.foldl (fun l c => insSorted c l) l).Perm (cs ++ l) := by
  induction cs generalizing l with
  | nil => rfl
  | cons c cs ih =>
    have hp : (cs ++ insSorted c l).Perm (c :: cs ++ l) :=
      ((insSorted_perm fun hc => by simp [hc] at h).append_left cs).trans List.perm_middle
    exact (ih (hp.nodup_iff.mpr h)).trans hp

theorem eraseDups_sublist (l : List Nat) : l.eraseDups.Sublist l := by
  induction hn : l.length using Nat.strong_induction_on generalizing l with
  | _ n ih =>
    cases l with
    | nil => rfl
    | cons a r =>
      have hs : (r.filter fun b => !b == a).Sublist r := List.filter_sublist
      have hlt : (r.filter fun b => !b == a).length < n := by
        have := hs.length_le
        simp only [List.length_cons] at hn
        omega
      rw [List.eraseDups_cons]
      exact ((ih _ hlt _ rfl).trans hs).cons_cons a

/-- A list is as long as without its repetitions exactly where it has none. -/
theorem length_eraseDups_eq_iff {l : List Nat} : l.eraseDups.length = l.length ↔ l.Nodup := by
  induction l with
  | nil => simp
  | cons a r ih =>
    have hs : (r.filter fun b => !b == a).Sublist r := List.filter_sublist
    have hd : (r.filter fun b => !b == a).eraseDups.length ≤ (r.filter fun b => !b == a).length :=
      (eraseDups_sublist _).length_le
    have hmem : (r.filter fun b => !b == a) = r ↔ a ∉ r := by
      rw [List.filter_eq_self]
      exact ⟨fun h ha => by simpa using h a ha, fun h b hb => by simpa using fun he : b = a => h (he ▸ hb)⟩
    rw [List.eraseDups_cons, List.nodup_cons, List.length_cons, List.length_cons, Nat.add_right_cancel_iff, ← hmem, ← ih]
    refine ⟨fun h => ?_, fun ⟨he, h⟩ => by rwa [he]⟩
    have he : (r.filter fun b => !b == a) = r := hs.eq_of_length (le_antisymm hs.length_le (h ▸ hd))
    exact ⟨he, by rwa [he] at h⟩

/-- A line keeps partitions apart when the verb that takes effect does. -/
theorem atLine_courtsOk {w i} {body : State → State} (h : s.courtsOk = true)
    (hb : ∀ t : State, t.courtsOk = true → (body t).courtsOk = true) : (s.atLine w i body).courtsOk = true := by
  unfold State.atLine
  split
  · exact h
  · split
    · exact courtsOk_of_charter h hold_charter
    · dsimp only
      split
      · exact courtsOk_of_charter h (hold_charter.trans biAsk_charter)
      · exact hb s h

/-- R303: `part` takes distinct courts that nobody has, for a partition that is FREE. -/
theorem verbPart_courtsOk {l p courts il e} (h : s.courtsOk = true) : (verbPart l p courts il s e).courtsOk = true := by
  unfold verbPart
  extract_lets cs cs' t u
  split
  · exact courtsOk_of_charter h (by simp)
  split
  · exact courtsOk_of_charter h (by simp)
  next hown =>
    split
    · exact courtsOk_of_charter h (by simp)
    next hcs =>
      obtain ⟨hne, hnd⟩ : cs ≠ [] ∧ cs.Nodup := by
        simpa [length_eraseDups_eq_iff] using hcs
      have hperm : cs'.Perm cs := by simpa using foldl_insSorted_perm (cs := cs) (l := []) (by simpa using hnd)
      have ht : t.courtsOk = true := by
        refine updPart_courtsOk (courtsOk_of_charter h scrub_charter) ?_ (hperm.nodup_iff.mpr hnd) fun c hc => .inr ?_
        · have hlt : ∀ c ∈ cs', c < 8 := fun c hc => by
            obtain ⟨k, -, rfl⟩ := List.mem_map.mp (hperm.subset hc)
            exact k.isLt
          have hne' : cs' ≠ [] := fun he => hne (List.perm_nil.mp (he ▸ hperm.symm))
          have he : cs'.isEmpty = false := List.isEmpty_eq_false_iff.mpr hne'
          simp only [Partition.courtsOk, Partition.defined, he, Bool.and_eq_true, List.all_eq_true, decide_eq_true_eq]
          exact ⟨rfl, hlt⟩
        · rw [owner_of_charter scrub_charter]
          simpa using fun hs => hown (List.any_eq_true.mpr ⟨c, hperm.subset hc, hs⟩)
      split
      · exact courtsOk_of_charter h (by simp)
      · exact courtsOk_of_charter ht (by simp [u])

/-- R304: `free` gives back all courts of its partition at its end. -/
theorem execFreeDone_courtsOk {p} (h : s.courtsOk = true) : (outOf s (execFreeDone p s)).courtsOk = true := by
  unfold execFreeDone
  rw [outOf_next]
  split
  · extract_lets q t u v w
    split
    · exact h
    · have hv : v.courtsOk = true := courtsOk_of_charter h (by simp [v, u, t])
      have hw : (v.updPart p (·.released)).courtsOk = true :=
        updPart_courtsOk hv rfl List.nodup_nil fun c hc => absurd hc List.not_mem_nil
      exact courtsOk_of_charter hw (by simp [w])
  · exact h

/-! ## Lines from their text -/

/-- A verb keeps partitions apart: `part` takes free courts, and no other changes the charter. -/
theorem runVerb_courtsOk {i} (h : s.courtsOk = true) : (runVerb i s).courtsOk = true := by
  cases i with
  | part => exact atLine_courtsOk h fun _ => verbPart_courtsOk
  | free => exact atLine_courtsOk h fun _ ht => courtsOk_of_charter ht verbFree_charter
  | hello | clock | linkReport | linkOpUp | linkOpDown | linkOpRetrain | linkRack | route | group | attest
  | session | fwStat | fwWrite | statDevice | statParts | statCourts | statDeviceCounters | temp | echo | drillCourts
  | resetCommand | load | swap | go | wait | sig | halt | abort | set | shard | shardDrop | commit | statPartition
  | statSlots | statKeys | statPartCounters | statShard | statPoison | tally | key | unkey | move | fill | breakCount
  | breakTag | breakDrop | step | cont | peek | poke | drillPartition | lock =>
    exact atLine_courtsOk h fun _ ht => courtsOk_of_charter ht (by simp)
  | _ => exact h

theorem judge_courtsOk {w r body mac locked e} (h : s.courtsOk = true) :
    (s.judge w r body mac locked e).courtsOk = true := by
  have hi {w l why} : (s.ignore w l why).courtsOk = true := courtsOk_of_charter h ignore_charter
  unfold State.judge
  dsimp only
  split
  · exact hi
  · split
    · exact hi
    · split
      · exact h
      · split
        · split
          · exact hi
          · split
            · exact hi
            · exact hi
        · split
          · exact hi
          · exact runVerb_courtsOk h

theorem takeLine_courtsOk {w r e} (h : s.courtsOk = true) : (s.takeLine w r e).courtsOk = true := by
  unfold State.takeLine
  obtain ⟨body, mac⟩ := splitMac r.bytes
  dsimp only
  split
  · exact judge_courtsOk h
  · split
    · exact h
    · split
      · exact judge_courtsOk (courtsOk_of_charter h (by simp))
      · exact courtsOk_of_charter h ignore_charter

theorem execLineParse_courtsOk {w e} (h : s.courtsOk = true) : (outOf s (execLineParse w s e)).courtsOk = true := by
  have hr : (s.nextRaw w).2.courtsOk = true := courtsOk_of_charter h nextRaw_charter
  unfold execLineParse
  rw [outOf_next]
  split
  · exact h
  · split
    next t e => rwa [e] at hr
    next r t e =>
      rw [e] at hr
      split
      · exact courtsOk_of_charter hr updWin_charter
      · exact takeLine_courtsOk hr

theorem execParserResume_courtsOk {w e} (h : s.courtsOk = true) :
    (outOf s (execParserResume w s e)).courtsOk = true := by
  unfold execParserResume
  rw [outOf_next]
  split
  · exact h
  · split
    · exact h
    · exact takeLine_courtsOk (courtsOk_of_charter h updWin_charter)
    · split
      · exact h
      · exact runVerb_courtsOk (courtsOk_of_charter h updWin_charter)

/-! ## Resets, power, boot and the board -/

/-- After a reset every partition is FREE. -/
theorem courtsOk_of_reset {t : State} (hp : t.parts = State.reset.parts) : t.courtsOk = true := by
  rw [State.courtsOk, hp]
  exact reset_courtsOk

/-- Both branches of a choice keep partitions apart. -/
theorem ite_courtsOk {c : Prop} [Decidable c] {a b : State} (ha : a.courtsOk = true) (hb : b.courtsOk = true) :
    (if c then a else b).courtsOk = true := by
  split
  · exact ha
  · exact hb

theorem assert_courtsOk {r} : (s.assert r).courtsOk = true := courtsOk_of_reset rfl
theorem railsUp_courtsOk : s.railsUp.courtsOk = true := courtsOk_of_reset rfl
theorem railsDown_courtsOk : s.railsDown.courtsOk = true := courtsOk_of_reset rfl

theorem execResetCommandFire_courtsOk (h : s.courtsOk = true) : (outOf s (execResetCommandFire s)).courtsOk = true :=
  ite_courtsOk assert_courtsOk h

theorem execResetN_courtsOk {ns} (h : s.courtsOk = true) : (outOf s (execResetN ns s)).courtsOk = true :=
  ite_courtsOk assert_courtsOk h

theorem execPerstN_courtsOk {b} (h : s.courtsOk = true) : (outOf s (execPerstN b s)).courtsOk = true :=
  ite_courtsOk h (ite_courtsOk assert_courtsOk (courtsOk_of_charter h (by simp)))

theorem execHotReset_courtsOk (h : s.courtsOk = true) : (outOf s (execHotReset s)).courtsOk = true :=
  ite_courtsOk assert_courtsOk h

theorem execDlDown_courtsOk {r} (h : s.courtsOk = true) : (outOf s (execDlDown s r)).courtsOk = true := by
  have ht : (if r then s.updBoard fun b => { b with refclk := false } else s).courtsOk = true :=
    courtsOk_of_charter h (by simp)
  exact ite_courtsOk ht (ite_courtsOk assert_courtsOk (ite_courtsOk (courtsOk_of_charter ht updHost_charter) ht))

theorem execPowerOn_courtsOk {mv w} (h : s.courtsOk = true) : (outOf s (execPowerOn mv s w)).courtsOk = true :=
  ite_courtsOk (courtsOk_of_charter h inputAt_charter)
    (ite_courtsOk (courtsOk_of_charter h updBoard_charter) railsUp_courtsOk)

theorem execPowerOff_courtsOk {mv hdr} (h : s.courtsOk = true) : (outOf s (execPowerOff mv s hdr)).courtsOk = true :=
  ite_courtsOk railsDown_courtsOk (ite_courtsOk railsDown_courtsOk (courtsOk_of_charter h inputAt_charter))

theorem execOvervoltageRestart_courtsOk {mv} (h : s.courtsOk = true) :
    (outOf s (execOvervoltageRestart mv s)).courtsOk = true :=
  ite_courtsOk (courtsOk_of_charter h inputAt_charter)
    (ite_courtsOk (courtsOk_of_charter h updBoard_charter) railsUp_courtsOk)

theorem execRailFault_courtsOk {rail} (h : s.courtsOk = true) : (outOf s (execRailFault rail s)).courtsOk = true :=
  ite_courtsOk railsDown_courtsOk h

theorem execRestart_courtsOk {v pec} (h : s.courtsOk = true) : (outOf s (execRestart v s pec)).courtsOk = true :=
  ite_courtsOk h (ite_courtsOk (ite_courtsOk railsUp_courtsOk (courtsOk_of_charter h updBoard_charter)) h)

/-- R477: at ready every partition is FREE. -/
theorem becomeReady_courtsOk : s.becomeReady.courtsOk = true := by
  have hr {f b} : ({ s.atReady with flash := f, fuses := b } : State).courtsOk = true := courtsOk_of_reset rfl
  exact courtsOk_of_charter hr (emit_charter.trans emit_charter)

theorem execBootStageAdvance_courtsOk {obs} (h : s.courtsOk = true) :
    (outOf s (execBootStageAdvance obs s)).courtsOk = true := by
  unfold execBootStageAdvance
  dsimp only
  rw [outOf_next]
  split
  · exact h
  · split
    · exact courtsOk_of_charter h (by simp)
    · split
      · exact courtsOk_of_charter h (by simp)
      · exact courtsOk_of_charter h stage2_charter
      · exact courtsOk_of_charter h updDev_charter
      · split
        · exact courtsOk_of_charter h updDev_charter
        · exact courtsOk_of_charter h updDev_charter
      · exact courtsOk_of_charter h (same_charter rfl rfl)
      · exact becomeReady_courtsOk
      · exact h

/-- Under EXTEST the ports go down, and the loss of the host link resets the device. -/
theorem pinsHeld_courtsOk (h : s.courtsOk = true) : s.pinsHeld.courtsOk = true := by
  have ht : ((List.range 8).foldl (fun t x => t.portHeld x) s).courtsOk = true :=
    courtsOk_of_charter h (foldl_charter fun _ _ => portHeld_charter)
  exact ite_courtsOk h (ite_courtsOk assert_courtsOk (courtsOk_of_charter ht updHost_charter))

theorem execJtagTapActive_courtsOk {ir clocks} (h : s.courtsOk = true) :
    (outOf s (execJtagTapActive s ir clocks)).courtsOk = true :=
  ite_courtsOk h <| ite_courtsOk (pinsHeld_courtsOk (courtsOk_of_charter h (by simp))) <|
  foldl_keeps (·.courtsOk = true) _ clocks s h fun _ _ ht => pinsHeld_courtsOk (courtsOk_of_charter ht tapClock_charter)

/-! ## Every command and every step -/

theorem exec_courtsOk {c} (h : s.courtsOk = true) : (outOf s (exec c s)).courtsOk = true := by
  have hv : (runVerb c s).courtsOk = true := runVerb_courtsOk h
  cases c with
  | hello | part | free | clock | linkReport | linkOpUp | linkOpDown | linkOpRetrain | linkRack | route | group | attest
  | session | fwStat | fwWrite | statDevice | statParts | statCourts | statDeviceCounters | temp | echo | drillCourts
  | resetCommand | load | swap | go | wait | sig | halt | abort | set | shard | shardDrop | commit | statPartition
  | statSlots | statKeys | statPartCounters | statShard | statPoison | tally | key | unkey | move | fill | breakCount
  | breakTag | breakDrop | step | cont | peek | poke | drillPartition | lock =>
    exact hv
  | freeDone => exact execFreeDone_courtsOk h
  | lineParse => exact execLineParse_courtsOk h
  | parserResume => exact execParserResume_courtsOk h
  | resetCommandFire => exact execResetCommandFire_courtsOk h
  | resetN => exact execResetN_courtsOk h
  | perstN => exact execPerstN_courtsOk h
  | hotReset => exact execHotReset_courtsOk h
  | dlDown => exact execDlDown_courtsOk h
  | powerOn => exact execPowerOn_courtsOk h
  | powerOff => exact execPowerOff_courtsOk h
  | overvoltageRestart => exact execOvervoltageRestart_courtsOk h
  | railFault => exact execRailFault_courtsOk h
  | restart => exact execRestart_courtsOk h
  | bootStageAdvance => exact execBootStageAdvance_courtsOk h
  | jtagTapActive => exact execJtagTapActive_courtsOk h
  | ldt | lds | ldx => exact courtsOk_of_charter h (next_charter (withArgs_charter fun _ _ _ => loadBody_charter))
  | gath => exact courtsOk_of_charter h (next_charter (withArgs_charter fun _ _ _ => gathBody_charter))
  | rsum | rmax | rmin | rssq | rdot | argmx | argmn =>
    exact courtsOk_of_charter h (next_charter (withArgs_charter fun _ _ _ => reduceBody_charter))
  | scan => exact courtsOk_of_charter h (next_charter (withArgs_charter fun _ _ _ => scanBody_charter))
  | xred => exact courtsOk_of_charter h (next_charter (withArgs_charter fun _ _ _ => xredBody_charter))
  | rly => exact courtsOk_of_charter h (next_charter (withArgs_charter fun _ _ _ => rlyBody_charter))
  | pack | unpk => exact courtsOk_of_charter h (next_charter (withArgs_charter fun _ _ _ => packBody_charter))
  | stt | stx => exact courtsOk_of_charter h (next_charter (withArgs_charter fun _ _ _ => storeBody_charter))
  | put => exact courtsOk_of_charter h (next_charter (withArgs_charter fun _ _ _ => putBody_charter))
  | chain => exact courtsOk_of_charter h (next_charter (withRegions_charter fun _ _ => chainBody_charter))
  | const => exact courtsOk_of_charter h (next_charter (withRegions_charter fun _ _ => constBody_charter))
  | vmov => exact courtsOk_of_charter h (next_charter (withRegions_charter fun _ _ => vmovBody_charter))
  | trn | perm =>
    exact courtsOk_of_charter h (next_charter (withArgs_charter fun _ _ _ => twoArgs_charter fun _ _ => permuteBody_charter))
  | cpy | bcst =>
    exact courtsOk_of_charter h (next_charter (withArgs_charter fun _ _ _ => twoArgs_charter fun _ _ => moveBody_charter))
  | registerWriteIgnored => exact h
  | _ => exact courtsOk_of_charter h (by simp [exec])

/-- A step keeps partitions apart: it is a command of the queue, or the device on its own. -/
theorem step_courtsOk {t : State} (h : s.courtsOk = true) (hs : step s = .next t) : t.courtsOk = true := by
  unfold step at hs
  split at hs
  next => exact Host.Outcome.next.inj hs ▸ courtsOk_of_charter h tick_charter
  next c rest _ =>
    have hx := exec_courtsOk (s := { s with pending := rest }) (c := c) h
    rwa [hs] at hx

end

/-- Settles O6: the courts of each partition and whether it is FREE change only where `part` takes courts that nobody has,
where `free` gives all of them back, and where a reset makes every partition FREE (`exec_courtsOk`). -/
theorem stepKeepsCourtsApart : Obligations.StepKeepsCourtsApart :=
  fun _ _ h hs => step_courtsOk h hs

end Sys2Proof.Machine

namespace Sys2Proof.Machine

/-! # The address map of a partition

R42 and R43 give each address of a partition a court and an offset in it; `Partition.paOf` finds them again. -/

section

variable {q : Partition}

/-- The device address `o` bytes into the court at place `i` lies in that court, and gives back its place and the offset. -/
theorem court_of_offset {i o : Nat} (hn : q.courts.Nodup) (hi : i < q.courts.length) (ho : o < courtBytes) :
    q.courts.contains ((tget 0 q.courts i * courtBytes + o) / courtBytes) = true ∧
      q.courts.idxOf? ((tget 0 q.courts i * courtBytes + o) / courtBytes) = some i ∧
      (tget 0 q.courts i * courtBytes + o) % courtBytes = o := by
  have hget : tget 0 q.courts i = q.courts[i] := by simp [tget, hi]
  have hc : (tget 0 q.courts i * courtBytes + o) / courtBytes = q.courts[i] := by
    rw [hget, Nat.mul_comm, Nat.mul_add_div (by decide), Nat.div_eq_of_lt ho, Nat.add_zero]
  refine ⟨by simp [hc], ?_, by rw [Nat.mul_add_mod_self_right, Nat.mod_eq_of_lt ho]⟩
  rw [hc, List.idxOf?_eq_some_iff]
  refine ⟨hi, rfl, fun j hj => ?_⟩
  simpa [hn.getElem_inj_iff] using Nat.ne_of_lt hj

/-- The partition address of the byte `o` bytes into the court at place `i`. -/
theorem paOf_of_offset {i o : Nat} (hn : q.courts.Nodup) (hi : i < q.courts.length) (ho : o < courtBytes) :
    q.paOf (tget 0 q.courts i * courtBytes + o) =
      if q.il then
        let ca := o / 512 * 256 + o % 256
        (ca / 4096 * (2 * q.courts.length) + 2 * i + o / 256 % 2) * 4096 + ca % 4096
      else i * courtBytes + o := by
  obtain ⟨-, hidx, hoff⟩ := court_of_offset hn hi ho
  unfold Partition.paOf
  rw [hidx, hoff, Option.getD_some]

/-- R43: with channel `b` of a court and address `ca` in that channel, the offset in the court gives both back. -/
theorem channel_of_offset {ca b : Nat} (hb : b < 2) :
    (ca / 256 * 512 + b * 256 + ca % 256) / 512 * 256 + (ca / 256 * 512 + b * 256 + ca % 256) % 256 = ca ∧
      (ca / 256 * 512 + b * 256 + ca % 256) / 256 % 2 = b := by
  omega

/-- The channel address of an interleaved address stays within half a court. -/
theorem channelAddress_lt {n pa : Nat} (h : pa < n * courtBytes) :
    pa / 4096 / (2 * n) * 4096 + pa % 4096 < courtBytes / 2 := by
  have hblock : pa / 4096 / (2 * n) < 393216 := by
    rw [Nat.div_div_eq_div_mul, Nat.div_lt_iff_lt_mul (by unfold courtBytes at h; omega)]
    unfold courtBytes at h
    omega
  unfold courtBytes
  omega

end

/-- Settles O8: an address goes to an offset in the court at some place, which `paOf` takes back (`paOf_of_offset`). -/
theorem addressMapIsOneToOne : Obligations.AddressMapIsOneToOne := by
  intro q pa _ hn hpa
  rw [Partition.size] at hpa
  have hlen : 0 < q.courts.length := by
    by_contra h
    simp [Nat.eq_zero_of_not_pos h] at hpa
  cases hil : q.il with
  | false =>
    have hi : pa / courtBytes < q.courts.length := Nat.div_lt_of_lt_mul (by rwa [Nat.mul_comm])
    have ho : pa % courtBytes < courtBytes := Nat.mod_lt _ (by decide)
    have hda : q.da pa = tget 0 q.courts (pa / courtBytes) * courtBytes + pa % courtBytes := by simp [Partition.da, hil]
    rw [hda]
    refine ⟨?_, (court_of_offset hn hi ho).1⟩
    rw [paOf_of_offset hn hi ho, hil]
    exact Nat.div_add_mod' pa courtBytes
  | true =>
    obtain ⟨j, hj⟩ : ∃ j, j = pa / 4096 % (2 * q.courts.length) := ⟨_, rfl⟩
    obtain ⟨ca, hca⟩ : ∃ ca, ca = pa / 4096 / (2 * q.courts.length) * 4096 + pa % 4096 := ⟨_, rfl⟩
    have hj2 : j < 2 * q.courts.length := hj ▸ Nat.mod_lt _ (by omega)
    have hi : j / 2 < q.courts.length := by omega
    have hlt : ca < courtBytes / 2 := hca ▸ channelAddress_lt hpa
    have ho : ca / 256 * 512 + j % 2 * 256 + ca % 256 < courtBytes := by
      unfold courtBytes at *
      omega
    have hda : q.da pa = tget 0 q.courts (j / 2) * courtBytes + (ca / 256 * 512 + j % 2 * 256 + ca % 256) := by
      simp [Partition.da, hil, hj, hca]
    rw [hda]
    refine ⟨?_, (court_of_offset hn hi ho).1⟩
    obtain ⟨hback, hch⟩ := channel_of_offset (ca := ca) (Nat.mod_lt j (by decide))
    rw [paOf_of_offset hn hi ho, if_pos hil]
    dsimp only
    rw [hback, hch]
    have hblock : pa / 4096 / (2 * q.courts.length) * (2 * q.courts.length) + j = pa / 4096 := by
      rw [hj]
      exact Nat.div_add_mod' _ _
    have hdiv : ca / 4096 = pa / 4096 / (2 * q.courts.length) := by omega
    have hmod : ca % 4096 = pa % 4096 := by omega
    rw [hdiv, hmod, Nat.add_assoc, Nat.div_add_mod, hblock]
    exact Nat.div_add_mod' pa 4096

end Sys2Proof.Machine

namespace Sys2Proof.Machine

/-! # Device addresses that hold no memory (R41)

Courts c0 to c7 end where the hole begins, at `hdmBytes`, and so does the range of the HDM decoder. -/

section

variable {s : State}

/-- The partitions have courts c0 to c7 only. -/
theorem owner_of_eight_le {c : Nat} (h : s.courtsOk = true) (hc : 8 ≤ c) : s.owner c = none := by
  refine owner_eq_none_iff.mpr fun q hq hm => ?_
  have hlt : c < 8 := by
    have hok := (courtsOk_iff.mp h).1 q hq
    simp only [Partition.courtsOk, Bool.and_eq_true, List.all_eq_true, decide_eq_true_eq] at hok
    exact hok.2 c hm
  omega

theorem decoded_lt {hpa a : Nat} (h : s.decoded hpa = some a) : a < hdmBytes := by
  unfold State.decoded at h
  split at h
  next b _ =>
    split at h
    next hb =>
      obtain rfl := Option.some.inj h
      omega
    next => cases h
  next => cases h

/-- An access within one line is not divided (R520). -/
theorem parts64_of_line {off n : Nat} (hn : 1 ≤ n) (h : off % 64 + n ≤ 64) : parts64 off n = [(off, n)] := by
  have hl : linesOf off n = [off / 64] := by
    have hone : (off + n - 1) / 64 + 1 - off / 64 = 1 := by omega
    rw [linesOf, if_neg (by omega), hone]
    simp
  have hstart : max off (64 * (off / 64)) = off := by omega
  have hend : min (off + n) (64 * (off / 64) + 64) - off = n := by omega
  simp [parts64, hl, hstart, hend]

/-- An access within one line below the end of BAR4 lies in one page. -/
theorem bar4Ok_of_line {off n : Nat} (hn : 1 ≤ n) (h : off % 64 + n ≤ 64) (he : off + n ≤ 0x800000000) :
    bar4Ok off n = true := by
  have hpage : off % 4096 + n ≤ 4096 := by omega
  simp only [bar4Ok, Bool.and_eq_true, decide_eq_true_eq]
  exact ⟨⟨⟨hn, by omega⟩, hpage⟩, he⟩

end

/-- Settles O30: the hole begins at `hdmBytes`, where the courts and the range of the decoder end, and BAR4 tests for it. -/
theorem theHoleHoldsNoMemory : Obligations.TheHoleHoldsNoMemory := by
  intro s a n sid data ep holes obs ha
  refine ⟨fun hc => ?_, fun hpa hd => ?_, fun hup hcxl hready hend hn hline hlen => ⟨?_, ?_⟩⟩
  · exact owner_of_eight_le hc ((Nat.le_div_iff_mul_le (by decide)).mpr ha)
  · exact absurd (decoded_lt hd) (Nat.not_lt.mpr ha)
  · have hhole : hdmBytes ≤ a := ha
    simp [exec, execBar4Read, hup, hcxl, hready, bar4Ok_of_line hn hline hend, parts64_of_line hn hline, hhole]
  · subst hlen
    have hhole : hdmBytes ≤ a := ha
    simp [exec, execBar4Write, hup, hcxl, bar4Ok_of_line hn hline hend, hhole, aerPoison]

end Sys2Proof.Machine

namespace Sys2Proof.Machine

/-! # What a latched fault leaves

A fault latches in one partition: its stored state and FFREC say so, its engines stop, its rally state is dropped (R443 to
R446, R406). `State.Stops` is what the steps after the latch may change, said once. -/

section

/-- Of a cluster, what the end of its long words may change: streams, requests, scratchpad, SUSPECTCNT. -/
def Cluster.Stops (k k' : Cluster) : Prop :=
  k' = { k with
    streams := k'.streams, reqs := k'.reqs, rels := k'.rels, xreds := k'.xreds, xdone := k'.xdone, sp := k'.sp
    suspect := k'.suspect }

/-- Of a partition, what the end of its long words may change: signals, rally state, the launch's suspect count. -/
def Partition.Stops (q q' : Partition) : Prop :=
  q' = { q with
    run := q'.run, signals := q'.signals, rlys := q'.rlys, epochs := q'.epochs, rxRefuse := q'.rxRefuse }

/-- From one state to another the long words of a partition end, and nothing else changes in partitions and clusters. -/
structure State.Stops (p : Nat) (s t : State) : Prop where
  part : (s.part p).Stops (t.part p)
  others : ∀ r, r ≠ p → t.part r = s.part r
  clu : ∀ j, (s.clu j).Stops (t.clu j)

variable {s t u : State} {p : Nat}

theorem Cluster.Stops.refl (k : Cluster) : k.Stops k := rfl

theorem Cluster.Stops.trans {k k' k'' : Cluster} (h : k.Stops k') (h' : k'.Stops k'') : k.Stops k'' := by
  unfold Cluster.Stops at *
  rw [h', h]

theorem Partition.Stops.trans {q q' q'' : Partition} (h : q.Stops q') (h' : q'.Stops q'') : q.Stops q'' := by
  unfold Partition.Stops at *
  rw [h', h]

theorem Cluster.Stops.refetch {k k' : Cluster} (h : k.Stops k') : k'.refetch = k.refetch := by rw [h]

/-- States with the same partitions and clusters. -/
theorem State.Stops.of_eq (hp : t.parts = s.parts) (hc : t.cl = s.cl) : s.Stops p t := by
  have hpart (r : Nat) : t.part r = s.part r := by rw [State.part, hp, State.part]
  have hclu (j : Nat) : t.clu j = s.clu j := by rw [State.clu, hc, State.clu]
  exact ⟨by rw [hpart]; rfl, fun r _ => hpart r, fun j => by rw [hclu]; rfl⟩

theorem State.Stops.refl (s : State) : s.Stops p s := .of_eq rfl rfl

theorem State.Stops.trans (h : s.Stops p t) (h' : t.Stops p u) : s.Stops p u :=
  ⟨h.part.trans h'.part, fun r hr => (h'.others r hr).trans (h.others r hr), fun j => (h.clu j).trans (h'.clu j)⟩

/-- An update of one cluster keeps `Stops` when it changes only what the end of long words may. -/
theorem updClu_stops {g} {f : Cluster → Cluster} (hf : ∀ k : Cluster, k.Stops (f k)) : s.Stops p (s.updClu g f) := by
  refine ⟨rfl, fun _ _ => rfl, fun j => ?_⟩
  rw [State.clu, State.clu, State.updClu, tget, tget, List.getD_eq_getElem?_getD, List.getD_eq_getElem?_getD,
    List.getElem?_modify]
  cases s.cl[j]? with
  | none => exact Cluster.Stops.refl _
  | some k =>
    by_cases hj : g = j
    · simpa [hj] using hf k
    · simpa [hj] using Cluster.Stops.refl k

theorem updPart_stops {f : Partition → Partition} (hf : ∀ q : Partition, q.Stops (f q)) : s.Stops p (s.updPart p f) := by
  refine ⟨?_, fun r hr => part_updPart_ne s p r f hr.symm, fun _ => rfl⟩
  rw [State.part, State.part, State.updPart, tget, tget, List.getD_eq_getElem?_getD, List.getD_eq_getElem?_getD,
    List.getElem?_modify]
  cases s.parts[p]? with
  | none => rfl
  | some q => simpa using hf q

theorem foldl_stops {β : Type} {f : State → β → State} {l : List β} (hf : ∀ t b, State.Stops p t (f t b)) :
    s.Stops p (l.foldl f s) :=
  foldl_keeps (s.Stops p) f l s (.refl s) fun t b h => h.trans (hf t b)

theorem SameButPorts.stops (h : SameButPorts s t) : s.Stops p t := .of_eq (by rw [h]) (by rw [h])

/-- What leaves a port changes ports and what is sent. -/
theorem drainPort_sameButPorts {n x} : SameButPorts s (drainPort n x s) := by
  induction n generalizing s with
  | zero => rfl
  | succ n ih =>
    unfold drainPort
    dsimp only
    split
    · rfl
    · split
      · rfl
      · refine SameButPorts.trans ?_ ih
        split
        · exact ((updPort_sameButPorts s x _).trans (sendFrame_sameButPorts _ x _)).trans (freeBuf_sameButPorts _ _ _)
        · exact (updPort_sameButPorts s x _).trans (sendFrame_sameButPorts _ x _)

/-- A frame that is routed changes ports and what is sent. -/
theorem route_sameButPorts {f} : SameButPorts s (s.route p f) := by
  unfold State.route
  split
  · exact (updPort_sameButPorts s _ _).trans drainPort_sameButPorts
  · rfl

theorem readRsp_stops {dst tid st} : s.Stops p (s.readRsp p dst tid st) := by
  unfold State.readRsp
  split
  · exact route_sameButPorts.stops
  · exact .refl s

theorem suspect_stops {g hit} : s.Stops p (s.suspect p g hit) := by
  unfold State.suspect
  split
  · refine State.Stops.trans ?_ (updPart_stops fun _ => rfl)
    exact updClu_stops fun _ => rfl
  · exact .refl s

theorem dropRally_stops : s.Stops p (s.dropRally p) := by
  unfold State.dropRally
  extract_lets t asks u v
  have ht : s.Stops p t := foldl_stops fun _ _ => suspect_stops
  have hu : t.Stops p u := foldl_stops fun w x =>
    (SameButPorts.stops (updPort_sameButPorts w x _)).trans (foldl_stops fun _ _ => (freeBuf_sameButPorts _ _ _).stops)
  have hv : u.Stops p v := foldl_stops fun _ _ => readRsp_stops
  exact ht.trans (hu.trans (hv.trans (updPart_stops fun _ => rfl)))

theorem floodAbort_stops {code} : s.Stops p (s.floodAbort p code) := by
  unfold State.floodAbort
  split
  · exact State.Stops.trans (t := s.updDev _) (.of_eq rfl rfl) (foldl_stops fun _ _ => route_sameButPorts.stops)
  · exact .refl s

theorem mark_stops {l c} : s.Stops p (s.mark l c) := by
  unfold State.mark
  dsimp only
  split
  · exact .refl s
  · split
    · exact .of_eq rfl rfl
    · exact .of_eq rfl rfl

theorem unwrite_stops {o} : s.Stops p (s.unwrite o) := by
  unfold State.unwrite
  split
  · refine State.Stops.trans (t := { s with dram := spSet 0 s.dram o.adr o.old }) (.of_eq rfl rfl) ?_
    dsimp only
    split
    · exact mark_stops
    · exact .refl _
  · exact updClu_stops fun _ => rfl

theorem abandonWrites_stops {es ws} : s.Stops p (s.abandonWrites es ws) := by
  induction es generalizing s ws with
  | nil => exact .refl s
  | cons e r ih => exact (foldl_stops fun _ _ => unwrite_stops).trans ih

theorem stopEngines_stops : s.Stops p (s.stopEngines p) := by
  have ha : s.Stops p (s.abandonAll p) := by
    unfold State.abandonAll
    dsimp only
    split
    · exact .refl s
    · exact abandonWrites_stops.trans (.of_eq rfl rfl)
  refine ha.trans (State.Stops.trans ?_ (updPart_stops fun _ => rfl))
  exact foldl_stops fun _ _ => updClu_stops fun _ => rfl

/-! ## The latch -/

/-- FFREC holds the code of the error that it is written for (R444). -/
theorem ffCode_of_ffrec {q : Partition} {e : HwErr} {late run} (h : q.ffrec = ffrecOf e late run) (he : e.code < 256) :
    q.ffCode = e.code := by
  have hl : b2n late ≤ 1 := by
    unfold b2n
    split
    · exact le_rfl
    · exact Nat.zero_le 1
  rw [Partition.ffCode, h]
  simp only [ffrecOf, tget, List.getD_cons_zero, BitVec.toNat_ofNat, bits, Nat.shiftRight_eq_div_pow]
  omega

/-- A partition in which one error has latched (R443, R444, R446). -/
def Partition.latched (q : Partition) (e : HwErr) : Partition :=
  { q with
    stat := .faulted, phase := .report, faults := satAdd 0xFFFF q.faults 1, late := satAdd 0xFFFF q.late 0
    ffrec := ffrecOf e false q.run, gate := false, tickets := 0, jobs := q.jobs.map fun j => j.stop 5 }

/-- An error that may latch does, and then everything in flight ends (R442 to R446). -/
theorem latch_stops {e : HwErr} (h : (s.part p).mayLatch e.code = true) :
    (s.updPart p (·.latched e)).Stops p (s.latch p e) := by
  have hup : (s.part p).stat = .up := by
    simp only [Partition.mayLatch, Bool.and_eq_true, beq_iff_eq] at h
    exact h.1
  have heq : s.latch p e =
      let u := ((s.updPart p (·.latched e)).stopEngines p).dropRally p
      if e.code = 0x09 then u else u.floodAbort p e.code := by
    simp [State.latch, State.latchAll, hup, h]
    rfl
  have hu : (s.updPart p (·.latched e)).Stops p (((s.updPart p (·.latched e)).stopEngines p).dropRally p) :=
    stopEngines_stops.trans dropRally_stops
  rw [heq]
  dsimp only
  split
  · exact hu
  · exact hu.trans floodAbort_stops

theorem stat_of_running {q : Partition} (h : q.state = 3) : q.stat = .up := by
  cases hs : q.stat with
  | up => rfl
  | free | faulted | resetting => simp [Partition.state, hs] at h

/-- R443 to R446: an error latches in a RUNNING partition, which is FAULTED then with the error's code; no other partition
changes, and of clusters no more than the end of long words does. -/
theorem latch_of_running {e : HwErr} (hp : p < s.parts.length) (hr : (s.part p).state = 3) (he : e.code < 256) :
    ((s.latch p e).part p).state = 4 ∧ ((s.latch p e).part p).ffCode = e.code ∧
      (∀ r, r ≠ p → (s.latch p e).part r = s.part r) ∧ ∀ j, (s.clu j).Stops ((s.latch p e).clu j) := by
  have hmay : (s.part p).mayLatch e.code = true := by simp [Partition.mayLatch, stat_of_running hr, hr]
  obtain ⟨hpart, hothers, hclu⟩ := latch_stops hmay
  rw [part_updPart_same s p _ hp] at hpart
  refine ⟨?_, ?_, fun r hne => (hothers r hne).trans (part_updPart_ne s p r _ hne.symm), hclu⟩
  · rw [hpart]
    rfl
  · exact ffCode_of_ffrec (by rw [hpart]; rfl) he

end

end Sys2Proof.Machine

namespace Sys2Proof.Machine

/-! # Instruction caches

What enters and leaves an instruction cache (R23, R26, R251, R252), and that the fetch units, which run on when a line has
come, change only their streams (R153). -/

section

variable {s : State} {g : Nat}

/-! ## One line enters -/

section

variable {k : Cluster} {free : Nat} {e x : Bool × Nat}

theorem sameSet_self : sameSet e e = true := by simp [sameSet]

/-- The line that a full set gives up is one of the set. -/
theorem victim_mem (h : 8 ≤ (k.icache.filter (sameSet e)).length) :
    tget e (k.icache.filter (sameSet e)) (Config.icacheWay free % (k.icache.filter (sameSet e)).length) ∈
      k.icache.filter (sameSet e) := by
  have hlt : Config.icacheWay free % (k.icache.filter (sameSet e)).length < (k.icache.filter (sameSet e)).length :=
    Nat.mod_lt _ (by omega)
  rw [tget, List.getD_eq_getElem _ _ hlt]
  exact List.getElem_mem hlt

/-- A line that enters is there already, finds its set not full, or takes the place of a line of its full set. -/
theorem icacheAdd_cases (k : Cluster) (free : Nat) (e : Bool × Nat) :
    (e ∈ k.icache ∧ k.icacheAdd free e = k) ∨
    (e ∉ k.icache ∧ (k.icache.filter (sameSet e)).length < 8 ∧
      k.icacheAdd free e = { k with icache := e :: k.icache }) ∨
    (e ∉ k.icache ∧ 8 ≤ (k.icache.filter (sameSet e)).length ∧ ∃ v ∈ k.icache.filter (sameSet e),
      k.icacheAdd free e = { k with icache := e :: k.icache.erase v }) := by
  unfold Cluster.icacheAdd
  dsimp only
  split
  next he => exact .inl ⟨by simpa using he, rfl⟩
  next he =>
    have hout : e ∉ k.icache := by simpa using he
    have hle : (k.icache.filter (sameSet e)).length ≤ k.icache.length := List.length_filter_le _ _
    split
    next hfull =>
      simp only [Bool.or_eq_true, decide_eq_true_eq] at hfull
      exact .inr (.inl ⟨hout, by omega, rfl⟩)
    next hfull =>
      simp only [Bool.or_eq_true, decide_eq_true_eq, not_or, Nat.not_lt] at hfull
      exact .inr (.inr ⟨hout, hfull.2, _, victim_mem hfull.2, rfl⟩)

theorem mem_icacheAdd : e ∈ (k.icacheAdd free e).icache := by
  obtain ⟨he, h⟩ | ⟨-, -, h⟩ | ⟨-, -, v, -, h⟩ := icacheAdd_cases k free e
  · rwa [h]
  · simp [h]
  · simp [h]

/-- Only a line of the same set leaves, and only where eight are there. -/
theorem sameSet_of_left (hx : x ∈ k.icache) (hn : x ∉ (k.icacheAdd free e).icache) :
    sameSet e x = true ∧ 8 ≤ (k.icache.filter (sameSet e)).length := by
  obtain ⟨-, h⟩ | ⟨-, -, h⟩ | ⟨-, hfull, v, hv, h⟩ := icacheAdd_cases k free e
  · exact absurd (by rwa [h]) hn
  · exact absurd (by simp [h, hx]) hn
  · obtain rfl : x = v := by
      by_contra hne
      exact hn (by simp [h, (List.mem_erase_of_ne hne).mpr hx])
    exact ⟨(List.mem_filter.mp hv).2, hfull⟩

/-- No other line comes in. -/
theorem eq_or_mem_of_mem_icacheAdd (hx : x ∈ (k.icacheAdd free e).icache) : x = e ∨ x ∈ k.icache := by
  obtain ⟨-, h⟩ | ⟨-, -, h⟩ | ⟨-, -, v, -, h⟩ := icacheAdd_cases k free e
  · exact .inr (by rwa [h] at hx)
  · simpa [h] using hx
  · obtain hx | hx : x = e ∨ x ∈ k.icache.erase v := by simpa [h] using hx
    · exact .inl hx
    · exact .inr (List.mem_of_mem_erase hx)

/-- A set grows to eight lines at most. -/
theorem length_set_icacheAdd_le :
    ((k.icacheAdd free e).icache.filter (sameSet e)).length ≤ max 8 (k.icache.filter (sameSet e)).length := by
  obtain ⟨-, h⟩ | ⟨-, hroom, h⟩ | ⟨-, hfull, v, hv, h⟩ := icacheAdd_cases k free e
  · rw [h]
    exact le_max_right _ _
  · rw [h, List.filter_cons_of_pos sameSet_self, List.length_cons]
    omega
  · rw [h, List.filter_cons_of_pos sameSet_self, List.length_cons, ← List.erase_filter, List.length_erase_of_mem hv]
    omega

theorem icacheAdd_refetch : (k.icacheAdd free e).refetch = k.refetch := by
  obtain ⟨-, h⟩ | ⟨-, -, h⟩ | ⟨-, -, v, -, h⟩ := icacheAdd_cases k free e <;> rw [h]

end

/-! ## The fetch units run on -/

/-- The fetch units of a cluster change the clusters only. -/
theorem fetchAll_frame : s.fetchAll g = { s with cl := (s.fetchAll g).cl } := by
  refine foldl_keeps (fun t : State => t = { s with cl := t.cl }) _ _ s rfl fun t st h => ?_
  rw [h]
  rfl

/-- The fetch units of a cluster change no other. -/
theorem clu_fetchAll_ne {j : Nat} (h : j ≠ g) : (s.fetchAll g).clu j = s.clu j :=
  foldl_keeps (fun t => t.clu j = s.clu j) _ _ s rfl fun t st ht => (clu_updStr_ne t g j st _ h.symm).trans ht

/-- The fetch units of a cluster change its streams only. -/
theorem clu_fetchAll_same (h : g < s.cl.length) :
    (s.fetchAll g).clu g = { s.clu g with streams := ((s.fetchAll g).clu g).streams } := by
  refine (foldl_keeps (fun t : State => t.cl.length = s.cl.length ∧
    t.clu g = { s.clu g with streams := (t.clu g).streams }) _ _ s ⟨rfl, rfl⟩ fun t st ⟨hl, ht⟩ => ⟨?_, ?_⟩).2
  · rw [← hl]
    exact List.length_modify ..
  · have hu : (t.fetch g st).clu g = (t.clu g).updStr st _ := clu_updClu_same t g _ (by omega)
    rw [hu, ht]
    rfl

theorem observe_nothing {ls : List Nat} : s.observe {} ls = s := by simp [State.observe]

/-! ## A line is read -/

section

variable {p line : Nat} {b : Bool}

/-- A line that holds no poison enters the instruction cache, and the fetch units run on. -/
theorem icacheRead_readable (h : s.cause ((s.part p).slotLine b line) = none) :
    s.icacheRead p g b line {} = ((s.updClu g fun k => k.icacheAdd s.free (b, line)).fetchAll g).fresh := by
  rw [Partition.slotLine] at h
  simp [State.icacheRead, observe_nothing, h]

/-- What the cluster holds after the read: the line has entered, streams have fetched. -/
theorem clu_icacheRead (h : s.cause ((s.part p).slotLine b line) = none) (hg : g < s.cl.length) :
    ((s.icacheRead p g b line {}).clu g).icache = ((s.clu g).icacheAdd s.free (b, line)).icache ∧
      ((s.icacheRead p g b line {}).clu g).refetch = (s.clu g).refetch := by
  have hl : g < (s.updClu g fun k => k.icacheAdd s.free (b, line)).cl.length := by simpa [State.updClu] using hg
  have hc := clu_fetchAll_same hl
  rw [clu_updClu_same s g _ hg] at hc
  rw [icacheRead_readable h, clu_fresh, hc]
  exact ⟨rfl, icacheAdd_refetch⟩

/-- The read changes no other cluster, no partition and no device memory. -/
theorem icacheRead_frame (h : s.cause ((s.part p).slotLine b line) = none) :
    (∀ j, j ≠ g → (s.icacheRead p g b line {}).clu j = s.clu j) ∧
      (s.icacheRead p g b line {}).parts = s.parts ∧ (s.icacheRead p g b line {}).dram = s.dram := by
  rw [icacheRead_readable h]
  refine ⟨fun j hj => ?_, ?_, ?_⟩
  · rw [clu_fresh, clu_fetchAll_ne hj, clu_updClu_ne s g j _ hj.symm]
  · rw [State.fresh, fetchAll_frame]
    rfl
  · rw [State.fresh, fetchAll_frame]
    rfl

/-- R252: a line with a parity error leaves its cache; where it is to be refetched, that is counted. -/
def State.uncached (s : State) (g : Nat) (b : Bool) (line : Nat) (again : Bool) : State :=
  s.updClu g fun k => { k with
    icache := k.icache.filter (· != (b, line)), refetch := if again then k.refetch else satAdd 0xFFFFFFFF k.refetch 1 }

/-- A parity error of a line that the host does not hold is met in the cache: the line is read again, or faults. -/
theorem exec_icacheParityRefetch {g : Clu} {again : Bool} (hown : s.ownerG g = some p) (hin : (b, line) ∈ (s.clu g).icache)
    (hsnoop : s.snooped [(s.part p).slotLine b line] = []) :
    exec (.icacheParityRefetch g b line again {}) s = .next (
      if again then (s.uncached g b line again).latch p
        ((s.part p).fetchErr (s.uncached g b line again) g ((s.part p).slotPa b + 64 * line) 0 true)
      else (s.uncached g b line again).icacheRead p g b line {}) := by
  simp [exec, execIcacheParityRefetch, hown, hin, hsnoop, State.uncached]

end

end

/-- Settles O41: a line enters by `Cluster.icacheAdd`, a parity error takes it out first, and a second one latches. -/
theorem instructionCaches : Obligations.InstructionCaches := by
  intro s g b line p hs hown hsnoop ok old
  obtain ⟨-, hparts, -, hcl, -⟩ := sized_iff.mp hs
  have hg : g.val < s.cl.length := by omega
  have hp : p < s.parts.length := (List.findIdx?_eq_some_iff_findIdx_eq.mp hown).1
  refine ⟨fun ⟨st, hst, hw⟩ hup hdf hok => ?_, fun hw => ?_, fun hin hok => ?_, fun hin hr _ => ?_⟩
  · have hany : ((List.range 5).any fun st => s.fetchWant g st == some (b, line)) = true :=
      List.any_eq_true.mpr ⟨st, List.mem_range.mpr hst, by simp [hw]⟩
    obtain ⟨hother, hps, hd⟩ := icacheRead_frame (g := g) hok
    obtain ⟨hic, -⟩ := clu_icacheRead hok hg
    refine ⟨s.icacheRead p g b line {}, ?_, ?_, ?_, ?_, ?_, hother, hps, hd⟩
    · simp [exec, execIcacheFill, hown, hup, hdf, hany, hsnoop]
    · rw [hic]
      exact mem_icacheAdd
    · rw [hic]
      exact fun x => sameSet_of_left
    · rw [hic]
      exact fun x => eq_or_mem_of_mem_icacheAdd
    · rw [hic]
      exact length_set_icacheAdd_le
  · have hany : ((List.range 5).any fun st => s.fetchWant g st == some (b, line)) = false :=
      List.any_eq_false.mpr fun st hst => by simpa using hw st (List.mem_range.mp hst)
    simp [exec, execIcacheFill, hown, hany]
  · rw [exec_icacheParityRefetch hown hin hsnoop, if_neg Bool.false_ne_true]
    have hok' : (s.uncached g b line false).cause (((s.uncached g b line false).part p).slotLine b line) = none := hok
    obtain ⟨-, hps, -⟩ := icacheRead_frame (g := g) hok'
    obtain ⟨hic, hre⟩ := clu_icacheRead hok' (by simpa [State.uncached, State.updClu] using hg)
    refine ⟨_, rfl, ?_, ?_, ?_⟩
    · rw [hic]
      exact mem_icacheAdd
    · rw [hre, State.uncached, clu_updClu_same s g _ hg]
      rfl
    · rw [State.part, hps]
      rfl
  · rw [exec_icacheParityRefetch hown hin hsnoop, if_pos rfl]
    have hcode7 : ((s.part p).fetchErr (s.uncached g b line true) g ((s.part p).slotPa b + 64 * line) 0 true).code < 256 :=
      show 0x07 < 256 by decide
    obtain ⟨hst, hcode, -, hclu⟩ := latch_of_running (s := s.uncached g b line true) (p := p) hp hr hcode7
    refine ⟨_, rfl, hst, hcode, ?_⟩
    rw [(hclu g).refetch, State.uncached, clu_updClu_same s g _ hg]
    rfl

end Sys2Proof.Machine

namespace Sys2Proof.Machine

/-! # What lines of w8 leave alone

The device window is never locked, so that its lines change no partition (R294): they change windows, the UART, pending bits
of the host link and what is sent. -/

section

variable {s t : State}

/-- A state differs from another in windows, the UART, the host link and what is sent at most. -/
def SameButTalk (s t : State) : Prop :=
  t = { s with windows := t.windows, uart := t.uart, host := t.host, out := t.out }

theorem SameButTalk.trans {u : State} (h : SameButTalk s t) (k : SameButTalk t u) : SameButTalk s u := by
  unfold SameButTalk at *
  rw [k, h]

theorem SameButTalk.parts (h : SameButTalk s t) : t.parts = s.parts := by rw [h]
theorem SameButTalk.port (h : SameButTalk s t) (x : Nat) : t.port x = s.port x := by rw [h]; rfl
theorem SameButTalk.extest (h : SameButTalk s t) : t.extest = s.extest := by rw [h]; rfl

theorem emit_w8_sameButTalk {u line} : SameButTalk s (s.emit 8 u line) := by
  have hc : s.countLine 8 = s := rfl
  unfold SameButTalk State.emit
  rw [hc]
  exact deliver_frame ..

theorem ok_w8_sameButTalk {l ks} : SameButTalk s (s.ok 8 l ks) := emit_w8_sameButTalk

theorem msix_sameButTalk {v} : SameButTalk s (s.msix v) := by
  unfold SameButTalk
  rw [msix_frame]

theorem linkEvent_sameButTalk {x up} : SameButTalk s (s.linkEvent x up) :=
  (emit_w8_sameButTalk.trans emit_w8_sameButTalk).trans msix_sameButTalk

end

/-! # What the loss of a link discards

A port that goes down discards its buffers. The frames in transit that lay in them free the buffers that they held at other
ports, where that is all that happens (R376, R383). -/

section

variable {s : State} {x y : Nat}

/-- A buffer of a port becomes free: the credits it returns, and the IDLE frame that returns them (R380). -/
def Port.Freed (q q' : Port) : Prop := q' = { q with freed := q'.freed, nak := q'.nak, sent := q'.sent }

theorem Port.Freed.refl (q : Port) : q.Freed q := rfl

theorem Port.Freed.trans {q q' q'' : Port} (h : q.Freed q') (h' : q'.Freed q'') : q.Freed q'' := by
  unfold Port.Freed at *
  rw [h', h]

theorem updPort_freed {f : Port → Port} (hf : ∀ q : Port, q.Freed (f q)) :
    (s.port y).Freed ((s.updPort x f).port y) := by
  rw [State.port, State.port, State.updPort, tget, tget, List.getD_eq_getElem?_getD, List.getD_eq_getElem?_getD,
    List.getElem?_modify]
  cases s.ports[y]? with
  | none => exact Port.Freed.refl _
  | some q =>
    by_cases hx : x = y
    · simpa [hx] using hf q
    · simpa [hx] using Port.Freed.refl q

theorem sendFrame_freed {f} : (s.port y).Freed ((s.sendFrame x f).port y) := by
  unfold State.sendFrame
  split
  · exact .refl _
  · exact updPort_freed fun _ => rfl

theorem idle_freed {w} : (s.port y).Freed ((s.idle x w).port y) := by
  unfold State.idle
  split
  · exact .refl _
  · exact sendFrame_freed

theorem freeBuf_freed {f} : (s.port y).Freed ((s.freeBuf x f).port y) := by
  unfold State.freeBuf
  extract_lets t
  have ht : (s.port y).Freed (t.port y) := updPort_freed fun _ => rfl
  split
  · exact (ht.trans idle_freed).trans idle_freed
  · exact ht.trans idle_freed

theorem port_sendFrame_ne {f} (h : x ≠ y) : (s.sendFrame x f).port y = s.port y := by
  unfold State.sendFrame
  split
  · rfl
  · exact port_updPort_ne s x y _ h

theorem port_idle_ne {w} (h : x ≠ y) : (s.idle x w).port y = s.port y := by
  unfold State.idle
  split
  · rfl
  · exact port_sendFrame_ne h

theorem port_freeBuf_ne {f} (h : x ≠ y) : (s.freeBuf x f).port y = s.port y := by
  unfold State.freeBuf
  extract_lets t
  have ht : t.port y = s.port y := port_updPort_ne s x y _ h
  split
  · rw [port_idle_ne h, port_idle_ne h, ht]
  · rw [port_idle_ne h, ht]

/-- A port without the frames in transit that lie in the buffers of port `x`. -/
def Port.without (q : Port) (x : Nat) : Port := { q with egress := q.egress.filter fun f => f.2 != some x }

/-- A port's egress and link state are cleared, and no port keeps a frame that lay in its buffers. -/
def State.cleared (s : State) (x : Nat) : State :=
  ({ s with ports := s.ports.map fun q : Port => q.without x } : State).updPort x fun q => { q.restarted with egress := [] }

theorem port_cleared (hx : x < s.ports.length) : (s.cleared x).port x = { (s.port x).restarted with egress := [] } := by
  rw [State.cleared, port_updPort_same _ x _ (by simpa using hx)]
  simp [State.port, tget, hx, Port.without, Port.restarted]

theorem port_cleared_ne (h : x ≠ y) : (s.cleared x).port y = (s.port y).without x := by
  rw [State.cleared, port_updPort_ne _ x y _ h]
  simp only [State.port, tget, List.getD_eq_getElem?_getD, List.getElem?_map]
  cases s.ports[y]? <;> rfl

/-- What a port that loses its link keeps is what no link state is (R376). -/
theorem emptyPort_port (hx : x < s.ports.length) :
    (s.emptyPort x).port x = { (s.port x).restarted with egress := [] } := by
  refine foldl_keeps (fun t : State => t.port x = _) _ _ (s.cleared x) (port_cleared hx) fun t f ht => ?_
  split
  next z _ =>
    split
    · exact ht
    next hz => exact (port_freeBuf_ne hz).trans ht
  · exact ht

theorem emptyPort_port_ne (h : x ≠ y) : ((s.port y).without x).Freed ((s.emptyPort x).port y) := by
  refine foldl_keeps (fun t : State => ((s.port y).without x).Freed (t.port y)) _ _ (s.cleared x)
    (port_cleared_ne h ▸ .refl _) fun t f ht => ?_
  split
  · split
    · exact ht
    · exact ht.trans freeBuf_freed
  · exact ht

/-- Where no frame in transit waits at the port, no other port frees a buffer. -/
theorem emptyPort_port_ne_of_none (h : x ≠ y) (hn : ∀ f ∈ (s.port x).egress, f.2 = none) :
    (s.emptyPort x).port y = (s.port y).without x := by
  refine List.foldlRecOn (motive := fun t : State => t.port y = (s.port y).without x) _ _ (b := s.cleared x)
    (port_cleared_ne h) fun t ht f hf => ?_
  split
  next z hz => rw [hn f hf] at hz; cases hz
  next => exact ht

theorem Port.Freed.st {q q' : Port} (h : q.Freed q') : q'.st = q.st := by rw [h]
theorem Port.Freed.hold {q q' : Port} (h : q.Freed q') : q'.hold = q.hold := by rw [h]
theorem Port.Freed.replay {q q' : Port} (h : q.Freed q') : q'.replay = q.replay := by rw [h]
theorem Port.Freed.slots {q q' : Port} (h : q.Freed q') : q'.slots = q.slots := by rw [h]
theorem Port.Freed.credits {q q' : Port} (h : q.Freed q') : q'.credits = q.credits := by rw [h]
theorem Port.Freed.egress {q q' : Port} (h : q.Freed q') : q'.egress = q.egress := by rw [h]

/-- A port that has no frame waiting for a buffer has none that lies in a buffer of port `x`. -/
theorem Port.without_of_none {q : Port} (h : ∀ f ∈ q.egress, f.2 = none) : q.without x = q := by
  have hf : (q.egress.filter fun f => f.2 != some x) = q.egress :=
    List.filter_eq_self.mpr fun f hf => by simp [h f hf]
  rw [Port.without, hf]

/-! ## A port that `link` takes down or trains -/

/-- What a port's loss of its link leaves of partitions and of the other ports: theirs are at most the frames that wait there
in its buffers, or whose buffers there it held (R376, R383). -/
def State.KeepsOthers (s : State) (x : Nat) (t : State) : Prop :=
  t.parts = s.parts ∧ ∀ y, y ≠ x →
    (t.port y).st = (s.port y).st ∧ (t.port y).hold = (s.port y).hold ∧ (t.port y).replay = (s.port y).replay ∧
    (t.port y).slots = (s.port y).slots ∧ (t.port y).credits = (s.port y).credits ∧
    (t.port y).egress = (s.port y).egress.filter (fun f => f.2 != some x) ∧
    ((∀ z, ∀ f ∈ (s.port z).egress, f.2 = none) → t.port y = s.port y)

theorem portDown_keepsOthers {hold retry} : s.KeepsOthers x (s.portDown x hold retry) := by
  refine ⟨?_, fun y hy => ?_⟩
  · rw [portDown_sameButPorts s x hold retry]
  · have hp : (s.portDown x hold retry).port y = (s.emptyPort x).port y := port_updPort_ne _ x y _ hy.symm
    have hf : ((s.port y).without x).Freed ((s.emptyPort x).port y) := emptyPort_port_ne hy.symm
    rw [hp]
    refine ⟨hf.st, hf.hold, hf.replay, hf.slots, hf.credits, hf.egress, fun hn => ?_⟩
    rw [emptyPort_port_ne_of_none hy.symm (hn x), Port.without_of_none (hn y)]

theorem State.KeepsOthers.of_same {t u : State} (h : s.KeepsOthers x t) (hp : u.parts = t.parts)
    (hy : ∀ y, y ≠ x → u.port y = t.port y) : s.KeepsOthers x u :=
  ⟨hp.trans h.1, fun y hne => by rw [hy y hne]; exact h.2 y hne⟩

theorem opDown_sameButTalk {hold} : SameButTalk (s.portDown x hold false) (s.opDown x hold) := by
  unfold State.opDown
  dsimp only
  split
  · rfl
  · exact linkEvent_sameButTalk

theorem opDown_keepsOthers {hold} : s.KeepsOthers x (s.opDown x hold) :=
  portDown_keepsOthers.of_same opDown_sameButTalk.parts fun y _ => opDown_sameButTalk.port y

theorem ports_length (hs : s.sized = true) : s.ports.length = 8 := by
  obtain ⟨-, -, -, -, -, hports, -⟩ := sized_iff.mp hs
  exact hports

theorem opDown_port {hold} (hs : s.sized = true) (hx : x < 8) :
    (s.opDown x hold).port x = { (s.port x).restarted with egress := [], st := .down, hold := hold, retry := false } := by
  have hl : x < (s.emptyPort x).ports.length := by rwa [ports_length (emptyPort_sized hs)]
  rw [opDown_sameButTalk.port, State.portDown, port_updPort_same _ x _ hl, emptyPort_port (by rwa [ports_length hs])]

theorem opDown_extest {hold} : (s.opDown x hold).extest = s.extest := by
  rw [opDown_sameButTalk.extest, portDown_sameButPorts s x hold false]
  rfl

/-- A port that begins to train keeps what waits to be sent; under EXTEST it cannot train yet (R376, R500). -/
theorem train_port (hs : s.sized = true) (h8 : x < 8) :
    ((s.train x).port x).st = (if s.extest then .down else .training) ∧ ((s.train x).port x).hold = false ∧
      ((s.train x).port x).egress = (s.port x).egress := by
  have hx : x < s.ports.length := by rwa [ports_length hs]
  unfold State.train
  split
  · rw [port_updPort_same s x _ hx]
    exact ⟨rfl, rfl, rfl⟩
  · extract_lets t h f
    have hl : x < t.ports.length := by simpa [t, State.updPort] using hx
    have hf := sendFrame_freed (s := t.updPort x fun q => { q with
      replay := [f], tries := [1], txSeq := 1, credits := q.credits.modify h.pool (· - 1) }) (x := x) (y := x) (f := f)
    rw [port_updPort_same t x _ hl, port_updPort_same s x _ hx] at hf
    exact ⟨hf.st, hf.hold, hf.egress⟩

theorem port_train_ne (h : x ≠ y) : (s.train x).port y = s.port y := by
  unfold State.train
  split
  · exact port_updPort_ne s x y _ h
  · rw [port_sendFrame_ne h, port_updPort_ne _ x y _ h, port_updPort_ne s x y _ h]

theorem train_parts : (s.train x).parts = s.parts := by rw [train_sameButPorts s x]

theorem train_keepsOthers {t : State} (h : s.KeepsOthers x t) : s.KeepsOthers x (t.train x) :=
  h.of_same train_parts fun _ hy => port_train_ne hy.symm

theorem ok_keepsOthers {t : State} {l ks} (h : s.KeepsOthers x t) : s.KeepsOthers x (t.ok 8 l ks) :=
  h.of_same ok_w8_sameButTalk.parts fun y _ => ok_w8_sameButTalk.port y

end

/-! # The lines of the device window for clocks, links and rally settings (R305 to R309) -/

section

variable {s : State} {l : LineCtx}

/-! ## clock -/

theorem exec_clock {p : Part} {mhz : Nat} (ht : s.takes 8 (.clock l p mhz) = true) (hr : s.isReady = true)
    (hst : (s.part p).state ∉ [0, 3]) (hq : (s.part p).queue = []) (hd : (s.part p).drill = none) :
    exec (.clock l p mhz) s = .next (
      if 800 ≤ mhz ∧ mhz ≤ s.gradeMax ∧ mhz % 50 = 0 then
        (s.updPart p fun q => { q with mhz := mhz, relock := some l }).updWin 8 fun w =>
          { w with busy := some (.relocking p) }
      else s.no 8 l "range") := by
  have hlegal : (s.isReady && (s.part p).state != 0 && (s.part p).state != 3 && (s.part p).queue.isEmpty &&
      (s.part p).drill.isNone) = true := by
    simp_all
  have hexec : exec (.clock l p mhz) s = .next (verbClock l p mhz s) := congrArg _ (atLine_takes s 8 _ _ ht)
  rw [hexec, verbClock]
  simp only [hlegal, Bool.not_true, Bool.false_eq_true, if_false]
  split
  next hbad =>
    rw [if_neg (by omega)]
    rfl
  next hgood =>
    rw [if_pos (by omega)]
    rfl

/-- What a change of a partition keeps of that partition, it keeps of every one, whether it is there or not. -/
theorem part_updPart_keeps {α : Type} {f : Partition → Partition} (view : Partition → α) (h : ∀ q, view (f q) = view q)
    (i j : Nat) : view ((s.updPart i f).part j) = view (s.part j) := by
  rw [State.part, State.part, State.updPart, tget, tget, List.getD_eq_getElem?_getD, List.getD_eq_getElem?_getD,
    List.getElem?_modify]
  cases s.parts[j]? with
  | none => rfl
  | some q => by_cases hi : i = j <;> simp [hi, h]

theorem exec_relockDone {p : Part} (hl : (s.part p).relock = some l) (hb : (s.win 8).busy = some (.relocking p)) :
    exec (.relockDone p) s =
      .next (((s.updPart p fun q => { q with relock := none }).updWin 8 fun w => { w with busy := none }).ok 8 l
        [nameN "p" p, kn "mhz" (s.part p).mhz]) := by
  have hm : ((s.updPart p fun q => { q with relock := none }).part p).mhz = (s.part p).mhz := by
    refine part_updPart_keeps (·.mhz) ?_ p p
    exact fun _ => rfl
  simp [exec, execRelockDone, hl, hb, hm, w8]

/-! ## link -/

/-- What `link` reports of a port. -/
def State.linkKeys (s : State) (x : Nat) : List (List Byte) :=
  [nameN "x" x, kv "part" (s.ownerText x), kv "state" (s.shownLink x).text, kn "crc" (s.port x).crc,
    kn "replay" (s.port x).replays]

theorem exec_linkReport {ox : Option PortNo} (ht : s.takes 8 (.linkReport l ox) = true) (hr : s.isReady = true) :
    exec (.linkReport l ox) s =
      .next (s.replies 8 l ((ox.elim [0, 1, 2, 3, 4, 5, 6, 7] fun x => [x.val]).map s.linkKeys) []) := by
  have hexec : exec (.linkReport l ox) s = .next (verbLinkReport l ox s) := congrArg _ (atLine_takes s 8 _ _ ht)
  rw [hexec]
  unfold verbLinkReport
  rw [hr]
  cases ox <;> rfl

theorem exec_linkOpDown {x : PortNo} (ht : s.takes 8 (.linkOpDown l x) = true) (ho : s.linkOpOk x = true) :
    exec (.linkOpDown l x) s = .next ((s.opDown x true).ok 8 l) := by
  have hexec : exec (.linkOpDown l x) s = .next (verbLinkOpDown l x s) := congrArg _ (atLine_takes s 8 _ _ ht)
  rw [hexec, verbLinkOpDown, ho]
  rfl

theorem exec_linkOpUp {x : PortNo} (ht : s.takes 8 (.linkOpUp l x) = true) (ho : s.linkOpOk x = true) :
    exec (.linkOpUp l x) s = .next ((if (s.port x).hold then s.train x else s).ok 8 l) := by
  have hexec : exec (.linkOpUp l x) s = .next (verbLinkOpUp l x s) := congrArg _ (atLine_takes s 8 _ _ ht)
  rw [hexec, verbLinkOpUp, ho]
  rfl

theorem exec_linkOpRetrain {x : PortNo} (ht : s.takes 8 (.linkOpRetrain l x) = true) (ho : s.linkOpOk x = true) :
    exec (.linkOpRetrain l x) s = .next (((s.opDown x false).train x).ok 8 l) := by
  have hexec : exec (.linkOpRetrain l x) s = .next (verbLinkOpRetrain l x s) := congrArg _ (atLine_takes s 8 _ _ ht)
  rw [hexec, verbLinkOpRetrain, ho]
  rfl

/-! ## link rack, route and group -/

theorem exec_linkRack {n : Option Nat} (hr : s.isReady = true) (ht : s.takes 8 (.linkRack l n) = true)
    (hn : ∀ r, n = some r → r ≤ 63)
    (hq : ∀ q ∈ s.parts, q.state ≠ 3 ∧ q.rally.group = none ∧ (∀ r, q.pendR = some r → r.group = none)) :
    exec (.linkRack l n) s = .next ((s.updDev fun d => { d with rack := n }).ok 8 l [kv "rack" (rackText n)]) := by
  have hexec : exec (.linkRack l n) s = .next (verbLinkRack l n s) := congrArg _ (atLine_takes s 8 _ _ ht)
  have hnone : s.parts.any (fun q => q.state == 3 || q.rally.group.isSome ||
      (match q.pendR with | some r => r.group.isSome | none => false)) = false := by
    refine List.any_eq_false.mpr fun q hm => ?_
    obtain ⟨h3, hg, hp⟩ := hq q hm
    cases hpr : q.pendR with
    | none => simp [h3, hg]
    | some r => simp [h3, hg, hp r hpr]
  have hrange : n.any (fun r => decide (r > 63)) = false := by
    cases n with
    | none => rfl
    | some r => simpa using hn r rfl
  rw [hexec]
  unfold verbLinkRack
  extract_lets bad
  have hbad : s.parts.any bad = false := hnone
  rw [hr, hbad, hrange]
  rfl

theorem exec_route {p : Part} {dst : Nat} {x : Option PortNo} (hr : s.isReady = true) (hf : (s.part p).stat ≠ .free)
    (ht : s.takes 8 (.route l p dst x) = true) (hd : dst ≤ 63) :
    exec (.route l p dst x) s = .next (
      if x.any fun x => !(s.part p).courts.contains x.val then s.no 8 l "port"
      else (s.updPart p fun q =>
        { q with stageR := { q.stageR with routes := spSet none q.stageR.routes dst (x.map (·.val)) } }).ok 8 l) := by
  have hexec : exec (.route l p dst x) s = .next (verbRoute l p dst x s) := congrArg _ (atLine_takes s 8 _ _ ht)
  have hd' : ¬dst > 63 := Nat.not_lt.mpr hd
  rw [hexec, verbRoute]
  simp only [hr, hf, hd', if_false, beq_iff_eq, Bool.not_true, Bool.false_or, w8]

theorem groupMembers_of_expand {ms : List (Nat × Nat)} {list : List Nat} (he : expandRanges ms = some list)
    (hn : list.Nodup) (h2 : 2 ≤ list.length) : groupMembers ms = some list := by
  simp [groupMembers, he, length_eraseDups_eq_iff.mpr hn, h2]

theorem exec_group_none {p : Part} (hr : s.isReady = true) (hf : (s.part p).stat ≠ .free)
    (ht : s.takes 8 (.group l p none none none) = true) :
    exec (.group l p none none none) s = .next ((s.updPart p fun q =>
      { q with stageR := { q.stageR with group := none }, touched := true }).ok 8 l) := by
  have hexec : exec (.group l p none none none) s = .next (verbGroup l p none none none s) :=
    congrArg _ (atLine_takes s 8 _ _ ht)
  rw [hexec]
  simp [verbGroup, hr, hf, w8]

theorem exec_group_some {p : Part} {id rto : Nat} {ms : List (Nat × Nat)} {list : List Nat} (hr : s.isReady = true)
    (hf : (s.part p).stat ≠ .free) (ht : s.takes 8 (.group l p (some id) (some ms) (some rto)) = true)
    (hid : 1 ≤ id ∧ id ≤ 65535) (hrto : 10 ≤ rto ∧ rto ≤ 1000000) (hm : groupMembers ms = some list) :
    exec (.group l p (some id) (some ms) (some rto)) s = .next ((s.updPart p fun q =>
      { q with stageR := { q.stageR with group := some { id := id, members := list, rto := rto } }
               touched := true }).ok 8 l) := by
  have hexec : exec (.group l p (some id) (some ms) (some rto)) s =
      .next (verbGroup l p (some id) (some ms) (some rto) s) := congrArg _ (atLine_takes s 8 _ _ ht)
  rw [hexec]
  simp [verbGroup, hr, hf, hid, hrto, hm, w8]

end

/-- Settles O13: each line has its verb's effect; a port that goes down keeps all others (`opDown_keepsOthers`), one that
trains changes itself alone. -/
theorem clockLinksAndRallySettings : Obligations.ClockLinksAndRallySettings := by
  refine ⟨fun s l p mhz => ⟨exec_clock, exec_relockDone⟩, fun s l x ox hs => ⟨fun ht hr => ?_, fun ho => ?_⟩,
    fun s l p n dst id rto ms list x hr => ⟨exec_linkRack hr, fun hf => ⟨?_, ?_, ?_, ?_, ?_⟩⟩⟩
  · rw [exec_linkReport ht hr]
    cases ox <;> rfl
  · intro trains others
    have hx : x.val < 8 := x.isLt
    refine ⟨fun ht => ?_, fun ht hh => ?_, fun ht hh => ?_, fun ht => ?_⟩
    · have hport : (((s.opDown x true).ok 8 l).port x) =
          { (s.port x).restarted with egress := [], st := .down, hold := true, retry := false } := by
        rw [ok_w8_sameButTalk.port, opDown_port hs hx]
      refine ⟨_, exec_linkOpDown ht ho, ?_, ?_, ?_, ?_, ok_keepsOthers opDown_keepsOthers⟩
      · rw [hport]
      · rw [hport]
      · rw [hport]
        rfl
      · rw [hport]
    · obtain ⟨hst, hhold, hegress⟩ := train_port hs hx
      refine ⟨(s.train x).ok 8 l, ?_, ?_, ?_, ?_, fun y hy => ?_, ?_⟩
      · rw [exec_linkOpUp ht ho, if_pos hh]
      · rw [ok_w8_sameButTalk.port, hst]
      · rw [ok_w8_sameButTalk.port, hhold]
      · rw [ok_w8_sameButTalk.port, hegress]
      · rw [ok_w8_sameButTalk.port, port_train_ne hy.symm]
      · rw [ok_w8_sameButTalk.parts, train_parts]
    · rw [exec_linkOpUp ht ho, if_neg (by simp [hh])]
    · obtain ⟨hst, hhold, hegress⟩ := train_port (opDown_sized (x := x) (hold := false) hs) hx
      rw [opDown_port hs hx] at hegress
      rw [opDown_extest] at hst
      refine ⟨_, exec_linkOpRetrain ht ho, ?_, ?_, ?_, ok_keepsOthers (train_keepsOthers opDown_keepsOthers)⟩
      · rw [ok_w8_sameButTalk.port, hst]
      · rw [ok_w8_sameButTalk.port, hhold]
      · rw [ok_w8_sameButTalk.port, hegress]
  · intro ht hd hc
    rw [exec_route hr hf ht hd, if_neg (by simpa using hc)]
    rfl
  · intro ht hd
    exact exec_route hr hf ht hd
  · intro ht hd hc
    rw [exec_route hr hf ht hd, if_pos (by simpa using hc)]
  · exact exec_group_none hr hf
  · intro ht hid hid' hrto hrto' he hn h2
    exact exec_group_some hr hf ht ⟨hid, hid'⟩ ⟨hrto, hrto'⟩ (groupMembers_of_expand he hn h2)

end Sys2Proof.Machine

namespace Sys2Proof.Machine

/-! # Rounding, widening and narrowing -/

/-! ## Rounding to a multiple of 2^d (R85) -/

section

variable {m d r : Nat}

theorem roundMag_rtz (hd : 0 < d) : roundMag .rtz m 0 d r = m / 2 ^ d := by
  simp [roundMag, hd.ne', Nat.shiftRight_eq_div_pow]

/-- RNE goes up above the half, and at the half from an odd multiple. -/
theorem roundMag_rne (hd : 0 < d) : roundMag .rne m 0 d r = m / 2 ^ d +
    if 2 ^ d < 2 * (m % 2 ^ d) ∨ 2 * (m % 2 ^ d) = 2 ^ d ∧ m / 2 ^ d % 2 = 1 then 1 else 0 := by
  have hhalf : 2 ^ d = 2 * 2 ^ (d - 1) := by rw [mul_comm, Nat.pow_pred_mul hd]
  have hup : m % 2 ^ d > 2 ^ (d - 1) ↔ 2 ^ d < 2 * (m % 2 ^ d) := by omega
  have htie : m % 2 ^ d = 2 ^ (d - 1) ↔ 2 * (m % 2 ^ d) = 2 ^ d := by omega
  simp [roundMag, hd.ne', Nat.shiftRight_eq_div_pow, hup, htie, apply_ite (m / 2 ^ d + ·)]

/-- RSTO adds the draw to the dropped bits, the upper 16 of more, and keeps the carry. -/
theorem roundMag_rsto (hd : 0 < d) : roundMag .rsto m 0 d r =
    (m / 2 ^ (d - min d 16) + r % 2 ^ min d 16) / 2 ^ min d 16 := by
  have hsplit : 2 ^ d = 2 ^ (d - min d 16) * 2 ^ min d 16 := by rw [← pow_add, Nat.sub_add_cancel (min_le_left d 16)]
  have hkeep : m / 2 ^ d = m / 2 ^ (d - min d 16) / 2 ^ min d 16 := by rw [Nat.div_div_eq_div_mul, ← hsplit]
  have hrem : m % 2 ^ d / 2 ^ (d - min d 16) = m / 2 ^ (d - min d 16) % 2 ^ min d 16 := by
    rw [hsplit, Nat.mod_mul_right_div_self]
  have hdraw : r % 2 ^ min d 16 / 2 ^ min d 16 = 0 := Nat.div_eq_of_lt (Nat.mod_lt _ (by positivity))
  rw [Nat.add_div (by positivity), Nat.mod_mod, hdraw, add_zero]
  simp [roundMag, hd.ne', Nat.shiftRight_eq_div_pow, hkeep, hrem,
    apply_ite (m / 2 ^ (d - min d 16) / 2 ^ min d 16 + ·)]

/-- The multiple that RNE gives is at most half a unit away. -/
theorem roundMag_rne_nearest (hd : 0 < d) :
    2 * m ≤ 2 * (roundMag .rne m 0 d r * 2 ^ d) + 2 ^ d ∧ 2 * (roundMag .rne m 0 d r * 2 ^ d) ≤ 2 * m + 2 ^ d := by
  have hm : m / 2 ^ d * 2 ^ d + m % 2 ^ d = m := Nat.div_add_mod' m (2 ^ d)
  have hlt : m % 2 ^ d < 2 ^ d := Nat.mod_lt _ (by positivity)
  rw [roundMag_rne hd, add_mul]
  split <;> omega

theorem roundMag_rne_even_of_tie (hd : 0 < d) (htie : 2 * (m % 2 ^ d) = 2 ^ d) : roundMag .rne m 0 d r % 2 = 0 := by
  rw [roundMag_rne hd]
  split <;> omega

end

/-! ## A magnitude that the destination holds is encoded as it is -/

section

variable {x : ACtx} {f : Fmt} {neg : Bool} {m n r : Nat} {e q : Int}

theorem topExp_shiftLeft (hm : m ≠ 0) : topExp (m <<< n) (e - n) = topExp m e := by
  have hlog : Nat.log2 (m <<< n) = Nat.log2 m + n := by
    rw [Nat.shiftLeft_eq, Nat.log2_eq_iff (Nat.mul_ne_zero hm (Nat.two_pow_pos n).ne'), add_right_comm, pow_add, pow_add]
    exact ⟨Nat.mul_le_mul_right _ (Nat.log2_self_le hm), Nat.mul_lt_mul_of_pos_right Nat.lt_log2_self (Nat.two_pow_pos n)⟩
  rw [topExp, topExp, hlog]
  omega

/-- Where the unit of the result lies `n` bits below that of the magnitude, nothing is rounded. -/
theorem finishRound_of_exact (hm : m ≠ 0) (hq : max (topExp m e) f.emin - f.p = e - n) (hmax : topExp m e ≤ f.emax)
    (hx : x.flush = false) : finishRound x f neg m e r = ⟨encodeMag f neg (m <<< n) (e - n), {}⟩ := by
  have hround : roundMag x.round m e (e - n) r = m <<< n := by
    rw [roundMag, if_pos (by omega), Int.sub_sub_self, Int.toNat_natCast]
  have hk : m <<< n ≠ 0 := by simpa [Nat.shiftLeft_eq] using hm
  simp only [finishRound, finishKeep, hq, hround, topExp_shiftLeft hm, if_neg hm, if_neg hk, if_neg (not_lt.mpr hmax),
    hx, Bool.false_and, Bool.false_eq_true, if_false]

theorem encodeMag_subnormal (hm : m ≠ 0) (ht : topExp m q < f.emin) (hq : q = f.emin - f.p) :
    encodeMag f neg m q = (if neg then f.signBit else 0) + m := by
  have hlt : (Nat.log2 m : Int) + q < f.emin := ht
  rw [encodeMag, if_neg hm]
  extract_lets s l ex
  rw [if_pos hlt, hq, Int.sub_self]
  rfl

theorem encodeMag_normal (hm : m ≠ 0) (hl : Nat.log2 m = f.p) (ht : f.emin ≤ topExp m q) :
    encodeMag f neg m q =
      (if neg then f.signBit else 0) + (topExp m q + f.bias).toNat * 2 ^ f.p + (m - 2 ^ f.p) := by
  have hle : ¬((f.p : Int) + q < f.emin) := by rw [← hl]; exact not_lt.mpr ht
  simp [encodeMag, topExp, hm, hl, hle, Nat.shiftLeft_eq]

end

/-! ## BF16 to FP32 (R55, R72) -/

section

variable {x : ACtx} {neg : Bool} {c fr ex r : Nat}

/-- A BF16 code is its sign, exponent and fraction (R54). -/
theorem bf16_fields (hc : c < 2 ^ 16) :
    c = (if bit c 15 then 2 ^ 15 else 0) + bits c 14 7 * 2 ^ 7 + c % 2 ^ 7 ∧ bits c 14 7 < 2 ^ 8 := by
  simp only [bit, bits, Nat.shiftRight_eq_div_pow, beq_iff_eq]
  split <;> omega

theorem decodeF_bf16 : decodeF .bf16 c =
    if bits c 14 7 = 255 then (if c % 2 ^ 7 = 0 then .inf (bit c 15) else .nan (bit c 15) ((c % 2 ^ 7) <<< 16))
    else if bits c 14 7 = 0 then .fin (bit c 15) (c % 2 ^ 7) (-133)
    else .fin (bit c 15) (2 ^ 7 + c % 2 ^ 7) ((bits c 14 7 : Int) - 127 - 7) := rfl

theorem finishRound_fp32_of_subnormal (hfr : fr < 2 ^ 7) (hx : x.flush = false) :
    finishRound x .fp32 neg fr (-133) r = ⟨(if neg then 2 ^ 31 else 0) + fr * 2 ^ 16, {}⟩ := by
  by_cases h0 : fr = 0
  · subst h0
    cases neg <;> rfl
  have hlog : Nat.log2 fr < 7 := (Nat.log2_lt h0).mpr hfr
  have htop : topExp fr (-133) < Fmt.fp32.emin := by
    simp only [topExp, Fmt.emin, Fmt.bias]; omega
  rw [finishRound_of_exact (n := 16) h0 (by rw [max_eq_right htop.le]; rfl) (htop.le.trans (by decide)) hx,
    encodeMag_subnormal (by simpa [Nat.shiftLeft_eq] using h0) ((topExp_shiftLeft h0).trans_lt htop) rfl, Nat.shiftLeft_eq]
  rfl

theorem finishRound_fp32_of_normal (hfr : fr < 2 ^ 7) (hex : 0 < ex) (hex' : ex < 255) (hx : x.flush = false) :
    finishRound x .fp32 neg (2 ^ 7 + fr) ((ex : Int) - 127 - 7) r =
      ⟨(if neg then 2 ^ 31 else 0) + ex * 2 ^ 23 + fr * 2 ^ 16, {}⟩ := by
  have h0 : 2 ^ 7 + fr ≠ 0 := by omega
  have hshift : (2 ^ 7 + fr) <<< 16 = 2 ^ 23 + fr * 2 ^ 16 := by rw [Nat.shiftLeft_eq]; omega
  have hlog : Nat.log2 (2 ^ 7 + fr) = 7 := (Nat.log2_eq_iff h0).mpr (by omega)
  have hlog' : Nat.log2 ((2 ^ 7 + fr) <<< 16) = 23 := (Nat.log2_eq_iff (by omega)).mpr (by omega)
  have htop : topExp (2 ^ 7 + fr) ((ex : Int) - 127 - 7) = ex - 127 := by rw [topExp, hlog]; omega
  have htop' := (topExp_shiftLeft (n := 16) h0).trans htop
  have hmin : Fmt.fp32.emin ≤ (ex : Int) - 127 := by simp only [Fmt.emin, Fmt.bias]; omega
  have hmax : (ex : Int) - 127 ≤ Fmt.fp32.emax := by simp only [Fmt.emax]; omega
  have hq : max (topExp (2 ^ 7 + fr) ((ex : Int) - 127 - 7)) Fmt.fp32.emin - Fmt.fp32.p =
      (ex : Int) - 127 - 7 - (16 : Nat) := by
    rw [htop, max_eq_left hmin]
    simp only [Fmt.p]; omega
  have hbiased : ((ex : Int) - 127 + Fmt.fp32.bias).toNat = ex := by simp only [Fmt.bias]; omega
  have hfrac : (2 ^ 7 + fr) <<< 16 - 2 ^ Fmt.fp32.p = fr * 2 ^ 16 := by 
    rw [hshift, Fmt.p, Nat.add_sub_cancel_left]
  rw [finishRound_of_exact h0 hq (htop.le.trans hmax) hx, encodeMag_normal (by omega) hlog' (hmin.trans htop'.ge), htop',
    hbiased, hfrac]
  rfl

/-- BF16 widens by 16 zero bits: at the edges of its exponent to an infinity or a subnormal, else to a normal value. -/
theorem convFV_bf16_fp32 (hc : c < 2 ^ 16) (hn : (decodeF .bf16 c).isNan = false) (hx : x.flush = false) :
    convFV x .fp32 (decodeF .bf16 c) r = ⟨c * 2 ^ 16, {}⟩ := by
  obtain ⟨hfields, hlt⟩ := bf16_fields hc
  have hfr : c % 2 ^ 7 < 2 ^ 7 := Nat.mod_lt _ (by decide)
  have hwide : c * 2 ^ 16 = (if bit c 15 then 2 ^ 31 else 0) + bits c 14 7 * 2 ^ 23 + c % 2 ^ 7 * 2 ^ 16 := by
    nth_rw 1 [hfields]
    rw [add_mul, add_mul, ite_mul, Nat.zero_mul, Nat.mul_assoc, ← pow_add, ← pow_add]
  rw [hwide, decodeF_bf16]
  rw [decodeF_bf16] at hn
  by_cases hmax : bits c 14 7 = 255
  · rw [if_pos hmax] at hn ⊢
    by_cases h0 : c % 2 ^ 7 = 0
    · rw [if_pos h0, hmax, h0]
      cases bit c 15 <;> rfl
    · rw [if_neg h0] at hn
      cases hn
  rw [if_neg hmax]
  by_cases hmin : bits c 14 7 = 0
  · rw [if_pos hmin, hmin, Nat.zero_mul, Nat.add_zero]
    exact finishRound_fp32_of_subnormal hfr hx
  · rw [if_neg hmin]
    exact finishRound_fp32_of_normal hfr (Nat.pos_of_ne_zero hmin) (by omega) hx

theorem ACtx.eff_strict : x.eff.strict = x.strict := by
  unfold ACtx.eff
  split <;> rfl

theorem convert_bf16_fp32_of_strict (hx : x.strict = true) : convert x .bf16 .fp32 c r = ⟨c * 2 ^ 16, {}⟩ := by
  simp [convert, ACtx.eff_strict, hx, Fmt.isInt]

theorem convert_bf16_fp32_of_fast (hx : x.strict = false) :
    convert x .bf16 .fp32 c r = convFV { x.eff with flush := false, round := .rne } .fp32 (decodeF .bf16 c) 0 := by
  simp [convert, ACtx.eff_strict, hx, Fmt.isInt, exactConv]

theorem convFV_of_isNan {f : Fmt} {v : FV} (hx : x.strict = false) (hv : v.isNan = true) :
    convFV x f v r = ⟨f.nanCode, {}⟩ := by
  cases v with
  | nan neg frac => simp [convFV, nanRes, hx]
  | made => rfl
  | inf neg => cases hv
  | fin neg m e => cases hv

end

/-! ## Integers (R56, R115) -/

section

variable {x : ACtx} {f : Fmt} {v : Int}

/-- The two's complement reading of the low bits of `v` is the residue of `v` nearest to zero. -/
theorem signed_toCode (w : Nat) : signed w (toCode w v) = v.bmod (2 ^ w) := by
  have hpos : (0 : Int) < 2 ^ w := by positivity
  have hlt : v % 2 ^ w < 2 ^ w := Int.emod_lt_of_pos v hpos
  have hcode : ((toCode w v % 2 ^ w : Nat) : Int) = v % 2 ^ w := by
    rw [Int.natCast_emod, toCode, Int.toNat_of_nonneg (Int.emod_nonneg v hpos.ne')]
    simp
  have hhalf : 2 * (toCode w v % 2 ^ w) < 2 ^ w ↔ 2 * (v % 2 ^ w) < 2 ^ w := by
    rw [← hcode]
    norm_cast
  rw [signed, Int.bmod_def]
  simp only [hhalf, hcode]
  push_cast
  split <;> split <;> omega

theorem two_pow_width (f : Fmt) : (2 : Int) ^ f.width = 2 * 2 ^ (f.width - 1) := by
  cases f <;> rfl

theorem signed_toCode_of_mem (hmin : f.imin ≤ v) (hmax : v ≤ f.imax) : signed f.width (toCode f.width v) = v := by
  have hw := two_pow_width f
  rw [Fmt.imin] at hmin
  rw [Fmt.imax] at hmax
  rw [signed_toCode]
  apply Int.bmod_eq_of_le_mul_two <;> push_cast <;> omega

theorem imin_le_imax (f : Fmt) : f.imin ≤ f.imax := by
  cases f <;> decide

theorem clampInt_spec : signed f.width (clampInt f v).code = max f.imin (min f.imax v) ∧
    ((clampInt f v).cnt.sat = true ↔ v < f.imin ∨ f.imax < v) := by
  have hle := imin_le_imax f
  unfold clampInt
  split
  case isTrue habove => exact ⟨by rw [signed_toCode_of_mem hle le_rfl]; omega, by simp [habove]⟩
  case isFalse habove =>
    split
    case isTrue hbelow => exact ⟨by rw [signed_toCode_of_mem le_rfl hle]; omega, by simp [hbelow]⟩
    case isFalse hbelow =>
      exact ⟨by rw [signed_toCode_of_mem (by omega) (by omega)]; omega, by simpa [not_lt] using ⟨by omega, by omega⟩⟩

end

/-- Settles O43: the three roundings from what each gives, BF16 by the fields of its code, integers by their residue nearest
to zero. -/
theorem arithmeticRules : Obligations.ArithmeticRules := by
  refine ⟨fun m d r hd => ?_, fun x f c r => ?_, fun x c r hc => ⟨fun h => ?_, fun hn hs => ?_⟩,
    fun x f v _ => ⟨fun hs => ?_, fun hs => ?_⟩⟩
  · obtain ⟨hbelow, habove⟩ := roundMag_rne_nearest (m := m) (r := r) hd
    refine ⟨hbelow, habove, roundMag_rne_even_of_tie hd, roundMag_rtz hd, fun h16 => ?_, fun h16 => ?_⟩
    · rw [roundMag_rsto hd, min_eq_left h16, Nat.sub_self, pow_zero, Nat.div_one]
    · rw [roundMag_rsto hd, min_eq_right h16.le]
  · exact if_pos rfl
  · cases hs : x.strict with
    | true => exact convert_bf16_fp32_of_strict hs
    | false =>
      have hn : (decodeF .bf16 c).isNan = false := h.resolve_right (by simp [hs])
      rw [convert_bf16_fp32_of_fast hs]
      exact convFV_bf16_fp32 hc hn rfl
  · rw [convert_bf16_fp32_of_fast hs]
    exact convFV_of_isNan (ACtx.eff_strict.trans hs) hn
  · rw [narrowInt, if_pos hs]
    exact clampInt_spec
  · rw [narrowInt, if_neg (by simp [hs]), signed_toCode]
    exact ⟨Int.emod_eq_zero_of_dvd (by exact_mod_cast Int.dvd_bmod_sub_self), rfl⟩

end Sys2Proof.Machine

namespace Sys2Proof.Machine

/-! # The issue of an engine operation whose data has moved

An engine operation moves its data and then issues. `State.Moved` says what moving data may change; an issue after it is an
issue of the state before it (`Issued.of_moved`), and what a write of operands leaves is `wrArg_wrote`. -/

section

variable {s t u v : State} {h : Head} {g st p : Nat} {w : Waits}

/-! ## What moving data may change -/

/-- `v` is `u` but for memories and what was kept of them, the tally sets of cluster g and the draws of its stream st. -/
structure State.Moved (v u : State) (g st : Nat) : Prop where
  own : v.clu g = { u.clu g with streams := (v.clu g).streams, tally := (v.clu g).tally, sp := (v.clu g).sp }
  str : v.str g st = { u.str g st with draws := (v.str g st).draws }
  strNe : ∀ j, j ≠ st → v.str g j = u.str g j
  cluNe : ∀ c, c ≠ g → v.clu c = { u.clu c with sp := (v.clu c).sp }
  rest : { v with
    cl := u.cl, dram := u.dram, poison := u.poison, chans := u.chans, free := u.free, undo := u.undo } = u

theorem State.Moved.refl : u.Moved u g st := ⟨rfl, rfl, fun _ _ => rfl, fun _ _ => rfl, rfl⟩

theorem State.Moved.trans (hv : v.Moved u g st) (ht : t.Moved v g st) : t.Moved u g st where
  own := by rw [ht.own, hv.own]
  str := by rw [ht.str, hv.str]
  strNe j hj := (ht.strNe j hj).trans (hv.strNe j hj)
  cluNe c hc := by rw [ht.cluNe c hc, hv.cluNe c hc]
  rest := (congrArg (fun x : State => { x with
    cl := u.cl, dram := u.dram, poison := u.poison, chans := u.chans, free := u.free, undo := u.undo }) ht.rest).trans hv.rest

theorem State.Moved.parts (hv : v.Moved u g st) : v.parts = u.parts := by
  have h := congrArg State.parts hv.rest
  exact h

theorem State.Moved.part (hv : v.Moved u g st) (r : Nat) : v.part r = u.part r := by
  rw [State.part, hv.parts, State.part]

/-- A change of the clusters' scratchpads, memory and its marks moves data. -/
theorem State.Moved.of_memories (hc : ∀ c, v.clu c = { u.clu c with sp := (v.clu c).sp })
    (hr : { v with
      cl := u.cl, dram := u.dram, poison := u.poison, chans := u.chans, free := u.free, undo := u.undo } = u) :
    v.Moved u g st where
  own := by rw [hc g]
  str := by rw [State.str, hc g]; rfl
  strNe j _ := by rw [State.str, hc g]; rfl
  cluNe c _ := hc c
  rest := hr

theorem fresh_moved : u.fresh.Moved u g st := .of_memories (fun _ => rfl) rfl

theorem wrDa_clu {cells : List Host.Cell} {c : Nat} : (u.wrDa cells).clu c = u.clu c := by rw [wrDa_frame]; rfl

/-- An update of a cluster, whichever it is. -/
theorem clu_updClu {j c : Nat} {f : Cluster → Cluster} (hf : ∀ k : Cluster, { k with sp := (f k).sp } = f k) :
    (u.updClu j f).clu c = { u.clu c with sp := ((u.updClu j f).clu c).sp } := by
  by_cases hj : j = c
  · subst hj
    by_cases hlt : j < u.cl.length
    · rw [clu_updClu_same u j f hlt, hf]
    · have hout : (u.updClu j f).clu j = u.clu j := by
        simp [State.clu, tget, State.updClu, List.getD_eq_getElem?_getD, not_lt.mp hlt]
      rw [hout]
  · rw [clu_updClu_ne u j c f hj]

/-- A write of an operand changes a cluster in its scratchpad at most. -/
theorem wrArg_clu {q k c : Nat} {a : Arg} {cells : List Host.Cell} :
    (u.wrArg q k a cells).clu c = { u.clu c with sp := ((u.wrArg q k a cells).clu c).sp } := by
  unfold State.wrArg
  split
  · rw [State.wrPa, wrDa_clu]
  · exact clu_updClu (u := u.land _ _) fun _ => rfl

theorem wrArg_moved {q k : Nat} {a : Arg} {cells : List Host.Cell} : (u.wrArg q k a cells).Moved u g st := by
  refine .of_memories (fun c => wrArg_clu) ?_
  unfold State.wrArg
  split
  · rw [State.wrPa, wrDa_frame]
  · rfl

theorem wrSettled_clu {q k c : Nat} {a : Arg} {cells : List Host.Cell} :
    (u.wrSettled q k a cells).clu c = { u.clu c with sp := ((u.wrSettled q k a cells).clu c).sp } := by
  unfold State.wrSettled
  dsimp only
  split
  · exact wrArg_clu
  · exact wrArg_clu

theorem wrSettled_moved {q k : Nat} {a : Arg} {cells : List Host.Cell} : (u.wrSettled q k a cells).Moved u g st := by
  unfold State.wrSettled
  dsimp only
  split
  · exact wrArg_moved
  · exact wrArg_moved.trans fresh_moved

theorem clu_count {set : Nat} {cs : List Cnt} (hg : g < u.cl.length) :
    (u.count g set cs).clu g = { u.clu g with tally := (u.clu g).tally.modify set (·.add cs) } := clu_updClu_same u g _ hg

theorem count_moved {set : Nat} {cs : List Cnt} (hg : g < u.cl.length) : (u.count g set cs).Moved u g st where
  own := by rw [clu_count hg]
  str := by rw [State.str, clu_count hg]; rfl
  strNe j _ := by rw [State.str, clu_count hg]; rfl
  cluNe c hc := by rw [State.count, clu_updClu_ne u g c _ (Ne.symm hc)]
  rest := rfl

/-- Draws move on the stream they are drawn from. -/
theorem draws_moved {n W : Nat} {c : Bool} (hg : g < u.cl.length) (hst : st < (u.clu g).streams.length) :
    (u.draws p g st W n c).2.Moved u g st := by
  unfold State.draws
  split
  · split
    next r _ hc =>
      have hclu (f : StreamSt → StreamSt) : (u.updStr g st f).clu g = (u.clu g).updStr st f := clu_updClu_same u g _ hg
      exact {
        own := by dsimp only; rw [hclu]; rfl
        str := by dsimp only; rw [str_updStr_same u g st _ hg hst]
        strNe := fun j hj => by
          dsimp only
          rw [State.str, hclu]
          exact tget_modify_ne _ _ _ _ _ hj.symm
        cluNe := fun j hj => by dsimp only; rw [clu_updStr_ne u g j st _ hj.symm]
        rest := rfl }
    · exact .refl
  · exact .refl

theorem draws_tally {n W : Nat} {c : Bool} (hg : g < u.cl.length) :
    ((u.draws p g st W n c).2.clu g).tally = (u.clu g).tally := by
  unfold State.draws
  split
  · split
    · dsimp only
      rw [State.updStr, clu_updClu_same u g _ hg]
      rfl
    · rfl
  · rfl

theorem draws_free {n W : Nat} {c : Bool} : (u.draws p g st W n c).2.free = u.free := by
  unfold State.draws
  split
  · split <;> rfl
  · rfl

/-! ## The issue -/

/-- A loop that ends or repeats moves the stream, its loop counters and its loops. -/
theorem loopNext_frame (n : Nat) (x : StreamSt) (pc : Nat) :
    loopNext n x pc = { x with pc := (loopNext n x pc).pc, l := (loopNext n x pc).l, loops := (loopNext n x pc).loops } := by
  induction n generalizing x with
  | zero => rfl
  | succ n ih =>
    unfold loopNext
    split
    · dsimp only
      split
      · split
        · rw [ih]
        · rfl
      · rfl
    · rfl

theorem unqueue_frame (x : StreamSt) (op : Op) : x.unqueue op = { x with fetch := (x.unqueue op).fetch } := by
  unfold StreamSt.unqueue
  dsimp only
  split <;> rfl

theorem fetch_clu_ne {c : Nat} (hc : c ≠ g) : (s.fetch g st).clu c = s.clu c := clu_updStr_ne s g c st _ hc.symm

theorem clu_updStr_same {f : StreamSt → StreamSt} (hg : g < s.cl.length) :
    (s.updStr g st f).clu g = (s.clu g).updStr st f := clu_updClu_same s g _ hg

/-- The signal of a SYNC and steps and breaks touch no cluster. -/
theorem issueWith_clu {adv : StreamSt → StreamSt} {c : Nat} :
    (issueWith s h g st w adv).clu c =
      (((s.updClu g fun k => k.issueLw h st).updStr g st fun x => (adv (x.issueLw h w)).unqueue h.op).fetch g st).clu c := by
  unfold issueWith
  dsimp only
  rw [issueStop_frame]
  split
  · rw [signal_frame]; rfl
  · rfl

theorem issueWith_clu_ne {adv : StreamSt → StreamSt} {c : Nat} (hc : c ≠ g) :
    (issueWith s h g st w adv).clu c = s.clu c := by
  rw [issueWith_clu, fetch_clu_ne hc, clu_updStr_ne _ g c st _ hc.symm, clu_updClu_ne s g c _ hc.symm]

theorem updStr_cl_length {f : StreamSt → StreamSt} : (s.updStr g st f).cl.length = s.cl.length := List.length_modify ..

/-- The cluster of an issue: its issue events, then its stream moves on. -/
theorem issueWith_clu_updStr {adv : StreamSt → StreamSt} (hg : g < s.cl.length) :
    ∃ f f', (issueWith s h g st w adv).clu g = (((s.clu g).issueLw h st).updStr st f).updStr st f' := by
  have hlen : g < (s.updClu g fun k => k.issueLw h st).cl.length := by simpa [State.updClu] using hg
  rw [issueWith_clu, State.fetch, clu_updStr_same (by rwa [updStr_cl_length]), clu_updStr_same hlen,
    clu_updClu_same s g _ hg]
  exact ⟨_, _, rfl⟩

/-- The cluster of an issue, its streams apart. -/
theorem issueWith_clu_own {adv : StreamSt → StreamSt} (hg : g < s.cl.length) :
    (issueWith s h g st w adv).clu g =
      { (s.clu g).issueLw h st with streams := ((issueWith s h g st w adv).clu g).streams } := by
  obtain ⟨f, f', hk⟩ := issueWith_clu_updStr (h := h) (w := w) (adv := adv) (st := st) hg
  rw [hk]
  rfl

theorem issueWith_str_ne {adv : StreamSt → StreamSt} {j : Nat} (hg : g < s.cl.length) (hj : j ≠ st) :
    (issueWith s h g st w adv).str g j = s.str g j := by
  obtain ⟨f, f', hk⟩ := issueWith_clu_updStr (h := h) (w := w) (adv := adv) (st := st) hg
  rw [State.str, hk]
  exact (tget_modify_ne _ _ _ _ _ hj.symm).trans (tget_modify_ne _ _ _ _ _ hj.symm)

/-- The stream of an issue: its long word is in flight, and what follows moves the issue and the fetch point. -/
theorem issueCommon_str (hg : g < s.cl.length) (hst : st < (s.clu g).streams.length) :
    let x := (issueCommon s h g st w).str g st
    x = { (s.str g st).issueLw h w with pc := x.pc, l := x.l, loops := x.loops, fetch := x.fetch } := by
  intro x
  have hk : (s.updClu g fun k => k.issueLw h st).clu g = (s.clu g).issueLw h st := clu_updClu_same s g _ hg
  have hlen : g < (s.updClu g fun k => k.issueLw h st).cl.length := by simpa [State.updClu] using hg
  have hst' : st < ((s.updClu g fun k => k.issueLw h st).clu g).streams.length := by
    rw [hk]
    exact hst
  have hstr : (s.updClu g fun k => k.issueLw h st).str g st = s.str g st := by
    rw [State.str, hk]
    rfl
  have hx : x = { (((s.str g st).issueLw h w).advance h.lw.len).unqueue h.op with fetch := x.fetch } := by
    unfold x
    rw [State.str, issueCommon, issueWith_clu, ← State.str, State.fetch,
      str_updStr_same _ g st _ (by rwa [updStr_cl_length])
        (by rw [clu_updStr_same hlen]; exact hst'.trans_eq (List.length_modify ..).symm),
      str_updStr_same _ g st _ hlen hst', hstr]
    split <;> rfl
  rw [hx, unqueue_frame, StreamSt.advance, loopNext_frame]

theorem issueCommon_draws (hg : g < s.cl.length) (hst : st < (s.clu g).streams.length) :
    ((issueCommon s h g st w).str g st).draws = (s.str g st).draws := by
  rw [issueCommon_str hg hst]
  rfl

theorem issueCommon_tally (hg : g < s.cl.length) : ((issueCommon s h g st w).clu g).tally = (s.clu g).tally := by
  rw [issueCommon, issueWith_clu_own hg]
  rfl

theorem part_updPart {q r : Nat} {f : Partition → Partition}
    (hf : ∀ x : Partition, { x with run := (f x).run, breaks := (f x).breaks } = f x) :
    (s.updPart q f).part r =
      { s.part r with run := ((s.updPart q f).part r).run, breaks := ((s.updPart q f).part r).breaks } := by
  by_cases hq : q = r
  · subst hq
    by_cases hlt : q < s.parts.length
    · rw [part_updPart_same s q f hlt, hf]
    · have hout : (s.updPart q f).part q = s.part q := by
        simp [State.part, tget, State.updPart, List.getD_eq_getElem?_getD, not_lt.mp hlt]
      rw [hout]
  · rw [part_updPart_ne s q r f hq]

theorem issueStop_part {n r : Nat} : (s.issueStop h st n).part r =
    { s.part r with run := ((s.issueStop h st n).part r).run, breaks := ((s.issueStop h st n).part r).breaks } := by
  unfold State.issueStop
  dsimp only
  split
  · rw [State.trigger, part_updPart fun _ => rfl, part_updPart fun _ => rfl]
  · split
    · exact part_updPart fun _ => rfl
    · rfl

theorem issueStop_part_ne {n r : Nat} (hr : r ≠ h.p) : (s.issueStop h st n).part r = s.part r := by
  unfold State.issueStop
  dsimp only
  split
  · rw [State.trigger, part_updPart_ne _ _ _ _ hr.symm, part_updPart_ne _ _ _ _ hr.symm]
  · split
    · exact part_updPart_ne _ _ _ _ hr.symm
    · rfl

/-- Every operation but SYNC leaves its signal to its completion: its issue steps or breaks what it has not changed. -/
theorem issueWith_of_not_sync {adv : StreamSt → StreamSt} (hop : h.op ≠ .sync) :
    ∃ v : State, issueWith s h g st w adv = v.issueStop h st ((s.str g st).issued + 1) ∧ v.parts = s.parts := by
  unfold issueWith
  dsimp only
  rw [if_neg hop]
  exact ⟨_, rfl, rfl⟩

theorem issueCommon_issued (hop : h.op ≠ .sync) (hg : g < s.cl.length) (hst : st < (s.clu g).streams.length) :
    (issueCommon s h g st w).Issued s h g st w := by
  have hclu := issueWith_clu_own (h := h) (w := w) (adv := fun x => x.advance h.lw.len) (st := st) hg
  have hstr := issueCommon_str (h := h) (w := w) hg hst
  obtain ⟨v, hstop, hparts⟩ :=
    issueWith_of_not_sync (s := s) (g := g) (st := st) (w := w) (adv := fun x => x.advance h.lw.len) hop
  have hpart (r : Nat) : v.part r = s.part r := by rw [State.part, hparts, State.part]
  rw [← issueCommon] at hclu hstop
  refine ⟨by rw [hstr]; rfl, by rw [hstr]; rfl, by rw [hstr]; rfl, fun j hj => issueWith_str_ne hg hj, by rw [hclu]; rfl,
    by rw [hclu]; rfl, by rw [hclu]; rfl, by rw [hclu]; rfl, by rw [hclu]; rfl, fun c hc => ?_, ?_, fun r hr => ?_, ?_⟩
  · rw [issueCommon, issueWith_clu_ne hc]
  · rw [hstop, ← hpart]
    exact issueStop_part
  · rw [hstop, ← hpart]
    exact issueStop_part_ne hr
  · rw [issueCommon, issueWith_frame]

theorem State.Issued.of_moved (ht : t.Issued v h g st w) (hv : v.Moved u g st) : t.Issued u h g st w := by
  obtain ⟨hissued, hflight, ha, hne, hreg, htok, hw, hq, hic, hcl, hpart, hparts, hrest⟩ := ht
  have hreg' (k : Cluster) (us : List (Nat × RUse)) : (k.regionIssue us).regions =
    us.foldl (fun m u => spSet {} m u.1 (u.2.issue (spGet {} m u.1))) k.regions := rfl
  refine ⟨by rw [hissued, hv.str], by rw [hflight, hv.str]; rfl, by rw [ha, hv.str], fun j hj => (hne j hj).trans (hv.strNe j hj),
    by rw [hreg, hv.own]; rfl, by rw [htok, hv.own], by rw [hw, hv.own], by rw [hq, hv.own], by rw [hic, hv.own],
    fun c hc => by rw [hcl c hc, hv.cluNe c hc], by rw [hpart, hv.part], fun r hr => (hparts r hr).trans (hv.part r), ?_⟩
  exact (congrArg (fun x : State => { x with
    cl := u.cl, parts := u.parts, dram := u.dram, poison := u.poison, chans := u.chans, free := u.free, undo := u.undo })
    hrest).trans (congrArg (fun x : State => { x with parts := u.parts }) hv.rest)

theorem State.Issued.remember {ws : List ArgWr} {q : Nat} (ht : t.Issued u h g st w) :
    (t.remember s q g st ws).Issued u h g st w := by
  rw [remember_frame]
  exact ht

/-! ## What a write of operands leaves -/

variable {ws : List (Arg × List Host.Cell)} {a b : Arg} {cells : List Host.Cell}

/-- Of two lists of writes, the second is the later one. -/
theorem lastAt_append {x : Nat} {cs ds : List Host.Cell} : lastAt (cs ++ ds) x = (lastAt ds x).or (lastAt cs x) := by
  simp only [lastAt, List.reverse_append, List.find?_append]
  cases ds.reverse.find? fun c => c.1 == x <;> rfl

theorem clu_mems {c : Nat} : (s.clu c).mems = tget (({} : Cluster).mems) s.mems.clusters c := by
  simp only [State.clu, tget, State.mems, List.getD_eq_getElem?_getD, List.getElem?_map]
  cases s.cl[c]? <;> rfl

theorem dram_of_mems (hm : t.mems = v.mems) : t.dram = v.dram := congrArg Mems.dram hm

theorem poison_of_mems (hm : t.mems = v.mems) : t.poison = v.poison := congrArg Mems.poison hm

theorem clu_sp_of_mems (hm : t.mems = v.mems) (c : Nat) : (t.clu c).sp = (v.clu c).sp := by
  have hc : (t.clu c).mems = (v.clu c).mems := by rw [clu_mems, clu_mems, hm]
  exact congrArg Prod.fst hc

theorem clu_vr_of_mems (hm : t.mems = v.mems) (c : Nat) : (t.clu c).vr = (v.clu c).vr := by
  have hc : (t.clu c).mems = (v.clu c).mems := by rw [clu_mems, clu_mems, hm]
  exact congrArg Prod.snd hc

/-- What was written lies in the memories alone. -/
theorem State.Wrote.of_mems (hv : v.Wrote u p g ws) (hm : t.mems = v.mems) : t.Wrote u p g ws := by
  obtain ⟨hd, hc, hs, hr⟩ := hv
  refine ⟨fun x => ?_, fun l => ?_, fun c hlt x => ?_, fun c => (clu_vr_of_mems hm c).trans (hr c)⟩
  · rw [← hd, State.rdDa, dram_of_mems hm, State.rdDa]
  · rw [← hc, State.cause, poison_of_mems hm, State.cause]
  · rw [← hs c hlt, clu_sp_of_mems hm]

/-- From a state with the same memories the same is written. -/
theorem State.Wrote.of_moved (ht : t.Wrote v p g ws) (hm : v.mems = u.mems) (hp : v.part p = u.part p) :
    t.Wrote u p g ws := by
  obtain ⟨hd, hc, hs, hr⟩ := ht
  have hrd : v.rdDa = u.rdDa := by funext x; rw [State.rdDa, State.rdDa, dram_of_mems hm]
  have hca : v.cause = u.cause := by funext x; rw [State.cause, State.cause, poison_of_mems hm]
  have hdc : v.dramCells p ws = u.dramCells p ws := by rw [State.dramCells, State.dramCells, hp]
  have hsc (c : Nat) : v.spCells p g c ws = u.spCells p g c ws := by rw [State.spCells, State.spCells, hp]
  refine ⟨fun x => ?_, fun l => ?_, fun c hlt x => ?_, fun c => (hr c).trans (clu_vr_of_mems hm c)⟩
  · rw [hd, hdc, State.afterWrite, hrd, hca, ← State.afterWrite]
  · rw [hc, hdc, hca]
  · rw [hs c hlt, hsc, clu_sp_of_mems hm]

theorem wrote_nil : u.Wrote u p g [] := by
  have hw (l : Nat) : wholeLine [] l = false := wholeLine_of_untouched fun _ hc => absurd hc List.not_mem_nil
  refine ⟨fun x => ?_, fun l => ?_, fun c _ x => rfl, fun _ => rfl⟩
  · exact (afterWrite_of_untouched fun _ hc => absurd hc List.not_mem_nil).symm
  · rw [State.dramCells, List.flatMap_nil, hw]
    rfl

/-- A write to device memory, the first of a long word. -/
theorem wrArg_wrote_dram (hm : u.memOk = true) (ha : a.d.space = 0) : (u.wrArg p g a cells).Wrote u p g [(a, cells)] := by
  have hdc : u.dramCells p [(a, cells)] = cells.map fun c => ((u.part p).da c.1, c.2) := by simp [State.dramCells, ha]
  have hsc (c : Nat) : u.spCells p g c [(a, cells)] = [] := by simp [State.spCells, ha]
  have hw : u.wrArg p g a cells = u.wrDa (cells.map fun c => ((u.part p).da c.1, c.2)) := by
    rw [State.wrArg, if_pos ha, State.wrPa]
  obtain ⟨hrd, hcause, -⟩ := deviceMemoryWrites u (cells.map fun c => ((u.part p).da c.1, c.2)) hm
  refine ⟨fun x => ?_, fun l => ?_, fun c _ x => ?_, fun c => ?_⟩
  · rw [hw, hrd, hdc]
  · rw [hw, hcause, hdc]
  · rw [hw, hsc, wrDa_clu]
    rfl
  · rw [hw, wrDa_clu]

/-- A write to a scratchpad comes after what the long word has written before. -/
theorem State.Wrote.wrArg_sp (hv : v.Wrote u p g ws) (hok : v.mems.Ok) (hs : v.cl.length = 96)
    (hp : v.part p = u.part p) (ha : a.d.space ≠ 0) : (v.wrArg p g a cells).Wrote u p g (ws ++ [(a, cells)]) := by
  obtain ⟨hd, hc, hsp, hr⟩ := hv
  have hdc : u.dramCells p (ws ++ [(a, cells)]) = u.dramCells p ws := by simp [State.dramCells, ha]
  have hsc (c : Nat) : u.spCells p g c (ws ++ [(a, cells)]) =
      u.spCells p g c ws ++ if a.owner (u.part p) g = c then cells else [] := by simp [State.spCells, ha]
  have hw : v.wrArg p g a cells = (v.land (some (a.owner (u.part p) g)) (cells.map (·.1))).updClu (a.owner (u.part p) g)
      fun k => { k with sp := cells.foldl (fun m c => spSet 0 m c.1 c.2) k.sp } := by
    rw [State.wrArg, if_neg ha, hp]
  refine ⟨fun x => ?_, fun l => ?_, fun c hlt x => ?_, fun c => ?_⟩
  · rw [hdc, ← hd, hw]
    rfl
  · rw [hdc, ← hc, hw]
    rfl
  · rw [hsc, hw]
    by_cases ho : a.owner (u.part p) g = c
    · have hwf : Memory.wf (v.clu c).sp = true := by
        obtain ⟨-, -, hk⟩ := ok_iff.mp hok
        have hmem : v.clu c ∈ v.cl := by
          rw [State.clu, tget, List.getD_eq_getElem _ _ (by omega)]
          exact List.getElem_mem _
        exact (hk _ hmem).1
      rw [if_pos ho, lastAt_append, ho, clu_updClu_same _ _ _ (by simpa using by omega), clu_land, writes_get _ _ _ hwf,
        hsp c hlt]
      cases lastAt cells x <;> rfl
    · rw [if_neg ho, List.append_nil, clu_updClu_ne _ _ _ _ ho, clu_land, hsp c hlt]
  · rw [← hr, hw, clu_updClu (fun _ => rfl)]
    rfl

/-- A write of an operand stores its cells, in device memory or in a scratchpad. -/
theorem wrArg_wrote (hs : u.sized) (hm : u.memOk = true) : (u.wrArg p g a cells).Wrote u p g [(a, cells)] := by
  by_cases ha : a.d.space = 0
  · exact wrArg_wrote_dram hm ha
  · obtain ⟨-, -, -, hcl, -⟩ := sized_iff.mp hs
    exact wrote_nil.wrArg_sp (memOk_iff.mp hm) hcl rfl ha

theorem wrSettled_wrote (hs : u.sized) (hm : u.memOk = true) :
    (u.wrSettled p g a cells).Wrote u p g [(a, a.settled u.free cells)] := by
  unfold State.wrSettled
  dsimp only
  split
  · exact wrArg_wrote hs hm
  · exact (wrArg_wrote hs hm).of_mems fresh_mems

/-! ## What a long word that passes its checks gives -/

/-- The state after a long word's operands are read, seen from the state at its issue. -/
theorem passes_elim {op : Op} {obs : HwObs} {args : List Arg} (hp : s.passes g st op obs = some (h, args, u)) :
    s.issuing g st op = some h ∧ u = ((s.readDescs h g st op obs).readArgs h g st op obs args).suspect h.p g
      (obs.suspect && checkedEngine st) := by
  unfold State.passes at hp
  split at hp
  · cases hp
  next k hk =>
    split at hp
    · cases hp
    · split at hp
      · cases hp
      · split at hp
        · simp only [Option.some.injEq, Prod.mk.injEq] at hp
          obtain ⟨rfl, rfl, rfl⟩ := hp
          exact ⟨hk, rfl⟩
        · cases hp

theorem issuing_op {op : Op} (hi : s.issuing g st op = some h) : h.op = op := by
  unfold State.issuing at hi
  split at hi
  · split at hi
    next hc =>
      cases hi
      exact hc.1
    · cases hi
  · cases hi

variable {op : Op} {obs : HwObs} {args : List Arg}

theorem passes_op (hp : s.passes g st op obs = some (h, args, u)) : h.op = op := issuing_op (passes_elim hp).1

theorem passes_sized (hs : s.sized) (hp : s.passes g st op obs = some (h, args, u)) : u.sized := by
  rw [(passes_elim hp).2]
  exact suspect_sized (readArgs_sized (readDescs_sized hs))

theorem passes_memOk (hm : s.memOk = true) (hp : s.passes g st op obs = some (h, args, u)) : u.memOk = true := by
  have hr : (s.readDescs h g st op obs).mems.Ok := observe_ok (memOk_iff.mp hm)
  rw [(passes_elim hp).2, memOk_iff]
  simp [State.readArgs, State.seen, hr]

theorem clu_sized (hs : u.sized) (hg : g < 96) : (u.clu g).sized := by
  obtain ⟨-, -, -, hcl, -, -, -, hk, -⟩ := sized_iff.mp hs
  refine hk _ ?_
  rw [State.clu, tget, List.getD_eq_getElem _ _ (by omega)]
  exact List.getElem_mem _

theorem streams_length (hs : u.sized) (hg : g < 96) : (u.clu g).streams.length = 5 := by
  have hk := clu_sized hs hg
  simp only [Cluster.sized, Bool.and_eq_true, beq_iff_eq, and_assoc] at hk
  exact hk.1

/-- An engine operation that has moved its data issues: `v` is the state then, `ws` what it has written. -/
theorem withArgs_issued {body : Head → List Arg → State → State} {ws : List (Arg × List Host.Cell)} (hg : g < 96)
    (hst : st < 5) (hop : op ≠ .sync) (hp : s.passes g st op obs = some (h, args, u))
    (hb : body h args u = issueCommon v h g st w) (hv : v.sized) (hm : v.Moved u g st) (hw : v.Wrote u h.p g ws) :
    let t := withArgs s g st op obs body
    t.Issued u h g st w ∧ t.Wrote u h.p g ws ∧ (t.clu g).tally = (v.clu g).tally ∧
      (t.str g st).draws = (v.str g st).draws := by
  intro t
  have ht : t = (issueCommon v h g st w).remember u h.p g st (writesOf u h.p g op args) := by
    rw [← hb]
    exact withArgs_passes s g st op obs body h args u hp
  have hlen : g < v.cl.length := by
    obtain ⟨-, -, -, hcl, -⟩ := sized_iff.mp hv
    omega
  have hstr : st < (v.clu g).streams.length := by rwa [streams_length hv hg]
  have hissue : (issueCommon v h g st w).Issued v h g st w := issueCommon_issued (passes_op hp ▸ hop) hlen hstr
  have hclu : t.clu g = (issueCommon v h g st w).clu g := by
    rw [ht, remember_frame]
    rfl
  have hissued : t.Issued u h g st w := ht ▸ (hissue.of_moved hm).remember
  refine ⟨hissued, hw.of_mems (by rw [ht]; simp), ?_, ?_⟩
  · rw [hclu]
    exact issueCommon_tally hlen
  · rw [State.str, hclu]
    exact issueCommon_draws hlen hstr

end

end Sys2Proof.Machine

namespace Sys2Proof.Machine

/-! # Loads, stores, PACK, UNPK and permutes -/

section

variable {s t u v : State} {h : Head} {g st p W : Nat} {dst : Arg} {els : List El} {op : Op} {obs : HwObs}
  {args : List Arg} {body : Head → List Arg → State → State} {cells : List Host.Cell} {cnts : List Cnt} {n : Nat}
  {c : Bool}

/-- Cells drawn for, written as they settle, and counted. -/
def State.drawnMove (u : State) (p g st W n : Nat) (consume : Bool) (dst : Arg) (cells : List Host.Cell) (set : Nat)
    (cnts : List Cnt) : State :=
  ((u.draws p g st W n consume).2.wrSettled p g dst cells).count g set cnts

theorem convMove_eq {src : Desc} : convMove u h g st W src dst els =
    u.drawnMove h.p g st W els.length (consumes h.ctx src dst.d) dst
      (convertAll h.ctx src dst els (u.draws h.p g st W els.length (consumes h.ctx src dst.d)).1).1 h.lw.tally
      (convertAll h.ctx src dst els (u.draws h.p g st W els.length (consumes h.ctx src dst.d)).1).2 := rfl

theorem cl_length (hs : u.sized) (hg : g < 96) : g < u.cl.length := by
  obtain ⟨-, -, -, hcl, -⟩ := sized_iff.mp hs
  omega

/-- What an operation leaves that draws for its elements, writes them and counts: R83, R86, R123. -/
theorem withArgs_drawnMove {set : Nat} (hg : g < 96) (hst : st < 5) (hop : op ≠ .sync) (hs : s.sized)
    (hm : s.memOk = true) (hp : s.passes g st op obs = some (h, args, u))
    (hb : body h args u = issueCommon (u.drawnMove h.p g st W n c dst cells set cnts) h g st .nothing) :
    let t := withArgs s g st op obs body
    t.Issued u h g st .nothing ∧ t.Wrote u h.p g [(dst, dst.settled u.free cells)] ∧
      (t.clu g).tally = (u.clu g).tally.modify set (·.add cnts) ∧
      (t.str g st).draws = ((u.draws h.p g st W n c).2.str g st).draws := by
  have hu := passes_sized hs hp
  have hlen := cl_length hu hg
  have hd : (u.draws h.p g st W n c).2.sized := draws_sized hu
  have hdm : (u.draws h.p g st W n c).2.Moved u g st := draws_moved hlen (by rwa [streams_length hu hg])
  have hw : ((u.draws h.p g st W n c).2.wrSettled h.p g dst cells).sized := wrSettled_sized hd
  have hmv : (u.drawnMove h.p g st W n c dst cells set cnts).Moved u g st :=
    (hdm.trans wrSettled_moved).trans (count_moved (cl_length hw hg))
  have hwrote : (u.drawnMove h.p g st W n c dst cells set cnts).Wrote u h.p g [(dst, dst.settled u.free cells)] := by
    have hok : (u.draws h.p g st W n c).2.memOk = true := by
      rw [memOk_iff, draws_mems, ← memOk_iff]
      exact passes_memOk hm hp
    have hv := wrSettled_wrote (p := h.p) (g := g) (a := dst) (cells := cells) hd hok
    rw [draws_free] at hv
    exact (hv.of_moved draws_mems (hdm.part h.p)).of_mems count_mems
  obtain ⟨hissued, hwrote, htally, hdraws⟩ :=
    withArgs_issued hg hst hop hp hb (count_sized hw) hmv hwrote
  refine ⟨hissued, hwrote, htally.trans ?_, hdraws.trans ?_⟩
  · rw [State.drawnMove, clu_count (cl_length hw hg), wrSettled_clu, draws_tally hlen]
  · have hclu := clu_count (set := set) (cs := cnts) (cl_length hw hg)
    rw [State.str, State.drawnMove, hclu, wrSettled_clu]
    rfl

/-- What an operation leaves that moves codes unchanged (R221). -/
theorem withArgs_wrSettled (hg : g < 96) (hst : st < 5) (hop : op ≠ .sync) (hs : s.sized) (hm : s.memOk = true)
    (hp : s.passes g st op obs = some (h, args, u))
    (hb : body h args u = issueCommon (u.wrSettled h.p g dst cells) h g st .nothing) :
    let t := withArgs s g st op obs body
    t.Issued u h g st .nothing ∧ t.Wrote u h.p g [(dst, dst.settled u.free cells)] ∧
      (t.clu g).tally = (u.clu g).tally := by
  have hu := passes_sized hs hp
  obtain ⟨hissued, hwrote, htally, -⟩ := withArgs_issued hg hst hop hp hb (wrSettled_sized hu) wrSettled_moved
    (wrSettled_wrote hu (passes_memOk hm hp))
  refine ⟨hissued, hwrote, htally.trans ?_⟩
  rw [wrSettled_clu]

/-- A permute that breaks Iris4 blocks packs them afresh, another one moves codes (R221, R222). -/
theorem withArgs_permute {src : Arg} {c : Bool} {f : List Nat → List Nat} (hg : g < 96) (hop : op ≠ .sync) (hs : s.sized)
    (hm : s.memOk = true) (hp : s.passes g 3 op obs = some (h, [src, dst], u))
    (hb : body h [src, dst] u = (if c then repackBody else moveBody) g h src dst f u) :
    let els := src.gather u h.p g dst.d.exts f
    let ds := u.draws h.p g 3 256 els.length (h.ctx.eff.round == .rsto)
    let res := convertAll h.ctx src.d dst els ds.1
    let t := withArgs s g 3 op obs body
    t.Issued u h g 3 .nothing ∧
      (c = false → t.Wrote u h.p g [(dst, dst.settled u.free (dst.moveCells els))] ∧
        (t.clu g).tally = (u.clu g).tally) ∧
      (c = true → t.Wrote u h.p g [(dst, dst.settled u.free res.1)] ∧
        (t.clu g).tally = (u.clu g).tally.modify h.lw.tally (·.add res.2)) := by
  intro els ds res t
  cases c with
  | false =>
    obtain ⟨hissued, hmove⟩ := withArgs_wrSettled (cells := dst.moveCells els) hg (by decide) hop hs hm hp hb
    exact ⟨hissued, fun _ => hmove, nofun⟩
  | true =>
    obtain ⟨hissued, hwrote, htally, -⟩ := withArgs_drawnMove (W := 256) (n := els.length)
      (c := h.ctx.eff.round == .rsto) (cells := res.1) (cnts := res.2) (set := h.lw.tally) hg (by decide) hop hs hm hp hb
    exact ⟨hissued, nofun, fun _ => ⟨hwrote, htally⟩⟩

end

/-- Settles O44: a conversion is a `State.drawnMove`, a move of codes a `State.wrSettled`; TRN and PERM take the first where
they break Iris4 blocks. -/
theorem engineMovesAndConversions : Obligations.EngineMovesAndConversions := by
  intro s g obs h src dst u hs hm
  refine ⟨fun op c st hmem hp => ?_, fun op c f hmem hp => ?_⟩
  · intro els w ds res
    have hall {body : Head → List Arg → State → State} (hst : st < 5) (hop : op ≠ .sync)
        (hb : body h [src, dst] u = issueCommon (convMove u h g st w src.d dst els) h g st .nothing) :=
      withArgs_drawnMove g.isLt hst hop hs hm hp (hb.trans (congrArg (issueCommon · h g st .nothing) convMove_eq))
    simp only [List.mem_cons, Prod.mk.injEq, List.not_mem_nil, or_false] at hmem
    obtain ⟨rfl, rfl, rfl⟩ | ⟨rfl, rfl, rfl⟩ | ⟨rfl, rfl, rfl⟩ | ⟨rfl, rfl, rfl⟩ | ⟨rfl, rfl, rfl⟩ | ⟨rfl, rfl, rfl⟩ |
      ⟨rfl, rfl, rfl⟩ := hmem
    · exact ⟨_, rfl, hall (body := loadBody g) (by decide) (by decide) rfl⟩
    · exact ⟨_, rfl, hall (body := loadBody g) (by decide) (by decide) rfl⟩
    · exact ⟨_, rfl, hall (body := loadBody g) (by decide) (by decide) rfl⟩
    · exact ⟨_, rfl, hall (body := packBody g) (by decide) (by decide) rfl⟩
    · exact ⟨_, rfl, hall (body := packBody g) (by decide) (by decide) rfl⟩
    · exact ⟨_, rfl, hall (body := storeBody g) (by decide) (by decide) rfl⟩
    · exact ⟨_, rfl, hall (body := storeBody g) (by decide) (by decide) rfl⟩
  · intro els ds res
    have hall {body : Head → List Arg → State → State} {c : Bool} (hop : op ≠ .sync)
        (hb : body h [src, dst] u = (if c then repackBody else moveBody) g h src dst f u) :=
      withArgs_permute g.isLt hop hs hm hp hb
    simp only [List.mem_cons, Prod.mk.injEq, List.not_mem_nil, or_false] at hmem
    obtain ⟨rfl, rfl, rfl⟩ | ⟨rfl, rfl, rfl⟩ | ⟨rfl, rfl, rfl⟩ | ⟨rfl, rfl, rfl⟩ := hmem
    · obtain ⟨hissued, hmove, hpack⟩ := hall (body := fun h args s => twoArgs args s fun src dst =>
        (if src.d.isIr4 then repackBody else moveBody) g h src dst swap01 s) (by decide) rfl
      exact ⟨_, rfl, hissued, fun hc => hmove (by simpa using hc), fun hi _ => hpack hi⟩
    · obtain ⟨hissued, hmove, hpack⟩ := hall (body := fun h args s => twoArgs args s fun src dst =>
        (if src.d.isIr4 && h.lw.pmap 0 != 0 then repackBody else moveBody) g h src dst (permIx h.lw src.d.rank) s)
        (by decide) rfl
      exact ⟨_, rfl, hissued, fun hc => hmove (by simpa [or_iff_not_imp_left] using hc),
        fun hi hc => hpack (by simpa [hi] using hc)⟩
    · obtain ⟨hissued, hmove, -⟩ := hall (c := false) (body := fun h args s => twoArgs args s fun src dst =>
        moveBody g h src dst id s) (by decide) rfl
      exact ⟨_, rfl, hissued, fun _ => hmove rfl, fun _ hc => by simp at hc⟩
    · obtain ⟨hissued, hmove, -⟩ := hall (c := false) (body := fun h args s => twoArgs args s fun src dst =>
        moveBody g h src dst (bcstIx src.d) s) (by decide) rfl
      exact ⟨_, rfl, hissued, fun _ => hmove rfl, fun _ hc => by simp at hc⟩

end Sys2Proof.Machine

namespace Sys2Proof.Machine

/-! # Reductions along an axis -/

section

variable {s t u v : State} {h : Head} {g p W set n : Nat} {src dst : Arg} {src2 idst : Option Arg} {sf df : Fmt} {c : Bool}
  {res : List Res}

/-! ## Results of the reduce engine, drawn for, written and counted -/

/-- Results written after their draws. -/
def State.drawnResults (u : State) (p g n : Nat) (consume : Bool) (dst : Arg) (set : Nat) (res : List Res) : State :=
  (u.draws p g 2 256 n consume).2.putResults p g dst set res

theorem drawnResults_sized (hu : u.sized) : (u.drawnResults p g n c dst set res).sized :=
  count_sized (wrArg_sized (draws_sized hu))

theorem drawnResults_moved (hu : u.sized) (hg : g < 96) : (u.drawnResults p g n c dst set res).Moved u g 2 := by
  have hd : (u.draws p g 2 256 n c).2.sized := draws_sized hu
  have hdm : (u.draws p g 2 256 n c).2.Moved u g 2 :=
    draws_moved (cl_length hu hg) (by rw [streams_length hu hg]; decide)
  exact (hdm.trans wrArg_moved).trans (count_moved (cl_length (wrArg_sized hd) hg))

theorem drawnResults_wrote (hu : u.sized) (hm : u.memOk = true) (hg : g < 96) :
    (u.drawnResults p g n c dst set res).Wrote u p g [(dst, dst.cells (res.map (·.code)))] := by
  have hok : (u.draws p g 2 256 n c).2.memOk = true := by rwa [memOk_iff, draws_mems, ← memOk_iff]
  have hdm : (u.draws p g 2 256 n c).2.Moved u g 2 :=
    draws_moved (cl_length hu hg) (by rw [streams_length hu hg]; decide)
  exact ((wrArg_wrote (draws_sized hu) hok).of_moved draws_mems (hdm.part p)).of_mems count_mems

theorem drawnResults_draws (hu : u.sized) (hg : g < 96) :
    ((u.drawnResults p g n c dst set res).str g 2).draws = ((u.draws p g 2 256 n c).2.str g 2).draws := by
  have hd : (u.draws p g 2 256 n c).2.sized := draws_sized hu
  rw [State.str, State.drawnResults, State.putResults, clu_count (cl_length (wrArg_sized hd) hg), wrArg_clu]
  rfl

/-- A second destination in a scratchpad, if there is one. -/
def State.wrOpt (v : State) (p g : Nat) (idst : Option Arg) (cells : Arg → List Host.Cell) : State :=
  idst.elim v fun i => v.wrArg p g i (cells i)

theorem wrOpt_sized {cells : Arg → List Host.Cell} (hv : v.sized) : (v.wrOpt p g idst cells).sized := by
  cases idst with
  | none => exact hv
  | some i => exact wrArg_sized hv

theorem wrOpt_moved {cells : Arg → List Host.Cell} {st : Nat} : (v.wrOpt p g idst cells).Moved v g st := by
  cases idst with
  | none => exact .refl
  | some i => exact wrArg_moved

theorem wrOpt_str {cells : Arg → List Host.Cell} {st : Nat} : (v.wrOpt p g idst cells).str g st = v.str g st := by
  cases idst with
  | none => rfl
  | some i =>
    have hclu : ((v.wrOpt p g (some i) cells).clu g).streams = (v.clu g).streams := by
      rw [State.wrOpt, Option.elim, wrArg_clu]
    rw [State.str, State.str, Cluster.str, hclu, Cluster.str]

theorem State.Wrote.wrOpt {ws : List (Arg × List Host.Cell)} {cells : Arg → List Host.Cell} (hv : v.Wrote u p g ws)
    (hok : v.memOk = true) (hs : v.sized) (hp : v.part p = u.part p) (hi : ∀ i, idst = some i → i.d.space ≠ 0) :
    (v.wrOpt p g idst cells).Wrote u p g (ws ++ idst.toList.map fun i => (i, cells i)) := by
  obtain ⟨-, -, -, hcl, -⟩ := sized_iff.mp hs
  cases idst with
  | none => exact (List.append_nil ws).symm ▸ hv
  | some i => exact hv.wrArg_sp (memOk_iff.mp hok) hcl hp (hi i rfl)

theorem drawnResults_memOk (hm : u.memOk = true) : (u.drawnResults p g n c dst set res).memOk = true := by
  rw [memOk_iff, State.drawnResults]
  exact putResults_ok (by simpa using memOk_iff.mp hm)

/-- What an operation of the reduce engine leaves that writes results, and perhaps their indices. -/
theorem withArgs_drawnResults {op : Op} {obs : HwObs} {args : List Arg} {body : Head → List Arg → State → State}
    {cells : Arg → List Host.Cell} (hg : g < 96) (hop : op ≠ .sync) (hs : s.sized) (hm : s.memOk = true)
    (hp : s.passes g 2 op obs = some (h, args, u)) (hi : ∀ i, idst = some i → i.d.space ≠ 0)
    (hb : body h args u =
      issueCommon ((u.drawnResults h.p g n c dst set res).wrOpt h.p g idst cells) h g 2 .nothing) :
    let t := withArgs s g 2 op obs body
    t.Issued u h g 2 .nothing ∧
      t.Wrote u h.p g ([(dst, dst.cells (res.map (·.code)))] ++ idst.toList.map fun i => (i, cells i)) ∧
      (t.str g 2).draws = ((u.draws h.p g 2 256 n c).2.str g 2).draws := by
  have hu := passes_sized hs hp
  have hok := passes_memOk hm hp
  have hmv : (u.drawnResults h.p g n c dst set res).Moved u g 2 := drawnResults_moved hu hg
  have hsz : (u.drawnResults h.p g n c dst set res).sized := drawnResults_sized hu
  obtain ⟨hissued, hwrote, -, hdraws⟩ := withArgs_issued hg (by decide) hop hp hb (wrOpt_sized hsz)
    (hmv.trans wrOpt_moved)
    ((drawnResults_wrote hu hok hg).wrOpt (drawnResults_memOk hok) hsz (hmv.part h.p) hi)
  refine ⟨hissued, hwrote, hdraws.trans ?_⟩
  rw [← drawnResults_draws (dst := dst) (set := set) (res := res) hu hg, wrOpt_str]

/-! ## RSUM, RMAX, RMIN, RSSQ, RDOT, ARGMX and ARGMN -/

/-- The operands of a reduction, in the order of its slots. -/
def reduceArgs (src : Arg) (src2 : Option Arg) (dst : Arg) (idst : Option Arg) : List Arg :=
  [src] ++ src2.toList ++ [dst] ++ idst.toList

/-- The codes at some positions, none where there is no such source. -/
def pickAt (l ps : List Nat) : List Nat := if l.isEmpty then [] else ps.map (tget 0 l)

/-- The result of one element: from the codes and flags of the sources after FLUSH and the element's draw. -/
def reduceEl (x : ACtx) (op : Op) (ax : Nat) (src dst : Desc) (sf sf2 df : Fmt) (as bs : List Nat × List Bool)
    (rs : List Nat) (e : Nat) : Res :=
  let pos := reducePos src dst ax (unlinear dst.exts e)
  (reduceValue x op (dst.ext ax != 1) sf sf2 df (pickAt as.1 pos) (pickAt bs.1 pos) (tget 0 rs e)).also
    { flush := pos.any fun k => tget false as.2 k || tget false bs.2 k }

theorem zipIdx_map_range {α : Type} (f : Nat → α) :
    ((List.range n).map f).zipIdx = (List.range n).map fun e => (f e, e) := by
  apply List.ext_getElem <;> simp

theorem reduceBody_eq (hsf : src.d.format = some sf) (hdf : dst.d.format = some df)
    (h2 : src2.isSome = true ↔ h.op = .rdot) (hi : idst.isSome = true ↔ h.op = .argmx ∨ h.op = .argmn) :
    let x := h.ctx
    let ax := h.lw.axis h.op
    let as := src.flushed u h.p g x
    let bs := (src2.map fun a => a.flushed u h.p g x).getD ([], [])
    let sf2 := (src2.bind fun a => a.d.format).getD sf
    let c := rootDraws x (h.op == .rsum || h.op == .rssq || h.op == .rdot) sf df
    let el := reduceEl x h.op ax src.d dst.d sf sf2 df as bs (u.draws h.p g 2 256 dst.d.count c).1
    reduceBody g h (reduceArgs src src2 dst idst) u = issueCommon
      ((u.drawnResults h.p g dst.d.count c dst h.lw.tally ((List.range dst.d.count).map el)).wrOpt h.p g idst fun i =>
        i.cells ((List.range dst.d.count).map fun e => argIndex sf (el e).code
          (pickAt as.1 (reducePos src.d dst.d ax (unlinear dst.d.exts e))))) h g 2 .nothing := by
  intro x ax as bs sf2 c el
  unfold reduceBody
  cases src2 with
  | none =>
    cases idst with
    | none =>
      simp only [reduceArgs, Option.toList, List.append_nil, List.cons_append, List.nil_append, hsf, hdf,
        zipIdx_map_range, List.map_map]
      rfl
    | some i =>
      have hop : h.op ≠ .rdot := fun ho => by simp [ho] at h2
      simp only [reduceArgs, Option.toList, List.append_nil, List.cons_append, List.nil_append, hsf, hdf,
        zipIdx_map_range, List.map_map, if_neg hop, List.zip_map']
      rfl
  | some b =>
    have hop : h.op = .rdot := h2.mp rfl
    obtain rfl : idst = none := by simpa [hop] using hi
    simp only [reduceArgs, Option.toList, List.append_nil, List.cons_append, List.nil_append, hsf, hdf,
      zipIdx_map_range, List.map_map, if_pos hop]
    rfl

end

/-- Settles O48: the results of a reduction are a `State.drawnResults`, its indices a `State.wrOpt`. -/
theorem reductionsAlongAnAxis : Obligations.ReductionsAlongAnAxis := by
  intro s g obs h src dst src2 idst u op c sf df hs hm hmem hp h2 hi hisp hsf hdf x ax as bs sf2 ds pick pos val each
  have hop : h.op = op := passes_op hp
  subst hop
  have hcmd : h.op ≠ .sync ∧ exec c s = .next (withArgs s g 2 h.op obs (reduceBody g)) := by
    simp only [List.mem_cons, Prod.mk.injEq, List.not_mem_nil, or_false] at hmem
    obtain ⟨ho, rfl⟩ | ⟨ho, rfl⟩ | ⟨ho, rfl⟩ | ⟨ho, rfl⟩ | ⟨ho, rfl⟩ | ⟨ho, rfl⟩ | ⟨ho, rfl⟩ := hmem
    all_goals exact ⟨by rw [ho]; decide, by rw [ho]; rfl⟩
  obtain ⟨hissued, hwrote, -⟩ := withArgs_drawnResults g.isLt hcmd.1 hs hm hp hisp (reduceBody_eq hsf hdf h2 hi)
  rw [List.map_map] at hwrote
  exact ⟨_, hcmd.2, hissued, hwrote⟩

end Sys2Proof.Machine

namespace Sys2Proof.Machine

/-! # Orders and scans -/

/-! ## The order of R100 -/

section

variable {k : Int} {a : Nat × Nat} {l : List (Int × Nat × Nat)}

theorem insByKey_perm : (insByKey k a l).Perm ((k, a) :: l) := by
  induction l with
  | nil => exact .refl _
  | cons b r ih =>
    unfold insByKey
    split
    · exact .refl _
    · exact (ih.cons b).trans (.swap _ _ _)

/-- An insertion keeps a list sorted by its keys. -/
theorem insByKey_pairwise (h : l.Pairwise (·.1 ≤ ·.1)) : (insByKey k a l).Pairwise (·.1 ≤ ·.1) := by
  induction l with
  | nil => exact List.pairwise_singleton _ _
  | cons b r ih =>
    obtain ⟨hb, hr⟩ := List.pairwise_cons.mp h
    unfold insByKey
    split
    next hlt =>
      refine List.pairwise_cons.mpr ⟨fun c hc => ?_, h⟩
      rcases List.mem_cons.mp hc with rfl | hc
      · exact hlt.le
      · exact hlt.le.trans (hb c hc)
    next hge =>
      refine List.pairwise_cons.mpr ⟨fun c hc => ?_, ih hr⟩
      rcases List.mem_cons.mp (insByKey_perm.mem_iff.mp hc) with rfl | hc
      · exact not_lt.mp hge
      · exact hb c hc

/-- The key that codes are sorted by. -/
def sortKey (f : Fmt) (desc : Bool) (c : Nat) : Int := if desc then -ordKey f c else ordKey f c

/-- Pairs inserted one after the other. -/
def insAll (key : Nat → Int) (cs : List (Nat × Nat)) (acc : List (Int × Nat × Nat)) : List (Int × Nat × Nat) :=
  cs.foldl (fun acc ci => insByKey (key ci.1) (ci.1, ci.2) acc) acc

theorem insAll_perm (key : Nat → Int) (cs : List (Nat × Nat)) :
    (insAll key cs l).Perm (cs.map (fun ci => (key ci.1, ci)) ++ l) := by
  induction cs generalizing l with
  | nil => exact .refl _
  | cons c r ih => exact ih.trans ((insByKey_perm.append_left _).trans List.perm_middle)

theorem insAll_pairwise (key : Nat → Int) (cs : List (Nat × Nat)) (h : l.Pairwise (·.1 ≤ ·.1)) :
    (insAll key cs l).Pairwise (·.1 ≤ ·.1) := by
  induction cs generalizing l with
  | nil => exact h
  | cons c r ih => exact ih (insByKey_pairwise h)

theorem sortCodes_eq {f : Fmt} {desc : Bool} {cs : List Nat} :
    sortCodes f desc cs = (insAll (sortKey f desc) cs.zipIdx []).map (·.2) := rfl

theorem sortCodes_perm {f : Fmt} {desc : Bool} {cs : List Nat} : (sortCodes f desc cs).Perm cs.zipIdx := by
  have hp := (insAll_perm (l := []) (sortKey f desc) cs.zipIdx).map (·.2)
  simpa [sortCodes_eq, Function.comp_def] using hp

theorem sortCodes_pairwise {f : Fmt} {desc : Bool} {cs : List Nat} : (sortCodes f desc cs).Pairwise fun a b =>
    if desc then ordKey f b.1 ≤ ordKey f a.1 else ordKey f a.1 ≤ ordKey f b.1 := by
  have hkey : ∀ c ∈ insAll (sortKey f desc) cs.zipIdx [], c.1 = sortKey f desc c.2.1 := fun c hc => by
    have hm := (insAll_perm (sortKey f desc) cs.zipIdx).mem_iff.mp hc
    rw [List.append_nil] at hm
    obtain ⟨ci, -, rfl⟩ := List.mem_map.mp hm
    rfl
  rw [sortCodes_eq, List.pairwise_map]
  refine (insAll_pairwise (sortKey f desc) cs.zipIdx .nil).imp_of_mem fun {a b} ha hb hab => ?_
  rw [hkey a ha, hkey b hb] at hab
  cases desc <;> simpa [sortKey] using hab

end

/-! ## Linear positions and indices -/

section

variable {exts ix : List Nat} {e : Nat}

/-- An index lies in a shape. -/
def InShape (ix exts : List Nat) : Prop := List.Forall₂ (· < ·) ix exts

theorem unlinear_inShape (h : ∀ d ∈ exts, 0 < d) : InShape (unlinear exts e) exts := by
  induction exts generalizing e with
  | nil => exact .nil
  | cons d r ih =>
    obtain ⟨hd, hr⟩ := List.forall_mem_cons.mp h
    exact .cons (Nat.mod_lt _ hd) (ih hr)

theorem linear_lt (h : InShape ix exts) : linear exts ix < exts.prod := by
  induction h with
  | nil => exact Nat.one_pos
  | @cons i d j r hi _ ih =>
    rw [linear, List.prod_cons]
    calc i + d * linear r j < d + d * linear r j := Nat.add_lt_add_right hi _
      _ = d * (linear r j + 1) := by ring
      _ ≤ d * r.prod := Nat.mul_le_mul_left d ih

theorem unlinear_linear (h : InShape ix exts) : unlinear exts (linear exts ix) = ix := by
  induction h with
  | nil => rfl
  | @cons i d j r hi _ ih =>
    rw [linear, unlinear, Nat.add_mul_mod_self_left, Nat.mod_eq_of_lt hi, Nat.add_mul_div_left _ _ (by omega),
      Nat.div_eq_of_lt hi, Nat.zero_add, ih]

theorem linear_unlinear (h : e < exts.prod) : linear exts (unlinear exts e) = e := by
  induction exts generalizing e with
  | nil => exact (Nat.lt_one_iff.mp h).symm
  | cons d r ih =>
    rw [List.prod_cons] at h
    rw [unlinear, linear, ih (Nat.div_lt_of_lt_mul h), Nat.mod_add_div]

theorem InShape.set {n i d : Nat} (h : InShape ix exts) (hi : i < d) : InShape (ix.set n i) (exts.set n d) := by
  induction h generalizing n with
  | nil => exact .nil
  | cons hid hr ih =>
    cases n with
    | zero => exact .cons hi hr
    | succ n => exact .cons hid ih

end

/-! ## TOPK and SORT -/

section

variable {s u : State} {h : Head} {g st : Nat} {src dst idst : Arg} {f df : Fmt}

/-- What TOPK and SORT leave: the second of their writes lies in a scratchpad. -/
theorem withArgs_wrArg_wrArg {op : Op} {obs : HwObs} {args : List Arg} {body : Head → List Arg → State → State}
    {cs is : List Host.Cell} (hg : g < 96) (hst : st < 5) (hop : op ≠ .sync) (hs : s.sized) (hm : s.memOk = true)
    (hp : s.passes g st op obs = some (h, args, u)) (hi : idst.d.space ≠ 0)
    (hb : body h args u = issueCommon ((u.wrArg h.p g dst cs).wrArg h.p g idst is) h g st .nothing) :
    let t := withArgs s g st op obs body
    t.Issued u h g st .nothing ∧ t.Wrote u h.p g [(dst, cs), (idst, is)] ∧ (t.clu g).tally = (u.clu g).tally := by
  have hu := passes_sized hs hp
  have hok := passes_memOk hm hp
  have hw : (u.wrArg h.p g dst cs).sized := wrArg_sized hu
  have hmv : (u.wrArg h.p g dst cs).Moved u g st := wrArg_moved
  have hwrote : ((u.wrArg h.p g dst cs).wrArg h.p g idst is).Wrote u h.p g [(dst, cs), (idst, is)] := by
    obtain ⟨-, -, -, hcl, -⟩ := sized_iff.mp hw
    exact (wrArg_wrote hu hok).wrArg_sp (wrArg_ok (memOk_iff.mp hok)) hcl (hmv.part h.p) hi
  obtain ⟨hissued, hwrote, htally, -⟩ := withArgs_issued hg hst hop hp hb (wrArg_sized hw) (hmv.trans wrArg_moved) hwrote
  refine ⟨hissued, hwrote, htally.trans ?_⟩
  rw [wrArg_clu, wrArg_clu]

/-! ## SCAN -/

/-- The sum up to a place of a line (R108, R217). -/
def scanEl (x : ACtx) (sf df : Fmt) (as rs : List Nat) (i : Nat) : Res :=
  if sf.isInt then narrowInt x df (((as.take (i + 1)).map (signed sf.width)).foldl (· + ·) 0)
  else nodeRes x df (scanAt x (as.map (decodeF sf))
    (treeLevels (addComb x) (addOdd x) 40 (sumLeaves x (as.map (decodeF sf)))) i) (tget 0 rs i)

theorem scanLine_eq {x : ACtx} {as rs : List Nat} :
    scanLine x f df as rs = (List.range as.length).map (scanEl x f df as rs) := by
  unfold scanLine
  split
  next hf => simp [scanEl, hf]
  next hf => simp [scanEl, hf, scanAll, zipIdx_map_range]

/-- The elements of every line of a scan, each with its position. -/
def scanLines (d : Desc) (ax : Nat) (el : List Nat → Nat → Res) : List (Nat × Res) :=
  (axisHeads d ax).flatMap fun ix => (List.range (d.ext ax)).map fun i => (linear d.exts (ix.set ax i), el ix i)

/-- An entry that is found has what all entries of its key have. -/
theorem find_eq_of_forall {α β : Type} {l : List (Nat × α)} {e : Nat} {d : α} {b : β} {φ : α → β}
    (hex : ∃ c ∈ l, c.1 = e) (hall : ∀ c ∈ l, c.1 = e → φ c.2 = b) :
    φ (((l.find? fun c => c.1 == e).map (·.2)).getD d) = b := by
  obtain ⟨c, hc, he⟩ := hex
  obtain ⟨k, hk⟩ : ∃ k, l.find? (fun c => c.1 == e) = some k :=
    Option.isSome_iff_exists.mp (List.find?_isSome.mpr ⟨c, hc, by simpa using he⟩)
  rw [hk]
  exact hall k (List.mem_of_find?_eq_some hk) (by simpa using List.find?_some hk)

theorem exts_eq_set {d : Desc} {ax : Nat} : (d.exts.set ax 1).set ax (d.ext ax) = d.exts := by
  rw [List.set_set]
  apply List.ext_getElem
  · simp
  · intro n h1 h2
    by_cases hn : ax = n
    · subst hn
      simp [Desc.exts]
    · simp [hn]

theorem exts_pos {d : Desc} (hd : ∀ k, 1 ≤ d.ext k) : ∀ n ∈ d.exts, 0 < n := by
  intro n hn
  obtain ⟨k, -, rfl⟩ := List.mem_map.mp hn
  exact hd k

/-- The place along an axis of the element at position e. -/
def placeOf (d : Desc) (ax e : Nat) : Nat := tget 0 (unlinear d.exts e) ax

variable {d : Desc} {ax e : Nat}

theorem unlinear_exts_inShape (hd : ∀ k, 1 ≤ d.ext k) : InShape (unlinear d.exts e) d.exts := unlinear_inShape (exts_pos hd)

theorem placeOf_eq_getElem (hd : ∀ k, 1 ≤ d.ext k) (hax : ax < 5) :
    ∃ hlt : ax < (unlinear d.exts e).length, placeOf d ax e = (unlinear d.exts e)[ax] := by
  have hlen : ax < (unlinear d.exts e).length := by
    rw [(unlinear_exts_inShape hd).length_eq]
    simpa [Desc.exts] using hax
  exact ⟨hlen, List.getD_eq_getElem _ _ hlen⟩

theorem placeOf_lt (hd : ∀ k, 1 ≤ d.ext k) (hax : ax < 5) : placeOf d ax e < d.ext ax := by
  obtain ⟨hlen, hget⟩ := placeOf_eq_getElem (e := e) hd hax
  have hlt := List.Forall₂.get (unlinear_exts_inShape (e := e) hd) hlen ((unlinear_exts_inShape hd).length_eq ▸ hlen)
  rw [hget]
  simpa [Desc.exts] using hlt

theorem set_placeOf (hd : ∀ k, 1 ≤ d.ext k) (hax : ax < 5) :
    (unlinear d.exts e).set ax (placeOf d ax e) = unlinear d.exts e := by
  obtain ⟨hlen, hget⟩ := placeOf_eq_getElem (e := e) hd hax
  rw [hget, List.set_getElem_self]

/-- Each position lies on the line through its head, at its place. -/
theorem mem_scanLines {el : List Nat → Nat → Res} (hd : ∀ k, 1 ≤ d.ext k) (hax : ax < 5) (he : e < d.exts.prod) :
    (e, el ((unlinear d.exts e).set ax 0) (placeOf d ax e)) ∈ scanLines d ax el := by
  have hhead : InShape ((unlinear d.exts e).set ax 0) (d.exts.set ax 1) := (unlinear_exts_inShape hd).set Nat.one_pos
  refine List.mem_flatMap.mpr ⟨(unlinear d.exts e).set ax 0, List.mem_map.mpr ⟨_, List.mem_range.mpr ?_,
    unlinear_linear hhead⟩, List.mem_map.mpr ⟨placeOf d ax e, List.mem_range.mpr (placeOf_lt hd hax), ?_⟩⟩
  · rw [← List.prod_eq_foldl]
    exact linear_lt hhead
  · rw [List.set_set, set_placeOf hd hax, linear_unlinear he]

/-- What the lines of an axis hold at a position stands at its place of a line through it. -/
theorem eq_of_mem_scanLines {el : List Nat → Nat → Res} {c : Nat × Res} (hd : ∀ k, 1 ≤ d.ext k) (hax : ax < 5)
    (hc : c ∈ scanLines d ax el) (hce : c.1 = e) :
    ∃ ix, ix.set ax (placeOf d ax e) = unlinear d.exts e ∧ c.2 = el ix (placeOf d ax e) := by
  obtain ⟨ix, hix, hc⟩ := List.mem_flatMap.mp hc
  obtain ⟨i, hi, rfl⟩ := List.mem_map.mp hc
  obtain ⟨j, -, rfl⟩ := List.mem_map.mp hix
  have hpos1 : ∀ n ∈ d.exts.set ax 1, 0 < n := fun n hn => by
    rcases List.mem_or_eq_of_mem_set hn with hn | rfl
    · exact exts_pos hd n hn
    · exact Nat.one_pos
  have hin : InShape ((unlinear (d.exts.set ax 1) j).set ax i) d.exts := by
    have hset := (unlinear_inShape (e := j) hpos1).set (n := ax) (List.mem_range.mp hi)
    rwa [exts_eq_set] at hset
  have heq : (unlinear (d.exts.set ax 1) j).set ax i = unlinear d.exts e := by
    rw [← hce, unlinear_linear hin]
  have hplace : placeOf d ax e = i := by
    obtain ⟨hlen, hget⟩ := placeOf_eq_getElem (e := e) hd hax
    rw [hget]
    simp [← heq]
  rw [hplace]
  exact ⟨_, heq, rfl⟩

/-- The element of a scan at position e is that of its line through e. -/
theorem scanLines_find {el : List Nat → Nat → Res} {r : Res} {c : Nat} (hd : ∀ k, 1 ≤ d.ext k) (hax : ax < 5)
    (he : e < d.exts.prod)
    (hel : ∀ ix, ix.set ax (placeOf d ax e) = unlinear d.exts e → (el ix (placeOf d ax e)).code = c) :
    ((((scanLines d ax el).find? fun l => l.1 == e).map (·.2)).getD r).code = c := by
  refine find_eq_of_forall (φ := Res.code) ⟨_, mem_scanLines hd hax he, rfl⟩ fun k hk hke => ?_
  obtain ⟨ix, hix, hel'⟩ := eq_of_mem_scanLines hd hax hk hke
  rw [hel', hel ix hix]

/-- The codes or draws of a line. -/
def lineOf (d : Desc) (ax : Nat) (l ix : List Nat) : List Nat := (axisLine d ax ix).map (tget 0 l)

theorem lineOf_length {d : Desc} {ax : Nat} {l ix : List Nat} : (lineOf d ax l ix).length = d.ext ax := by
  simp [lineOf, axisLine]

/-- What SCAN gives at a place of a line, with what it counts. -/
def scanCounted (x : ACtx) (sf df : Fmt) (d : Desc) (ax : Nat) (as : List Nat × List Bool) (rs ix : List Nat) (i : Nat) :
    Res :=
  (scanEl x sf df (lineOf d ax as.1 ix) (lineOf d ax rs ix) i).also
    { flush := (((axisLine d ax ix).map (tget false as.2)).take (i + 1)).any id }

/-- The results of a scan in linear order. -/
def scanResults (x : ACtx) (sf df : Fmt) (d : Desc) (ax : Nat) (as : List Nat × List Bool) (rs : List Nat) (n : Nat) :
    List Res :=
  (List.range n).map fun e =>
    (((scanLines d ax (scanCounted x sf df d ax as rs)).find? fun l => l.1 == e).map (·.2)).getD ⟨0, {}⟩

theorem scanBody_eq (hf : src.d.format = some f) (hdf : dst.d.format = some df) :
    let as := src.flushed u h.p g h.ctx
    let c := rootDraws h.ctx true f df
    scanBody g h [src, dst] u = issueCommon (u.drawnResults h.p g dst.d.count c dst h.lw.tally
      (scanResults h.ctx f df src.d (h.lw.axis h.op) as (u.draws h.p g 2 256 dst.d.count c).1 dst.d.count))
        h g 2 .nothing := by
  intro as c
  have hzip (ax : Nat) (ix : List Nat) (el : Nat → Res) :
      (axisLine src.d ax ix).zip ((List.range (src.d.ext ax)).map el) =
        (List.range (src.d.ext ax)).map fun i => (linear src.d.exts (ix.set ax i), el i) := List.zip_map' ..
  unfold scanBody
  simp only [hf, hdf, scanLine_eq, ← lineOf.eq_def, lineOf_length, zipIdx_map_range, List.map_map, hzip]
  rfl

/-- The code that SCAN gives at position e: its place in its line, from the codes and draws of that line. -/
theorem scanResults_code {x : ACtx} {ax n : Nat} {as : List Nat × List Bool} {rs : List Nat} {value : Nat → Nat}
    (hd : ∀ k, 1 ≤ src.d.ext k) (hax : ax < 5) (hn : n = src.d.exts.prod)
    (hv : ∀ e < n, (scanEl x f df (lineOf src.d ax as.1 (unlinear src.d.exts e))
      (lineOf src.d ax rs (unlinear src.d.exts e)) (placeOf src.d ax e)).code = value e) :
    (scanResults x f df src.d ax as rs n).map (·.code) = (List.range n).map value := by
  rw [scanResults, List.map_map]
  refine List.map_congr_left fun e he => ?_
  have hlt := List.mem_range.mp he
  refine scanLines_find hd hax (hn ▸ hlt) fun ix hix => ?_
  have hline (l : List Nat) : lineOf src.d ax l ix = lineOf src.d ax l (unlinear src.d.exts e) := by
    rw [lineOf, lineOf, axisLine, axisLine, ← hix]
    simp only [List.set_set]
  rw [← hv e hlt, scanCounted, hline, hline]
  rfl

/-- What SCAN leaves where its elements are those of `value`. -/
theorem exec_scan {obs : HwObs} {value : Nat → Nat} {g : Clu} (hs : s.sized) (hm : s.memOk = true)
    (hp : s.passes g 2 .scan obs = some (h, [src, dst], u)) (hf : src.d.format = some f) (hdf : dst.d.format = some df)
    (hext : src.d.exts = dst.d.exts) (hd : ∀ k, 1 ≤ src.d.ext k) (hax : h.lw.axis .scan < 5)
    (hv : ∀ e < src.d.exts.prod, (scanEl h.ctx f df
      (lineOf src.d (h.lw.axis .scan) (src.flushed u h.p g h.ctx).1 (unlinear src.d.exts e))
      (lineOf src.d (h.lw.axis .scan) (u.draws h.p g 2 256 dst.d.count (rootDraws h.ctx true f df)).1
        (unlinear src.d.exts e)) (placeOf src.d (h.lw.axis .scan) e)).code = value e) :
    ∃ t, exec (.scan g obs) s = .next t ∧ t.Issued u h g 2 .nothing ∧
      (t.str g 2).draws = ((u.draws h.p g 2 256 dst.d.count (rootDraws h.ctx true f df)).2.str g 2).draws ∧
      t.Wrote u h.p g [(dst, dst.cells ((List.range dst.d.count).map value))] := by
  have hn : dst.d.count = src.d.exts.prod := by rw [Desc.count, ← hext, List.prod_eq_foldl]
  have hop : h.op = .scan := passes_op hp
  obtain ⟨hissued, hwrote, hdraws⟩ := withArgs_drawnResults (idst := none) (cells := fun _ => []) g.isLt (by decide) hs hm
    hp nofun (scanBody_eq hf hdf)
  rw [hop, scanResults_code hd hax hn fun e he => hv e (he.trans_eq hn)] at hwrote
  exact ⟨_, rfl, hissued, hdraws, hwrote⟩

/-- The first places of a line. -/
theorem take_lineOf {d : Desc} {ax i : Nat} {l ix : List Nat} (hi : i < d.ext ax) :
    (lineOf d ax l ix).take (i + 1) = (List.range (i + 1)).map fun k => tget 0 l (linear d.exts (ix.set ax k)) := by
  rw [lineOf, axisLine, List.map_map, ← List.map_take, List.take_range, min_eq_left hi]
  rfl

/-- A line through position e holds at the place of e what stands there. -/
theorem tget_lineOf {l : List Nat} (hd : ∀ k, 1 ≤ d.ext k) (hax : ax < 5) (he : e < d.exts.prod) :
    tget 0 (lineOf d ax l (unlinear d.exts e)) (placeOf d ax e) = tget 0 l e := by
  have hlt : placeOf d ax e < (lineOf d ax l (unlinear d.exts e)).length := by
    rw [lineOf_length]
    exact placeOf_lt hd hax
  rw [tget, List.getD_eq_getElem _ _ hlt]
  simp only [lineOf, axisLine, List.getElem_map, List.getElem_range, set_placeOf hd hax, linear_unlinear he]

end

/-- Settles O49: TOPK and SORT write the sorted lines as they are; a scan finds every element in the line through its
position (`scanLines_find`). -/
theorem ordersAndScans : Obligations.OrdersAndScans := by
  intro s g obs h src dst idst u f df hs hm hf
  refine ⟨fun op c st hmem hp hi => ?_, fun hp hdf hint hext hd hax => ?_, fun hp hdf hint hext hd hax => ?_,
    fun cs desc => ⟨sortCodes_perm, sortCodes_pairwise⟩⟩
  · intro ax desc k cs lines out
    simp only [List.mem_cons, Prod.mk.injEq, List.not_mem_nil, or_false] at hmem
    obtain ⟨rfl, rfl, rfl⟩ | ⟨rfl, rfl, rfl⟩ := hmem
    · exact ⟨_, rfl, withArgs_wrArg_wrArg g.isLt (by decide) (by decide) hs hm hp hi (by simp only [orderBody, hf]; rfl)⟩
    · exact ⟨_, rfl, withArgs_wrArg_wrArg g.isLt (by decide) (by decide) hs hm hp hi (by simp only [orderBody, hf]; rfl)⟩
  · intro ax cs sum
    obtain ⟨t, ht, hissued, -, hwrote⟩ := exec_scan hs hm hp hf hdf hext hd hax
      (value := fun e => (narrowInt h.ctx df (sum e)).code) fun e he => by
        rw [scanEl, if_pos hint, take_lineOf (placeOf_lt hd hax), List.map_map]
        rfl
    exact ⟨t, ht, hissued, hwrote⟩
  · intro x ax cs ds ix axis levels value
    refine exec_scan hs hm hp hf hdf hext hd hax (value := value) fun e he => ?_
    rw [scanEl, if_neg (by simp [hint]), tget_lineOf hd hax he, lineOf, axisLine, List.map_map, List.map_map]
    rfl

end Sys2Proof.Machine

namespace Sys2Proof.Machine

/-! # The scrub (R432) -/

section

variable {s : State} {cs : List Nat} {keep : Bool} {x g r : Nat}

theorem unhold_frame : s.unhold cs = { s with poison := (s.unhold cs).poison, chans := (s.unhold cs).chans } := by
  refine foldl_keeps (fun t : State => t = { s with poison := t.poison, chans := t.chans }) _ _ s rfl fun t e ht => ?_
  split
  · rw [ht]
    rfl
  · exact ht

/-- What a scrub finds: the state with poison that court caches held written back, where it keeps dirty lines. -/
def State.scrubFrom (s : State) (cs : List Nat) (keep : Bool) : State := if keep then s.unhold cs else s

theorem scrubFrom_frame : s.scrubFrom cs keep =
    { s with poison := (s.scrubFrom cs keep).poison, chans := (s.scrubFrom cs keep).chans } := by
  unfold State.scrubFrom
  split
  · exact unhold_frame
  · rfl

/-- A scrub changes clusters, ports, courts, drills, poison marks and the tables of channels, nothing else. -/
theorem scrub_frame : s.scrub cs keep = { s with
    poison := (s.scrub cs keep).poison, chans := (s.scrub cs keep).chans, cl := (s.scrub cs keep).cl
    ports := (s.scrub cs keep).ports, courts := (s.scrub cs keep).courts, parts := (s.scrub cs keep).parts
    dev := { s.dev with drills := (s.scrub cs keep).dev.drills } } := by
  have h := scrubFrom_frame (s := s) (cs := cs) (keep := keep)
  have hs : s.scrub cs keep = { s.scrubFrom cs keep with
    cl := (s.scrub cs keep).cl, ports := (s.scrub cs keep).ports, courts := (s.scrub cs keep).courts
    parts := (s.scrub cs keep).parts
    dev := { (s.scrubFrom cs keep).dev with drills := (s.scrub cs keep).dev.drills } } := rfl
  have hp : (s.scrub cs keep).poison = (s.scrubFrom cs keep).poison := rfl
  have hc : (s.scrub cs keep).chans = (s.scrubFrom cs keep).chans := rfl
  rw [hp, hc]
  refine hs.trans ?_
  rw [h]

theorem tget_zipIdx_map {α : Type} {d : α} {l : List α} {f : α × Nat → α} {i : Nat} (hi : i < l.length) :
    tget d (l.zipIdx.map f) i = f (tget d l i, i) := by
  simp [tget, List.getD_eq_getElem?_getD, hi]

theorem tget_zipIdx_map_of_eq {α : Type} {d : α} {l : List α} {f : α × Nat → α} {i : Nat} (hf : ∀ a, f (a, i) = a) :
    tget d (l.zipIdx.map f) i = tget d l i := by
  simp only [tget, List.getD_eq_getElem?_getD, List.getElem?_map, List.getElem?_zipIdx]
  cases l[i]? with
  | none => rfl
  | some a => simp [hf]

theorem scrub_part : (s.scrub cs keep).part r =
    { s.part r with drill := (s.part r).drill.map fun j => j.without cs } := by
  have hp : (s.scrub cs keep).parts = s.parts.map fun q : Partition =>
      { q with drill := q.drill.map fun j => j.without cs } := by
    change (s.scrubFrom cs keep).parts.map _ = _
    rw [scrubFrom_frame]
  rw [State.part, hp]
  simp only [State.part, tget, List.getD_eq_getElem?_getD, List.getElem?_map]
  cases s.parts[r]? <;> rfl

theorem scrub_clu (hg : g < s.cl.length) (hc : g / 12 ∈ cs) : (s.scrub cs keep).clu g = (s.clu g).scrubbed := by
  have hcl : (s.scrub cs keep).cl = s.cl.zipIdx.map fun k =>
      if cs.contains (k.2 / 12) then k.1.scrubbed else k.1 := by
    change (s.scrubFrom cs keep).cl.zipIdx.map _ = _
    rw [scrubFrom_frame]
  rw [State.clu, hcl, tget_zipIdx_map hg]
  simp [hc, State.clu]

theorem scrub_port_ne (hx : x ∉ cs) : (s.scrub cs keep).port x = s.port x := by
  have hports : (s.scrub cs keep).ports = s.ports.zipIdx.map fun q =>
      if cs.contains q.2 then q.1.scrubbed else q.1 := by
    change (s.scrubFrom cs keep).ports.zipIdx.map _ = _
    rw [scrubFrom_frame]
  rw [State.port, hports, tget_zipIdx_map_of_eq fun a => by simp [hx]]
  rfl

theorem scrub_rdDa {a : Nat} : (s.scrub cs keep).rdDa a = s.rdDa a := by
  rw [scrub_frame]
  rfl

theorem scrub_extest : (s.scrub cs keep).extest = s.extest := by
  rw [scrub_frame]
  rfl

theorem scrub_dfault : (s.scrub cs keep).dev.dfault = s.dev.dfault := by
  rw [scrub_frame]

theorem DrillJob.without_congr {j : DrillJob} {ds : List Nat} (h : ∀ c, c ∈ cs ↔ c ∈ ds) :
    j.without cs = j.without ds := by
  have hc (c : Nat) : cs.contains c = ds.contains c := by
    rw [Bool.eq_iff_iff]
    simpa using h c
  simp only [DrillJob.without, hc]

end

/-! # `part` and `free` (R303, R304) -/

section

variable {s t : State} {cs : List Nat} {x c r : Nat} {p : Part} {l : LineCtx}

/-! ## The partitions of a device -/

theorem parts_length (hs : s.sized = true) : s.parts.length = 8 := by
  obtain ⟨-, hparts, -⟩ := sized_iff.mp hs
  exact hparts

theorem part_lt_length (hs : s.sized = true) : p.val < s.parts.length := by
  rw [parts_length hs]
  exact p.isLt

theorem part_mem (hs : s.sized = true) : s.part p ∈ s.parts := by
  rw [State.part, tget, List.getD_eq_getElem _ _ (part_lt_length hs)]
  exact List.getElem_mem _

/-! ## Courts in ascending order -/

theorem mem_insSorted {a : Nat} {m : List Nat} : c ∈ insSorted a m ↔ c = a ∨ c ∈ m := by
  induction m with
  | nil => simp [insSorted]
  | cons k r ih =>
    unfold insSorted
    split
    · simp
    · split
      next h => simp [h]
      · rw [List.mem_cons, ih, List.mem_cons]
        tauto

theorem insSorted_pairwise {a : Nat} {m : List Nat} (h : m.Pairwise (· < ·)) : (insSorted a m).Pairwise (· < ·) := by
  induction m with
  | nil => exact List.pairwise_singleton _ _
  | cons k r ih =>
    obtain ⟨hk, hr⟩ := List.pairwise_cons.mp h
    unfold insSorted
    split
    next hlt =>
      refine List.pairwise_cons.mpr ⟨fun b hb => ?_, h⟩
      rcases List.mem_cons.mp hb with rfl | hb
      · exact hlt
      · exact hlt.trans (hk b hb)
    next hge =>
      split
      · exact h
      next hne =>
        refine List.pairwise_cons.mpr ⟨fun b hb => ?_, ih hr⟩
        rcases mem_insSorted.mp hb with rfl | hb
        · omega
        · exact hk b hb

/-- Courts in ascending order, as `part` keeps them. -/
def ascending (cs : List Nat) : List Nat := cs.foldl (fun l c => insSorted c l) []

theorem ascending_pairwise : (ascending cs).Pairwise (· < ·) :=
  foldl_keeps (fun m : List Nat => m.Pairwise (· < ·)) _ cs [] List.Pairwise.nil fun _ _ => insSorted_pairwise

theorem mem_foldl_insSorted {m : List Nat} : c ∈ cs.foldl (fun l c => insSorted c l) m ↔ c ∈ cs ∨ c ∈ m := by
  induction cs generalizing m with
  | nil => simp
  | cons a r ih =>
    rw [List.foldl_cons, ih, mem_insSorted, List.mem_cons]
    tauto

theorem mem_ascending : c ∈ ascending cs ↔ c ∈ cs := by simp [ascending, mem_foldl_insSorted]

/-! ## Ports that train and ports that are held down -/

theorem foldl_train_sameButPorts : SameButPorts s (cs.foldl (fun s c => s.train c) s) :=
  foldl_keeps (SameButPorts s) _ _ s rfl fun t c h => h.trans (train_sameButPorts t c)

theorem SameButPorts.extest (h : SameButPorts s t) : t.extest = s.extest := by
  rw [h]
  rfl

theorem foldl_train_port_ne (hx : x ∉ cs) : (cs.foldl (fun s c => s.train c) s).port x = s.port x := by
  induction cs generalizing s with
  | nil => rfl
  | cons c r ih =>
    obtain ⟨hc, hr⟩ : x ≠ c ∧ x ∉ r := by simpa using hx
    exact (ih hr).trans (port_train_ne hc.symm)

theorem foldl_train_port (hs : s.sized) (h8 : ∀ c ∈ cs, c < 8) (hc : c ∈ cs) :
    ((cs.foldl (fun s c => s.train c) s).port c).st = (if s.extest then .down else .training) ∧
      ((cs.foldl (fun s c => s.train c) s).port c).hold = false := by
  induction cs generalizing s with
  | nil => cases hc
  | cons a r ih =>
    obtain ⟨ha, hr⟩ := List.forall_mem_cons.mp h8
    rw [List.foldl_cons]
    by_cases hcr : c ∈ r
    · have h := ih (s := s.train a) (train_sized hs) hr hcr
      rwa [(train_sameButPorts s a).extest] at h
    · obtain rfl : c = a := (List.mem_cons.mp hc).resolve_right hcr
      obtain ⟨hst, hhold, -⟩ := train_port hs ha
      rw [foldl_train_port_ne hcr]
      exact ⟨hst, hhold⟩

/-! ## part -/

/-- The state in which a defined partition's ports begin to train (R303). -/
def State.defining (s : State) (p : Nat) (cs : List Nat) (il : Bool) : State :=
  (s.scrub cs true).updPart p fun q => q.defined cs il s.gradeMax

theorem verbPart_eq {courts : List Court} {il e : Bool} (hr : s.isReady = true) (hf : (s.part p).stat = .free)
    (ho : ∀ c ∈ courts, s.owner c.val = none) (hne : courts ≠ []) (hn : courts.Nodup) :
    let cs := ascending (courts.map (·.val))
    verbPart l p courts il s e =
      if e then (s.scrub cs true).deviceFault 7
      else (cs.foldl (fun s c => s.train c) (s.defining p cs il)).ok 8 l [nameN "p" p, kv "courts" (courtList cs),
        kv "il" (asc (if il then "on" else "off")), kv "size" (dec (3 * cs.length) ++ asc "g")] := by
  intro cs
  have hown : ((courts.map (·.val)).any fun c => (s.owner c).isSome) = false := by
    simpa [List.any_eq_false] using ho
  have hnd : (courts.map (·.val)).Nodup := hn.map Fin.val_injective
  unfold verbPart
  simp [hr, hf, hown, hne, length_eraseDups_eq_iff.mpr hnd]
  rfl

theorem SameButTalk.clu (h : SameButTalk s t) (g : Nat) : t.clu g = s.clu g := by
  rw [h]
  rfl

theorem SameButTalk.part (h : SameButTalk s t) (r : Nat) : t.part r = s.part r := by
  rw [h]
  rfl

theorem SameButTalk.rdDa (h : SameButTalk s t) (a : Nat) : t.rdDa a = s.rdDa a := by
  rw [h]
  rfl

theorem SameButPorts.part (h : SameButPorts s t) (r : Nat) : t.part r = s.part r := by
  rw [h]
  rfl

theorem SameButPorts.clu (h : SameButPorts s t) (g : Nat) : t.clu g = s.clu g := by
  rw [h]
  rfl

theorem SameButPorts.rdDa (h : SameButPorts s t) (a : Nat) : t.rdDa a = s.rdDa a := by
  rw [h]
  rfl

theorem defining_sized {il : Bool} {q : Nat} (hs : s.sized) : (s.defining q cs il).sized :=
  updPart_sized (scrub_sized hs) fun _ => rfl

theorem drill_without_ascending {q : Partition} :
    ({ q with drill := q.drill.map fun j => j.without (ascending cs) } : Partition) =
      { q with drill := q.drill.map fun j => j.without cs } := by
  simp only [DrillJob.without_congr fun c => mem_ascending (cs := cs)]

/-- R303: what `part` leaves of the partition, of the others and of device memory, `t` being any state that differs from
the one in which its ports have begun to train by what was said. -/
theorem part_defined {courts : List Court} {il : Bool} (hs : s.sized)
    (hcs : cs = ascending (courts.map (·.val)))
    (ht : SameButTalk (cs.foldl (fun s c => s.train c) (s.defining p cs il)) t) :
    (t.part p).courts.Pairwise (· < ·) ∧ (∀ c, c ∈ (t.part p).courts ↔ ∃ k ∈ courts, k.val = c) ∧
      (t.part p).state = 1 ∧ (t.part p).il = il ∧ (t.part p).mhz = s.gradeMax ∧ (t.part p).set = {} ∧
      (t.part p).session = none ∧
      (∀ c ∈ courts, (t.port c).st = (if s.extest then .down else .training) ∧ (t.port c).hold = false) ∧
      (∀ g < 96, (∃ c ∈ courts, c.val = g / 12) → (t.clu g).sp = [] ∧ (t.clu g).vr = [] ∧ (t.clu g).icache = []) ∧
      (∀ x, (∀ c ∈ courts, c.val ≠ x) → t.port x = s.port x) ∧
      (∀ r, r ≠ p.val → t.part r =
        { s.part r with drill := (s.part r).drill.map fun j => j.without (courts.map (·.val)) }) ∧
      ∀ a, t.rdDa a = s.rdDa a := by
  have hmem (c : Nat) : c ∈ cs ↔ ∃ k ∈ courts, k.val = c := by
    rw [hcs, mem_ascending, List.mem_map]
  have hpair : cs.Pairwise (· < ·) := hcs ▸ ascending_pairwise
  have h8 : ∀ c ∈ cs, c < 8 := fun c hc => by
    obtain ⟨k, -, rfl⟩ := (hmem c).mp hc
    exact k.isLt
  have hext : (s.defining p cs il).extest = s.extest := scrub_extest
  have htrain := foldl_train_sameButPorts (s := s.defining p cs il) (cs := cs)
  have hlen := part_lt_length (p := p) (scrub_sized (cs := cs) (keep := true) hs)
  have hp : t.part p = ((s.scrub cs true).part p).defined cs il s.gradeMax := by
    rw [ht.part, htrain.part, State.defining, part_updPart_same _ _ _ hlen]
  rw [hp]
  refine ⟨hpair, hmem, rfl, rfl, rfl, rfl, rfl, fun c hc => ?_, fun g hg hc => ?_, fun x hx => ?_,
    fun r hr => ?_, fun a => ?_⟩
  · rw [ht.port, ← hext]
    exact foldl_train_port (defining_sized hs) h8 ((hmem c).mpr ⟨c, hc, rfl⟩)
  · have hclu : t.clu g = (s.clu g).scrubbed := by
      rw [ht.clu, htrain.clu, State.defining, clu_updPart, scrub_clu (cl_length hs hg) ((hmem _).mpr hc)]
    rw [hclu]
    exact ⟨rfl, rfl, rfl⟩
  · have hx' : x ∉ cs := fun hm => by
      obtain ⟨k, hk, he⟩ := (hmem x).mp hm
      exact hx k hk he
    rw [ht.port, foldl_train_port_ne hx', State.defining, port_updPart, scrub_port_ne hx']
  · rw [ht.part, htrain.part, State.defining, part_updPart_ne _ _ _ _ hr.symm, scrub_part, hcs, drill_without_ascending]
  · rw [ht.rdDa, htrain.rdDa]
    exact scrub_rdDa

/-! ## A device fault in a scrub (R434, R452) -/

/-- A loop whose steps keep a property, and one of whose steps brings about another that they keep too. -/
theorem foldl_reaches {β γ : Type} {P Q : γ → Prop} {f : γ → β → γ} {l : List β} {s : γ} {a : β} (ha : a ∈ l)
    (h : P s) (hP : ∀ s b, P s → P (f s b)) (hQ : ∀ s b, Q s → Q (f s b)) (hPQ : ∀ s, P s → Q (f s a)) :
    Q (l.foldl f s) := by
  induction l generalizing s with
  | nil => cases ha
  | cons b r ih =>
    rcases List.mem_cons.mp ha with rfl | hr
    · exact foldl_keeps Q f r _ (hPQ s h) hQ
    · exact ih hr (hP s b h)

theorem foldl_dfault {β : Type} {f : State → β → State} {l : List β}
    (hf : ∀ t b, (f t b).dev.dfault = t.dev.dfault) : (l.foldl f s).dev.dfault = s.dev.dfault :=
  foldl_keeps (·.dev.dfault = s.dev.dfault) f l s rfl fun t b h => (hf t b).trans h

theorem SameButPorts.dfault (h : SameButPorts s t) : t.dev.dfault = s.dev.dfault := by rw [h]

@[simp] theorem freeBuf_dfault {f : Frame} : (s.freeBuf x f).dev.dfault = s.dev.dfault :=
  (freeBuf_sameButPorts s x f).dfault

@[simp] theorem route_dfault {q : Nat} {f : Frame} : (s.route q f).dev.dfault = s.dev.dfault := route_sameButPorts.dfault

@[simp] theorem readRsp_dfault {q dst tid st : Nat} : (s.readRsp q dst tid st).dev.dfault = s.dev.dfault := by
  unfold State.readRsp
  split <;> simp

@[simp] theorem mark_dfault {line : Nat} {k : Cause} : (s.mark line k).dev.dfault = s.dev.dfault := by
  unfold State.mark
  dsimp only
  split
  · rfl
  · split <;> rfl

@[simp] theorem unwrite_dfault {o : OldByte} : (s.unwrite o).dev.dfault = s.dev.dfault := by
  unfold State.unwrite
  split
  · dsimp only
    split <;> simp
  · rfl

@[simp] theorem abandonWrites_dfault {es : List (Undo × Nat)} {ws : List (Option Nat × Nat)} :
    (s.abandonWrites es ws).dev.dfault = s.dev.dfault := by
  induction es generalizing s ws with
  | nil => rfl
  | cons e r ih => exact ih.trans (foldl_dfault fun _ _ => unwrite_dfault)

@[simp] theorem abandonAll_dfault {q : Nat} : (s.abandonAll q).dev.dfault = s.dev.dfault := by
  unfold State.abandonAll
  dsimp only
  split
  · rfl
  · exact abandonWrites_dfault

@[simp] theorem stopEngines_dfault {q : Nat} : (s.stopEngines q).dev.dfault = s.dev.dfault := by
  unfold State.stopEngines
  extract_lets t u
  have hu : u.dev.dfault = t.dev.dfault := foldl_dfault fun _ _ => rfl
  exact hu.trans abandonAll_dfault

@[simp] theorem suspect_dfault {q g : Nat} {hit : Bool} : (s.suspect q g hit).dev.dfault = s.dev.dfault := by
  unfold State.suspect
  split <;> rfl

@[simp] theorem dropRally_dfault {q : Nat} : (s.dropRally q).dev.dfault = s.dev.dfault := by
  unfold State.dropRally
  extract_lets t asks u v
  have ht : t.dev.dfault = s.dev.dfault := foldl_dfault fun _ _ => suspect_dfault
  have hu : u.dev.dfault = t.dev.dfault := foldl_dfault fun w x => foldl_dfault fun _ _ => freeBuf_dfault
  have hv : v.dev.dfault = u.dev.dfault := foldl_dfault fun _ _ => readRsp_dfault
  exact hv.trans (hu.trans ht)

@[simp] theorem floodAbort_dfault {q code : Nat} : (s.floodAbort q code).dev.dfault = s.dev.dfault := by
  unfold State.floodAbort
  split
  · exact foldl_dfault fun _ _ => route_dfault
  · rfl

@[simp] theorem lateErr_dfault {q n : Nat} : (s.lateErr q n).dev.dfault = s.dev.dfault := by
  unfold State.lateErr
  split <;> rfl

@[simp] theorem latchAll_dfault {q : Nat} {errs : List HwErr} : (s.latchAll q errs).dev.dfault = s.dev.dfault := by
  unfold State.latchAll
  dsimp only
  split
  · rfl
  · split
    · simp
    · split <;> simp

@[simp] theorem deviceLatch_dfault {cause q : Nat} : (s.deviceLatch cause q).dev.dfault = s.dev.dfault := by
  unfold State.deviceLatch
  split <;> simp [State.latch]

@[simp] theorem endRun_dfault {q status code : Nat} {run : Running} {line : List Byte} {fv : Bool} :
    (s.endRun q run status code line fv).dev.dfault = s.dev.dfault :=
  foldl_dfault fun _ _ => rfl

@[simp] theorem keepCopy_dfault {q : Nat} : (s.keepCopy q).dev.dfault = s.dev.dfault := by
  unfold State.keepCopy
  split <;> simp

@[simp] theorem cutFlash_dfault : s.cutFlash.dev.dfault = s.dev.dfault := by
  unfold State.cutFlash
  split <;> rfl

theorem cutFlash_part : s.cutFlash.part r = s.part r := by
  unfold State.cutFlash
  split <;> rfl

theorem SameButTalk.dfault (h : SameButTalk s t) : t.dev.dfault = s.dev.dfault := by rw [h]

theorem event_sameButTalk {line : List Byte} : SameButTalk s (s.event line) :=
  (emit_w8_sameButTalk.trans emit_w8_sameButTalk).trans msix_sameButTalk

/-- Every partition after a device fault has latched in it and its running launch is copied (R331, R452). -/
def State.deviceLatched (s : State) (cause : Nat) : State :=
  (List.range 8).foldl (fun s p => (s.deviceLatch cause p).keepCopy p) s

/-- A state in which a first device fault is recorded (R452). -/
def State.withFault (s : State) (cause : Nat) : State :=
  s.updDev fun d => { d with dfault := some cause, dead := false, dfCount := satAdd 0xFFFF d.dfCount 1, lastDf := cause }

theorem withFault_part {cause : Nat} : (s.withFault cause).part r = s.part r := rfl

/-! ## What a parser waits for, when something is sent -/

theorem busy_updWin {w k : Nat} {f : Window → Window} (hf : ∀ q : Window, (f q).busy = q.busy) :
    ((s.updWin w f).win k).busy = (s.win k).busy := by
  rw [State.win, State.win, State.updWin, tget, tget, List.getD_eq_getElem?_getD, List.getD_eq_getElem?_getD,
    List.getElem?_modify]
  cases s.windows[k]? with
  | none => rfl
  | some q =>
    by_cases hk : w = k
    · simpa [hk] using hf q
    · simp [hk]

theorem msix_win {v k : Nat} : (s.msix v).win k = s.win k := by
  rw [msix_frame]
  rfl

theorem replyPut_busy {w k : Nat} {b : List Byte} : ((s.replyPut w b).win k).busy = (s.win k).busy := by
  unfold State.replyPut
  dsimp only
  split
  · split
    · rw [msix_win]
      exact busy_updWin fun _ => rfl
    · exact busy_updWin fun _ => rfl
  · exact busy_updWin fun _ => rfl

theorem emit_busy {w k : Nat} {u : Bool} {b : List Byte} : ((s.emit w u b).win k).busy = (s.win k).busy := by
  have hc : (s.countLine w).win k = s.win k := by
    rw [countLine_frame]
    rfl
  unfold State.emit State.deliver
  split
  · rw [uartSend_frame]
    exact congrArg Window.busy hc
  · rw [replyPut_busy, hc]

theorem ok_busy {w k : Nat} {ks : List (List Byte)} : ((s.ok w l ks).win k).busy = (s.win k).busy := emit_busy

theorem event_busy {k : Nat} {b : List Byte} : ((s.event b).win k).busy = (s.win k).busy := by
  rw [State.event, msix_win, emit_busy, emit_busy]

theorem tget_map_of_eq {α β : Type} {d : α} {b : β} {l : List α} {f : α → β} {i : Nat} (hd : f d = b) :
    tget b (l.map f) i = f (tget d l i) := by
  simp only [tget, List.getD_eq_getElem?_getD, List.getElem?_map]
  cases l[i]? with
  | none => exact hd.symm
  | some a => rfl

/-- What a first device fault leaves beside what it sends: every partition has taken it, and no parser waits (R452, R454). -/
theorem deviceFault_of_none {cause : Nat} (h : s.dev.dfault = none) :
    let u := (s.withFault cause).deviceLatched cause
    (s.deviceFault cause).dev.dfault = u.dev.dfault ∧ (∀ r, (s.deviceFault cause).part r = u.part r) ∧
      ((s.deviceFault cause).win 8).busy = none := by
  intro u
  unfold State.deviceFault
  rw [if_neg (by simp [h])]
  extract_lets t u' v w x
  have hu : u' = u := rfl
  rw [← hu]
  clear_value u'
  have hdw : w.dev.dfault = u'.dev.dfault := cutFlash_dfault (s := u')
  have hpw (r : Nat) : w.part r = u'.part r := cutFlash_part (s := u')
  have hbw : (w.win 8).busy = none := congrArg Window.busy (tget_map_of_eq (d := ({} : Window)) rfl)
  have hx : x.dev = w.dev ∧ x.parts = w.parts ∧ x.windows = w.windows := by
    unfold x
    split
    · exact ⟨rfl, rfl, rfl⟩
    · exact ⟨rfl, rfl, rfl⟩
  clear_value x w
  obtain ⟨hdev, hparts, hwin⟩ := hx
  rw [if_neg (by decide)]
  refine ⟨?_, fun r => ?_, ?_⟩
  · rw [event_sameButTalk.dfault, hdev, hdw]
  · rw [event_sameButTalk.part, State.part, hparts, ← State.part, hpw]
  · rw [event_busy, State.win, hwin, ← State.win, hbw]

theorem deviceLatched_dfault {cause : Nat} : (s.deviceLatched cause).dev.dfault = s.dev.dfault := by
  unfold State.deviceLatched
  generalize List.range 8 = l
  exact foldl_dfault fun t p => keepCopy_dfault.trans deviceLatch_dfault

theorem deviceFault_dfault {cause : Nat} (h : s.dev.dfault = none) : (s.deviceFault cause).dev.dfault = some cause := by
  rw [(deviceFault_of_none h).1, deviceLatched_dfault]
  rfl

theorem endRun_part_ne {q status code : Nat} {run : Running} {line : List Byte} {fv : Bool} (hr : r ≠ q) :
    (s.endRun q run status code line fv).part r = s.part r := by
  unfold State.endRun
  extract_lets sum copy rep u
  have hu : u.part r = s.part r := by
    refine foldl_keeps (fun t : State => t.part r = s.part r) _ _ s rfl fun t g h => ?_
    exact h
  exact (part_updPart_ne u q r _ hr.symm).trans hu

theorem keepCopy_part_ne {q : Nat} (hr : r ≠ q) : (s.keepCopy q).part r = s.part r := by
  unfold State.keepCopy
  split
  · rw [part_updPart_ne _ _ _ _ hr.symm, endRun_part_ne hr]
  · rfl

theorem lateErr_part_ne {q n : Nat} (hr : r ≠ q) : (s.lateErr q n).part r = s.part r := by
  unfold State.lateErr
  split
  · rfl
  · exact part_updPart_ne s q r _ hr.symm

theorem deviceLatch_part_ne {cause q : Nat} (hr : r ≠ q) : (s.deviceLatch cause q).part r = s.part r := by
  unfold State.deviceLatch
  split
  · rfl
  next hup =>
    have hmay : (s.part q).mayLatch (errOf 0x1F 0x0D 0 2 15 cause).code = true := by
      simp [Partition.mayLatch, hup, errOf]
    exact ((latch_stops hmay).others r hr).trans (part_updPart_ne s q r _ hr.symm)
  · rw [part_updPart_ne _ _ _ _ hr.symm, lateErr_part_ne hr]

/-- The tally copy of a launch that ends (R331). -/
def State.tallyCopy (s : State) (q : Nat) (run : Running) : TallyCopy :=
  { tag := run.la.ctx.tag, seq := run.la.seq, sum := s.tallySum q, sets := s.tallySets q, name := s.hints q run.la.b }

theorem endRun_part {q status code : Nat} {run : Running} {line : List Byte} {fv : Bool} (hq : q < s.parts.length) :
    (s.endRun q run status code line fv).part q = { s.part q with
      run := none, copy := some (s.tallyCopy q run)
      reports := (s.part q).reports ++
        [launchReport run.la status code run.suspect (s.tallySum q) s.runtime line fv] } := by
  unfold State.endRun
  extract_lets sum copy rep u
  have hu : u.parts = s.parts := by
    refine foldl_keeps (fun t : State => t.parts = s.parts) _ _ s rfl fun t g h => ?_
    exact h
  have hpart : u.part q = s.part q := by rw [State.part, hu, State.part]
  rw [part_fresh, part_updPart_same u q _ (by rwa [hu]), hpart]
  rfl

theorem keepCopy_stat {q : Nat} (hs : s.sized = true) (hq : q < 8) : ((s.keepCopy q).part q).stat = (s.part q).stat := by
  have hlen : q < s.parts.length := by rwa [parts_length hs]
  unfold State.keepCopy
  split
  next run _ =>
    rw [part_updPart_same _ _ _ (by rwa [parts_length (endRun_sized hs)]), endRun_part hlen]
  · rfl

/-- A partition in use or in reset takes a device fault: it is FAULTED. -/
theorem deviceLatch_stat {cause q : Nat} (hs : s.sized = true) (hq : q < 8) (hf : (s.part q).stat ≠ .free)
    (hup : (s.part q).stat ≠ .up) : ((s.deviceLatch cause q).part q).stat = .faulted := by
  unfold State.deviceLatch
  split
  next h => exact absurd h hf
  next h => exact absurd h hup
  · rw [part_updPart_same _ _ _ (by rwa [parts_length (lateErr_sized hs)])]

theorem deviceLatched_stat {cause q : Nat} (hs : s.sized = true) (hq : q < 8) (hf : (s.part q).stat ≠ .free)
    (hup : (s.part q).stat ≠ .up) : ((s.deviceLatched cause).part q).stat = .faulted := by
  have hstep (t : State) (r : Nat) (ht : t.sized = true) : ((t.deviceLatch cause r).keepCopy r).sized = true :=
    keepCopy_sized (deviceLatch_sized ht)
  have hsame (t : State) (ht : t.sized = true) (h1 : (t.part q).stat ≠ .free) (h2 : (t.part q).stat ≠ .up) :
      (((t.deviceLatch cause q).keepCopy q).part q).stat = .faulted :=
    (keepCopy_stat (deviceLatch_sized ht) hq).trans (deviceLatch_stat ht hq h1 h2)
  have hne (t : State) (r : Nat) (hr : q ≠ r) : ((t.deviceLatch cause r).keepCopy r).part q = t.part q :=
    (keepCopy_part_ne hr).trans (deviceLatch_part_ne hr)
  refine (foldl_reaches (P := fun t : State => t.sized = true ∧ (t.part q).stat ≠ .free ∧ (t.part q).stat ≠ .up)
    (Q := fun t : State => t.sized = true ∧ (t.part q).stat = .faulted) (List.mem_range.mpr hq) ⟨hs, hf, hup⟩ ?_ ?_ ?_).2
  · rintro t r ⟨ht, h1, h2⟩
    refine ⟨hstep t r ht, ?_⟩
    by_cases hr : q = r
    · subst hr
      simp [hsame t ht h1 h2]
    · rw [hne t r hr]
      exact ⟨h1, h2⟩
  · rintro t r ⟨ht, h1⟩
    refine ⟨hstep t r ht, ?_⟩
    by_cases hr : q = r
    · subst hr
      exact hsame t ht (by simp [h1]) (by simp [h1])
    · rw [hne t r hr, h1]
  · rintro t ⟨ht, h1, h2⟩
    exact ⟨hstep t q ht, hsame t ht h1 h2⟩

theorem isReady_dfault (h : s.isReady = true) : s.dev.dfault = none := by
  simp only [State.isReady, Bool.and_eq_true, Option.isNone_iff_eq_none] at h
  exact h.2

theorem freeOk_ready {q : Nat} (h : s.freeOk q = true) : s.isReady = true ∧ (s.part q).stat = .up := by
  simp only [State.freeOk, Bool.and_eq_true, Bool.or_eq_true, beq_iff_eq] at h
  obtain ⟨⟨⟨hr, hstate⟩, -⟩, -⟩ := h
  refine ⟨hr, ?_⟩
  unfold Partition.state at hstate
  split at hstate
  · simp at hstate
  · simp at hstate
  · simp at hstate
  · assumption

theorem state_eq_zero {q : Partition} (h : q.stat = .free) : q.state = 0 := by simp [Partition.state, h]
theorem state_eq_four {q : Partition} (h : q.stat = .faulted) : q.state = 4 := by simp [Partition.state, h]
theorem state_eq_five {q : Partition} (h : q.stat = .resetting) : q.state = 5 := by simp [Partition.state, h]

/-- R434: an error in the scrub of `part` is a device fault, and the partition stays FREE. -/
theorem part_scrubError (hr : s.isReady = true) (hf : (s.part p).stat = .free) :
    ((s.scrub cs true).deviceFault 7).dev.dfault = some 7 ∧ (((s.scrub cs true).deviceFault 7).part p).state = 0 := by
  have htenure := tenure_of_charter (s := s) (t := (s.scrub cs true).deviceFault 7) (by simp) p
  have hfree : (((s.scrub cs true).deviceFault 7).part p).stat = .free := by
    have h := congrArg Prod.snd htenure
    simpa [Partition.tenure, hf] using h
  exact ⟨deviceFault_dfault (scrub_dfault.trans (isReady_dfault hr)), state_eq_zero hfree⟩

/-! ## free -/

/-- A partition out of use, its courts' dirty lines lost, before its memory is zeroed (R304). -/
def State.outOfUse (s : State) (p : Nat) : State :=
  ((s.dropRally p).updPart p fun q => { q with stat := .resetting, phase := .none, signals := [] }).scrub
    (s.part p).courts false

theorem verbFree_eq {e : Bool} (h : s.freeOk p = true) : verbFree l p s e =
    if e then (s.outOfUse p).deviceFault 7
    else (s.outOfUse p).updWin 8 fun w => { w with busy := some (.freeing l p) } := by
  unfold verbFree
  simp only [h, Bool.not_true, Bool.false_eq_true, if_false]
  rfl

theorem outOfUse_sized (hs : s.sized = true) : (s.outOfUse p).sized = true :=
  scrub_sized (updPart_sized (dropRally_sized hs) id)

theorem outOfUse_part (hs : s.sized = true) : ((s.outOfUse p).part p).stat = .resetting ∧
    ((s.outOfUse p).part p).courts = (s.part p).courts := by
  have hlen := part_lt_length (p := p) (dropRally_sized (p := p) hs)
  have hstops : (s.part p).Stops ((s.dropRally p).part p) := dropRally_stops.part
  rw [State.outOfUse, scrub_part, part_updPart_same _ _ _ hlen, hstops]
  exact ⟨rfl, rfl⟩

theorem outOfUse_part_ne (hr : r ≠ p.val) : (s.outOfUse p).part r =
    { s.part r with drill := (s.part r).drill.map fun j => j.without (s.part p).courts } := by
  rw [State.outOfUse, scrub_part, part_updPart_ne _ _ _ _ hr.symm, dropRally_stops.others r hr]

theorem rdDa_of_mems {a : Nat} (h : t.mems = s.mems) : t.rdDa a = s.rdDa a := by
  have hd : t.dram = s.dram := congrArg Mems.dram h
  rw [State.rdDa, hd, State.rdDa]

theorem rdDa_updPart {a : Nat} {f : Partition → Partition} : (s.updPart r f).rdDa a = s.rdDa a := rfl
theorem dfault_updPart {f : Partition → Partition} : (s.updPart r f).dev.dfault = s.dev.dfault := rfl

theorem outOfUse_rdDa {a : Nat} : (s.outOfUse p).rdDa a = s.rdDa a := by
  rw [State.outOfUse, scrub_rdDa, rdDa_updPart, rdDa_of_mems dropRally_mems]

theorem outOfUse_dfault : (s.outOfUse p).dev.dfault = s.dev.dfault := by
  rw [State.outOfUse, scrub_dfault, dfault_updPart, dropRally_dfault]

theorem rdDa_updWin {w a : Nat} {f : Window → Window} : (s.updWin w f).rdDa a = s.rdDa a := rfl

/-- R304: what `free` leaves until the memory is zeroed. -/
theorem free_begins (hs : s.sized = true) (h : s.freeOk p = true) :
    ((verbFree l p s).part p).state = 5 ∧ ((verbFree l p s).part p).courts = (s.part p).courts ∧
      ((verbFree l p s).win 8).busy = some (.freeing l p) ∧
      (∀ r, r ≠ p.val → (verbFree l p s).part r =
        { s.part r with drill := (s.part r).drill.map fun j => j.without (s.part p).courts }) ∧
      ∀ a, (verbFree l p s).rdDa a = s.rdDa a := by
  obtain ⟨hstat, hcourts⟩ := outOfUse_part (p := p) hs
  obtain ⟨hwin, -⟩ := sized_iff.mp (outOfUse_sized (p := p) hs)
  rw [verbFree_eq h, if_neg Bool.false_ne_true]
  simp only [part_updWin, rdDa_updWin, outOfUse_rdDa]
  refine ⟨state_eq_five hstat, hcourts, ?_, fun r hr => outOfUse_part_ne hr, fun _ => trivial⟩
  rw [win_updWin_same _ _ _ (by omega)]

/-- R434: an error in the scrub of `free` is a device fault, which leaves the partition FAULTED and the parser free. -/
theorem free_scrubError (hs : s.sized = true) (h : s.freeOk p = true) :
    (verbFree l p s true).dev.dfault = some 7 ∧ ((verbFree l p s true).part p).state = 4 ∧
      ((verbFree l p s true).win 8).busy = none := by
  obtain ⟨hr, -⟩ := freeOk_ready h
  obtain ⟨hstat, -⟩ := outOfUse_part (p := p) hs
  have hnone : (s.outOfUse p).dev.dfault = none := outOfUse_dfault.trans (isReady_dfault hr)
  obtain ⟨-, hpart, hbusy⟩ := deviceFault_of_none (cause := 7) hnone
  have hstat' : (((s.outOfUse p).withFault 7).part p).stat = .resetting := by rw [withFault_part, hstat]
  have hfaulted : ((((s.outOfUse p).withFault 7).deviceLatched 7).part p).stat = .faulted :=
    deviceLatched_stat (updDev_sized (outOfUse_sized hs)) p.isLt (by simp [hstat']) (by simp [hstat'])
  rw [verbFree_eq h, if_pos rfl]
  exact ⟨deviceFault_dfault hnone, state_eq_four ((congrArg Partition.stat (hpart p)).trans hfaulted), hbusy⟩

/-! ## The end of free -/

theorem spGet_spDrop {α : Type} {d : α} {f : Nat → Bool} {m : List (Nat × α)} {a : Nat} :
    spGet d (spDrop f m) a = if f a then d else spGet d m a := by
  induction m with
  | nil => simp [spDrop, spGet]
  | cons e m ih =>
    obtain ⟨k, v⟩ := e
    unfold spDrop at ih ⊢
    by_cases hk : f k = true
    · rw [List.filter_cons_of_neg (by simpa using hk), ih, spGet]
      by_cases ha : a = k
      · simp [ha, hk]
      · simp [ha]
    · rw [List.filter_cons_of_pos (by simpa using hk), spGet, spGet, ih]
      by_cases ha : a = k
      · simp [ha, hk]
      · simp [ha]

theorem foldl_zeroCourt_rdDa {a : Nat} :
    (cs.foldl (fun s c => s.zeroCourt c) s).rdDa a = if a / courtBytes ∈ cs then 0 else s.rdDa a := by
  induction cs generalizing s with
  | nil => simp
  | cons c r ih =>
    have hz : (s.zeroCourt c).rdDa a = if a / courtBytes = c then 0 else s.rdDa a := by
      simp [State.rdDa, State.zeroCourt, spGet_spDrop]
    rw [List.foldl_cons, ih, hz]
    by_cases hr : a / courtBytes ∈ r
    · simp [hr]
    · simp [hr]

theorem holdDown_part {x : Nat} : (s.holdDown x).part r = s.part r :=
  linkEvent_sameButTalk.part r |>.trans ((emptyPort_sameButPorts s x).part r)

theorem holdDown_held {y : Nat} (hs : s.sized = true) (hx : x < 8)
    (h : y = x ∨ (s.port x).st = .down ∧ (s.port x).hold = true) :
    ((s.holdDown y).port x).st = .down ∧ ((s.holdDown y).port x).hold = true := by
  rw [State.holdDown, linkEvent_sameButTalk.port]
  by_cases hxy : y = x
  · subst hxy
    rw [port_updPort_same _ _ _ (by rwa [ports_length (emptyPort_sized hs)])]
    exact ⟨rfl, rfl⟩
  · obtain ⟨hst, hhold⟩ := h.resolve_left hxy
    have hf : ((s.port x).without y).Freed ((s.emptyPort y).port x) := emptyPort_port_ne hxy
    rw [port_updPort_ne _ _ _ _ hxy, hf.st, hf.hold]
    exact ⟨hst, hhold⟩

theorem foldl_holdDown_port (hs : s.sized = true) (hx : x < 8) (hm : x ∈ cs) :
    ((cs.foldl (fun s c => s.holdDown c) s).port x).st = .down ∧
      ((cs.foldl (fun s c => s.holdDown c) s).port x).hold = true := by
  refine (foldl_reaches (P := fun t : State => t.sized = true)
    (Q := fun t : State => t.sized = true ∧ (t.port x).st = .down ∧ (t.port x).hold = true) hm hs
    (fun t c ht => holdDown_sized ht) ?_ ?_).2
  · rintro t c ⟨ht, h⟩
    exact ⟨holdDown_sized ht, holdDown_held ht hx (.inr h)⟩
  · intro t ht
    exact ⟨holdDown_sized ht, holdDown_held ht hx (.inl rfl)⟩

theorem courts_lt (hs : s.sized = true) (hc : s.courtsOk = true) (hx : x ∈ (s.part p).courts) : x < 8 := by
  obtain ⟨hall, -⟩ := courtsOk_iff.mp hc
  have h := hall _ (part_mem (p := p) hs)
  simp only [Partition.courtsOk, Bool.and_eq_true, List.all_eq_true, decide_eq_true_eq] at h
  exact h.2 x hx

/-- The state in which a partition's memory is zero and its ports are held down (R304). -/
def State.emptied (s : State) (p : Nat) : State :=
  let t := (s.part p).courts.foldl (fun s c => s.zeroCourt c) s
  (s.part p).courts.foldl (fun s c => s.holdDown c) (if (s.part p).locked then t.updIde p (·.dropped) else t)

theorem execFreeDone_eq (hb : (s.win 8).busy = some (.freeing l p)) (hd : s.dev.dfault = none) :
    exec (.freeDone p) s = .next ((((s.emptied p).updPart p (·.released)).updWin 8 fun w =>
      { w with busy := none }).ok 8 l [nameN "p" p]) := by
  change execFreeDone p s = _
  have hb' : (s.win w8).busy = some (.freeing l p) := hb
  unfold execFreeDone
  rw [hb']
  dsimp only
  rw [if_neg (by simp [hd])]
  rfl

theorem emptied_part : (s.emptied p).part r = s.part r := by
  unfold State.emptied
  extract_lets t
  have ht : t.part r = s.part r :=
    foldl_keeps (fun u : State => u.part r = s.part r) _ _ s rfl fun _ _ h => h
  refine (foldl_keeps (fun u : State => u.part r = s.part r) _ _ _ ?_ fun _ _ h => holdDown_part.trans h)
  split
  · exact ht
  · exact ht

theorem emptied_rdDa {a : Nat} :
    (s.emptied p).rdDa a = if a / courtBytes ∈ (s.part p).courts then 0 else s.rdDa a := by
  unfold State.emptied
  extract_lets t
  have hfold (u : State) : ((s.part p).courts.foldl (fun s c => s.holdDown c) u).mems = u.mems :=
    foldl_keeps (fun v : State => v.mems = u.mems) _ _ u rfl fun _ _ h => holdDown_mems.trans h
  rw [rdDa_of_mems (hfold _), ← foldl_zeroCourt_rdDa]
  split
  · rfl
  · rfl

theorem emptied_sized (hs : s.sized = true) : (s.emptied p).sized = true :=
  foldl_sized (ite_sized (updIde_sized (foldl_sized hs zeroCourt_sized)) (foldl_sized hs zeroCourt_sized)) holdDown_sized

theorem emptied_port (hs : s.sized = true) (hc : s.courtsOk = true) (hx : x ∈ (s.part p).courts) :
    ((s.emptied p).port x).st = .down ∧ ((s.emptied p).port x).hold = true :=
  foldl_holdDown_port (ite_sized (updIde_sized (foldl_sized hs zeroCourt_sized)) (foldl_sized hs zeroCourt_sized))
    (courts_lt hs hc hx) hx

/-- R304: what the end of `free` leaves. -/
theorem freeDone_releases (hs : s.sized = true) (hc : s.courtsOk = true) (hb : (s.win 8).busy = some (.freeing l p))
    (hd : s.dev.dfault = none) :
    ∃ t, exec (.freeDone p) s = .next t ∧ (t.part p).state = 0 ∧ (t.part p).courts = [] ∧ (t.part p).session = none ∧
      (t.win 8).busy = none ∧ (∀ a, t.rdDa a = if a / courtBytes ∈ (s.part p).courts then 0 else s.rdDa a) ∧
      (∀ x ∈ (s.part p).courts, (t.port x).st = .down ∧ (t.port x).hold = true) ∧
      ∀ r, r ≠ p.val → t.part r = s.part r := by
  have hlen := part_lt_length (p := p) (emptied_sized (p := p) hs)
  obtain ⟨hwin, -⟩ := sized_iff.mp (emptied_sized (p := p) hs)
  refine ⟨_, execFreeDone_eq hb hd, ?_⟩
  have ht := ok_w8_sameButTalk (s := ((s.emptied p).updPart p (·.released)).updWin 8 fun w => { w with busy := none })
    (l := l) (ks := [nameN "p" p])
  have hpart (q : Nat) := ht.part q
  have hp : (((s.emptied p).updPart p (·.released)).updWin 8 fun w => { w with busy := none }).part p =
      (s.part p).released := (part_updPart_same _ _ _ hlen).trans (congrArg Partition.released emptied_part)
  refine ⟨?_, ?_, ?_, ?_, fun a => ?_, fun x hx => ?_, fun r hr => ?_⟩
  · rw [hpart, hp]
    rfl
  · rw [hpart, hp]
    rfl
  · rw [hpart, hp]
    rfl
  · rw [ok_busy, win_updWin_same _ _ _ (by simpa [State.updPart] using (by omega : 8 < (s.emptied p).windows.length))]
  · exact (ht.rdDa a).trans emptied_rdDa
  · rw [ht.port]
    exact emptied_port hs hc hx
  · rw [hpart]
    exact (part_updPart_ne _ _ _ _ hr.symm).trans emptied_part

end

/-- A line of w8 that its parser takes now does what its verb says. -/
theorem takes_next {s : State} {i : Instr} {body : State → State} (h : s.takes 8 i = true) :
    (.next (s.atLine 8 i body) : Out) = .next (body s) := by rw [atLine_takes s 8 i body h]

/-- Settles O12: the three parts are what `part`, an error in a scrub, and `free` with its end leave. -/
theorem partitionsAreDefinedAndFreed : Obligations.PartitionsAreDefinedAndFreed := by
  unfold Obligations.PartitionsAreDefinedAndFreed
  refine ⟨fun s l p cs il hs ht hr hf ho hne hn => ⟨_, takes_next ht, ?_⟩,
    fun s l p cs il hs _ => ⟨fun ht hr hf ho hne hn => ⟨_, takes_next ht, ?_⟩,
      fun ht h => ⟨_, takes_next ht, free_scrubError hs h⟩⟩,
    fun s l p hs hc => ⟨fun ht h => ⟨_, takes_next ht, free_begins hs h⟩,
      freeDone_releases hs hc⟩⟩
  · simp only [verbPart_eq hr hf ho hne hn, Bool.false_eq_true, if_false]
    exact part_defined hs rfl ok_w8_sameButTalk
  · simp only [verbPart_eq hr hf ho hne hn, if_true]
    exact part_scrubError hr hf

end Sys2Proof.Machine

namespace Sys2Proof.Machine

/-! # Launches (R152, R167, R256 to R259) -/

section

variable {s t : State} {p : Part} {g args rel count : Nat}

/-! ## What a fetch unit at a launch start fetches first -/

/-- A fetch unit whose first long word is the one at the start of its stream. -/
def FetchSt.AtFirst (f : FetchSt) : Prop := f.q.head?.getD 0 = 0 ∧ (f.q = [] → f.pc = 0)

theorem fetchNext_q {n pc : Nat} {f : FetchSt} : (fetchNext n f pc).q = f.q := by
  induction n generalizing f with
  | zero => rfl
  | succ n ih =>
    unfold fetchNext
    split
    · split
      · split
        · exact ih
        · rfl
      · rfl
    · rfl

theorem take_q {f : FetchSt} {w : LW} {op : Op} : (f.take w op).q = f.q ++ [f.pc] := by
  unfold FetchSt.take
  dsimp only
  split
  · rfl
  · rfl
  · split
    · rfl
    · split
      · exact fetchNext_q
      · rfl
  · exact fetchNext_q

theorem FetchSt.AtFirst.take {f : FetchSt} {w : LW} {op : Op} (h : f.AtFirst) : (f.take w op).AtFirst := by
  obtain ⟨hhead, hpc⟩ := h
  unfold FetchSt.AtFirst
  rw [take_q]
  cases hq : f.q with
  | nil => simp [hpc hq]
  | cons a r => simpa [hq] using hhead

theorem fetchRun_atFirst {has : Nat → Bool} {rd : ImgRd} {base st n : Nat} {f : FetchSt} (h : f.AtFirst) :
    (fetchRun has rd base st n f).AtFirst := by
  induction n generalizing f with
  | zero => exact h
  | succ n ih =>
    unfold fetchRun
    dsimp only
    split
    · exact h
    · split
      · exact h
      · split
        · exact ih h.take
        · exact h

/-! ## The clusters of a launch that starts -/

/-- A stream as R167 starts it, whatever it has fetched by now from its start on. -/
def StreamSt.AtLaunch (args rel count : Nat) (x : StreamSt) : Prop :=
  x = { StreamSt.launched args rel count with fetch := x.fetch } ∧ x.fetch.AtFirst

/-- A cluster as a launch leaves it at its start, of the one that it was before. -/
def Cluster.AtLaunch (o : Cluster) (args rel count : Nat) (k : Cluster) : Prop :=
  k = { o.launched args rel count with streams := k.streams } ∧ k.streams.length = 5 ∧
    ∀ x ∈ k.streams, x.AtLaunch args rel count

theorem launched_atLaunch {o : Cluster} : o.AtLaunch args rel count (o.launched args rel count) := by
  refine ⟨rfl, rfl, fun x hx => ?_⟩
  rw [List.eq_of_mem_replicate hx]
  exact ⟨rfl, rfl, fun _ => rfl⟩

theorem updStr_streams {o k : Cluster} {st : Nat} {f : StreamSt → StreamSt} (h : k = { o with streams := k.streams }) :
    k.updStr st f = { o with streams := (k.updStr st f).streams } := by
  rw [h]
  rfl

theorem fetch_atLaunch {o : Cluster} {st : Nat} (hg : g < s.cl.length) (h : o.AtLaunch args rel count (s.clu g)) :
    o.AtLaunch args rel count ((s.fetch g st).clu g) := by
  obtain ⟨hk, hlen, hall⟩ := h
  rw [State.fetch, clu_updStr_same hg]
  refine ⟨updStr_streams hk, (List.length_modify ..).trans hlen, forall_mem_modify ?_ st _ hall⟩
  · rintro x ⟨hx, hf⟩
    split
    · exact ⟨hx, hf⟩
    · refine ⟨?_, fetchRun_atFirst hf⟩
      conv_lhs => rw [hx]

theorem fetchAll_atLaunch {o : Cluster} (hg : g < s.cl.length) (h : o.AtLaunch args rel count (s.clu g)) :
    o.AtLaunch args rel count ((s.fetchAll g).clu g) := by
  refine (foldl_keeps (fun t : State => t.cl.length = s.cl.length ∧ o.AtLaunch args rel count (t.clu g)) _ _ s ⟨rfl, h⟩
    fun t st ⟨hl, ht⟩ => ⟨(List.length_modify ..).trans hl, fetch_atLaunch (hl ▸ hg) ht⟩).2

theorem fetchAll_cl_length : (s.fetchAll g).cl.length = s.cl.length :=
  foldl_keeps (fun t : State => t.cl.length = s.cl.length) _ _ s rfl fun _ _ h => (List.length_modify ..).trans h

/-- A cluster of a partition starts with a launch, and its fetch units run. -/
def State.startCluster (s : State) (args count : Nat) (c : Nat × Nat) : State :=
  (s.updClu c.1 fun k => k.launched args c.2 count).fetchAll c.1

theorem startCluster_frame {c : Nat × Nat} :
    s.startCluster args count c = { s with cl := (s.startCluster args count c).cl } := by
  rw [State.startCluster, fetchAll_frame]
  rfl

theorem startCluster_cl_length {c : Nat × Nat} : (s.startCluster args count c).cl.length = s.cl.length := by
  rw [State.startCluster, fetchAll_cl_length]
  exact List.length_modify ..

theorem startCluster_clu_ne {c : Nat × Nat} (h : g ≠ c.1) : (s.startCluster args count c).clu g = s.clu g := by
  rw [State.startCluster, clu_fetchAll_ne h, clu_updClu_ne _ _ _ _ h.symm]

theorem startCluster_atLaunch {c : Nat × Nat} (hc : c.1 < s.cl.length) :
    (s.clu c.1).AtLaunch args c.2 count ((s.startCluster args count c).clu c.1) := by
  refine fetchAll_atLaunch (by simpa [State.updClu] using hc) ?_
  rw [clu_updClu_same s _ _ hc]
  exact launched_atLaunch

theorem foldl_startCluster_frame {l : List (Nat × Nat)} :
    l.foldl (fun s c => s.startCluster args count c) s =
      { s with cl := (l.foldl (fun s c => s.startCluster args count c) s).cl } := by
  refine foldl_keeps (fun t : State => t = { s with cl := t.cl }) _ _ s rfl fun t c h => ?_
  rw [startCluster_frame, h]

theorem foldl_startCluster_clu_ne {l : List (Nat × Nat)} (h : ∀ c ∈ l, g ≠ c.1) :
    (l.foldl (fun s c => s.startCluster args count c) s).clu g = s.clu g := by
  induction l generalizing s with
  | nil => rfl
  | cons c r ih =>
    obtain ⟨hc, hr⟩ := List.forall_mem_cons.mp h
    rw [List.foldl_cons, ih hr, startCluster_clu_ne hc]

/-- Of clusters each named once, every one starts. -/
theorem foldl_startCluster_atLaunch {l : List (Nat × Nat)} {c : Nat × Nat} (hn : (l.map (·.1)).Nodup) (hc : c ∈ l)
    (hlen : c.1 < s.cl.length) : (s.clu c.1).AtLaunch args c.2 count
      ((l.foldl (fun s c => s.startCluster args count c) s).clu c.1) := by
  induction l generalizing s with
  | nil => cases hc
  | cons a r ih =>
    obtain ⟨ha, hr⟩ := List.nodup_cons.mp hn
    rw [List.foldl_cons]
    rcases List.mem_cons.mp hc with rfl | hcr
    · rw [foldl_startCluster_clu_ne fun b hb he => ha (List.mem_map.mpr ⟨b, hb, he.symm⟩)]
      exact startCluster_atLaunch hlen
    · have hne : c.1 ≠ a.1 := fun he => ha (List.mem_map.mpr ⟨c, hcr, he⟩)
      rw [← startCluster_clu_ne (args := args) (count := count) hne]
      exact ih hr hcr (by rwa [startCluster_cl_length])

/-! ## The clusters of a partition -/

theorem courts_nodup (hs : s.sized = true) (hc : s.courtsOk = true) : (s.part p).courts.Nodup := by
  obtain ⟨-, hn⟩ := courtsOk_iff.mp hc
  exact (List.nodup_flatMap.mp hn).1 _ (part_mem hs)

theorem clusters_getElem? {q : Partition} {i : Nat} (hi : i < q.clusters.length) : q.clusters[i]? = some (q.glob i) := by
  rw [Partition.clusters, List.length_map, List.length_range] at hi
  rw [Partition.clusters, List.getElem?_map, List.getElem?_range hi]
  rfl

theorem clusters_nodup {q : Partition} (hn : q.courts.Nodup) : q.clusters.Nodup := by
  refine List.Nodup.map_on (fun i hi j hj he => ?_) List.nodup_range
  rw [List.mem_range] at hi hj
  have hi' : i / 12 < q.courts.length := by omega
  have hj' : j / 12 < q.courts.length := by omega
  simp only [Partition.glob, tget, List.getD_eq_getElem _ _ hi', List.getD_eq_getElem _ _ hj'] at he
  have hd : i / 12 = j / 12 := (hn.getElem_inj_iff (hi := hi') (hj := hj')).mp (by omega)
  omega

theorem glob_lt {i : Nat} (hs : s.sized = true) (hc : s.courtsOk = true) (hi : i < (s.part p).clusters.length) :
    (s.part p).glob i < s.cl.length := by
  rw [Partition.clusters, List.length_map, List.length_range] at hi
  have hi' : i / 12 < (s.part p).courts.length := by omega
  have h8 : tget 0 (s.part p).courts (i / 12) < 8 := by
    rw [tget, List.getD_eq_getElem _ _ hi']
    exact courts_lt hs hc (List.getElem_mem hi')
  refine cl_length hs ?_
  rw [Partition.glob]
  omega

/-! ## The start -/

/-- What the settling of rally settings may change of a partition. -/
theorem rallySettle_part (hs : s.sized = true) : (s.rallySettle p).part p = { s.part p with
    rally := ((s.rallySettle p).part p).rally, pendR := ((s.rallySettle p).part p).pendR
    regroup := ((s.rallySettle p).part p).regroup, epochs := ((s.rallySettle p).part p).epochs
    aborts := ((s.rallySettle p).part p).aborts, putSent := ((s.rallySettle p).part p).putSent
    rxCount := ((s.rallySettle p).part p).rxCount, rxRefuse := ((s.rallySettle p).part p).rxRefuse } := by
  unfold State.rallySettle
  split
  · split
    · rw [part_updPart_same _ _ _ (part_lt_length hs), Partition.applyRally]
      split
      · rfl
      · rfl
    · rfl
  · rfl

theorem rallySettle_frame : s.rallySettle p = { s with parts := (s.rallySettle p).parts } := by
  unfold State.rallySettle
  split
  · split
    · rfl
    · rfl
  · rfl

/-- R292: where the ports are idle and nothing runs, pending rally settings are in effect. -/
theorem rallySettle_applied {r : RSettings} (hs : s.sized = true) (hp : (s.part p).pendR = some r)
    (hi : s.rallyIdle p = true) (hn : (s.part p).run = none) :
    ((s.rallySettle p).part p).rally = r ∧ ((s.rallySettle p).part p).pendR = none := by
  unfold State.rallySettle
  rw [hp]
  dsimp only
  rw [if_pos ⟨by rw [hn]; rfl, hi⟩, part_updPart_same _ _ _ (part_lt_length hs), Partition.applyRally]
  split
  · exact ⟨rfl, rfl⟩
  · exact ⟨rfl, rfl⟩

/-- A partition in which a launch has started with some settings, on a break that was armed or not (R256, R262). -/
def Partition.starting (q : Partition) (la : Launch) (rest : List Launch) (set : PSettings) (r : Running) (hit : Bool) :
    Partition :=
  { q with
    queue := rest, set := set, pendP := none, run := some r
    tickets := if la.gated then q.tickets - 1 else q.tickets
    breaks := if hit then q.breaks.filter (fun b => !b.names la.ctx.tag) else q.breaks }

/-- R256: a launch that may start takes the committed settings, and starts the clusters one after the other. -/
theorem launchStart_eq {la : Launch} {rest : List Launch} (hm : s.mayStart p = true) (hq : (s.part p).queue = la :: rest) :
    let u := s.rallySettle p
    let set := (u.part p).pendP.getD (u.part p).set
    ∃ r hit, exec (.launchStart p) s = .next (((u.part p).starting la rest set r hit).clusters.zipIdx.foldl
        (fun t c => t.startCluster la.args ((u.part p).starting la rest set r hit).clusters.length c)
        (u.updPart p fun q => q.starting la rest set r hit)) ∧
      r.la = la ∧ r.ctx = set.ctx.with la.nc ∧ r.suspect = 0 ∧ ((u.part p).breaks = [] → r.stop = .running) := by
  intro u set
  change ∃ r hit, execLaunchStart p s = _ ∧ _
  unfold execLaunchStart
  rw [hq]
  dsimp only
  rw [if_neg (by simp [hm])]
  refine ⟨_, _, rfl, rfl, rfl, rfl, fun hb => ?_⟩
  have hb' : ((s.rallySettle p).part p).breaks = [] := hb
  simp [hb']

/-- What each cluster of a partition is once a launch has started there: R167, R208, R256. -/
theorem Cluster.AtLaunch.fields {o k : Cluster} {i : Nat} (h : o.AtLaunch args i count k) :
    let regs := [BitVec.ofNat 48 args, BitVec.ofNat 48 i, BitVec.ofNat 48 count]
    k.streams.length = 5 ∧
      (∀ j < 5, k.str j = { ended := false, fetch := (k.str j).fetch, a := regs ++ List.replicate 13 0 } ∧
        (k.str j).fetch.q.head?.getD 0 = 0) ∧
      k.regions = [] ∧ k.tokens = List.replicate 64 0 ∧ k.tally = List.replicate 16 {} ∧ k.vr = [] ∧ k.sp = o.sp ∧
      k.w = List.replicate 4 {} ∧ k.e.take 4 = List.replicate 4 {} ∧ k.e.drop 4 = o.e.drop 4 ∧ k.icache = o.icache := by
  intro regs
  obtain ⟨hk, hlen, hall⟩ := h
  refine ⟨hlen, fun j hj => ?_, ?_⟩
  · have hmem : k.str j ∈ k.streams := by
      have hj' : j < k.streams.length := by omega
      rw [Cluster.str, tget, List.getD_eq_getElem _ _ hj']
      exact List.getElem_mem hj'
    obtain ⟨hx, hhead, -⟩ := hall _ hmem
    exact ⟨hx, hhead⟩
  · rw [hk]
    exact ⟨rfl, rfl, rfl, rfl, rfl, rfl, rfl, rfl, rfl⟩

/-- A launch that may start finds no other running. -/
theorem run_of_mayStart (hm : s.mayStart p = true) : (s.part p).run = none := by
  simp only [State.mayStart, Bool.and_eq_true, Option.isNone_iff_eq_none] at hm
  obtain ⟨⟨⟨⟨-, hrun⟩, -⟩, -⟩, -⟩ := hm
  exact hrun

/-- The clusters of a partition start, one after the other (R256). -/
def State.startAll (s : State) (q : Partition) (args : Nat) : State :=
  q.clusters.zipIdx.foldl (fun t c => t.startCluster args q.clusters.length c) s

theorem startAll_frame {q : Partition} : s.startAll q args = { s with cl := (s.startAll q args).cl } :=
  foldl_startCluster_frame

theorem startAll_part {q : Partition} {r : Nat} : (s.startAll q args).part r = s.part r := by
  rw [startAll_frame]
  rfl

theorem startAll_atLaunch {q : Partition} {i : Nat} (hn : q.courts.Nodup) (hi : i < q.clusters.length)
    (hlen : q.glob i < s.cl.length) :
    (s.clu (q.glob i)).AtLaunch args i q.clusters.length ((s.startAll q args).clu (q.glob i)) := by
  have hmem : (q.glob i, i) ∈ q.clusters.zipIdx := List.mk_mem_zipIdx_iff_getElem?.mpr (clusters_getElem? hi)
  refine foldl_startCluster_atLaunch ?_ hmem hlen
  rw [List.zipIdx_map_fst]
  exact clusters_nodup hn

/-- R80, R167, R208, R256, R292: what the start of a launch leaves. -/
theorem launchStart_starts {la : Launch} {rest : List Launch} (hs : s.sized = true) (hc : s.courtsOk = true)
    (hm : s.mayStart p = true) (hq : (s.part p).queue = la :: rest) :
    ∃ t, exec (.launchStart p) s = .next t ∧ (t.part p).queue = rest ∧
      (t.part p).set = (s.part p).pendP.getD (s.part p).set ∧ (t.part p).pendP = none ∧
      (t.part p).tickets = (if la.gated then (s.part p).tickets - 1 else (s.part p).tickets) ∧
      (∃ r, (t.part p).run = some r ∧ r.la = la ∧ r.ctx = ((s.part p).pendP.getD (s.part p).set).ctx.with la.nc ∧
        r.suspect = 0 ∧ ((s.part p).breaks = [] → r.stop = .running)) ∧
      (∀ i < (s.part p).clusters.length, (s.clu ((s.part p).glob i)).AtLaunch la.args i (s.part p).clusters.length
        (t.clu ((s.part p).glob i))) ∧
      (∀ r, (s.part p).pendR = some r → s.rallyIdle p = true → (t.part p).rally = r ∧ (t.part p).pendR = none) ∧
      t.dram = s.dram ∧ t.out = s.out := by
  obtain ⟨r, hit, hex, hla, hctx, hsus, hstop⟩ := launchStart_eq hm hq
  have hsettled := rallySettle_part (p := p) hs
  have happlied (x : RSettings) (hx : (s.part p).pendR = some x) (hi : s.rallyIdle p = true) :=
    rallySettle_applied hs hx hi (run_of_mayStart hm)
  have hframe := rallySettle_frame (s := s) (p := p)
  have hsized := rallySettle_sized (p := p) hs
  generalize s.rallySettle p = u at hex hctx hstop hsettled happlied hframe hsized
  have hlen := part_lt_length (p := p) hsized
  have hclu (g : Nat) : u.clu g = s.clu g := by
    rw [hframe]
    rfl
  obtain ⟨set, hset⟩ : ∃ set, set = (u.part p).pendP.getD (u.part p).set := ⟨_, rfl⟩
  obtain ⟨q, hqdef⟩ : ∃ q, q = (u.part p).starting la rest set r hit := ⟨_, rfl⟩
  obtain ⟨v, hv⟩ : ∃ v, v = u.updPart p fun x => x.starting la rest set r hit := ⟨_, rfl⟩
  have hvp : v.part p = q := by rw [hv, part_updPart_same u _ _ hlen, hqdef]
  have hcl : q.clusters = (s.part p).clusters := by
    rw [hqdef, hsettled]
    rfl
  have hglob (i : Nat) : q.glob i = (s.part p).glob i := by
    rw [hqdef, hsettled]
    rfl
  have hpd : (u.part p).pendP.getD (u.part p).set = (s.part p).pendP.getD (s.part p).set := by rw [hsettled]
  refine ⟨v.startAll q la.args, ?_, ?_⟩
  · rw [hex, hv, hqdef, hset]
    rfl
  rw [startAll_part, hvp]
  refine ⟨?_, ?_, ?_, ?_, ⟨r, ?_, hla, by rw [hctx, hpd], hsus, fun hb => hstop (by rw [hsettled, hb])⟩, fun i hi => ?_,
    fun x hx hi => ?_, ?_, ?_⟩
  · rw [hqdef]
    rfl
  · rw [hqdef, ← hpd, ← hset]
    rfl
  · rw [hqdef]
    rfl
  · rw [hqdef, hsettled]
    rfl
  · rw [hqdef]
    rfl
  · have hg : v.clu ((s.part p).glob i) = s.clu ((s.part p).glob i) := by
      rw [hv, clu_updPart, hclu]
    have hcourts : q.courts = (s.part p).courts := by
      rw [hqdef, hsettled]
      rfl
    have hvcl : v.cl = s.cl := by
      rw [hv, hframe]
      rfl
    rw [← hg, ← hcl, ← hglob]
    refine startAll_atLaunch ?_ (by rwa [hcl]) ?_
    · rw [hcourts]
      exact courts_nodup hs hc
    · rw [hglob, hvcl]
      exact glob_lt hs hc hi
  · rw [hqdef]
    exact happlied x hx hi
  · rw [startAll_frame, hv, hframe]
    rfl
  · rw [startAll_frame, hv, hframe]
    rfl

/-! ## The deadline -/

/-- R259: the deadline of a launch that runs faults its partition. -/
theorem deadline_faults {r : Running} (hs : s.sized = true) (hr : (s.part p).run = some r) (hup : (s.part p).stat = .up)
    (ho : s.launchOver p = false) (hstop : r.stop = .running) :
    ∃ t, exec (.deadlineExpire p) s = .next t ∧ (t.part p).state = 4 ∧ (t.part p).ffCode = 0x05 := by
  have hstate : (s.part p).state = 3 := by simp [Partition.state, hup, hr]
  obtain ⟨hst, hcode, -, -⟩ := latch_of_running (s := s) (p := p) (e := errOf 0x05 0x0A 0 2)
    (part_lt_length hs) hstate (show 0x05 < 256 by decide)
  refine ⟨s.latch p (errOf 0x05 0x0A 0 2), ?_, hst, hcode⟩
  change execDeadlineExpire p s = _
  simp [execDeadlineExpire, hr, hstop, ho]

end

end Sys2Proof.Machine

namespace Sys2Proof.Machine

/-! # A launch ends and reports (R152, R257, R331, R369 to R372) -/

section

variable {s t u : State} {p : Part} {obs : HwObs}

/-! ## What may change as reports are written -/

/-- The reports of a partition are written: what the launch and the clusters were stays. -/
structure State.Pumped (p : Nat) (s t : State) : Prop where
  run : (t.part p).run = (s.part p).run
  copy : (t.part p).copy = (s.part p).copy
  cl : t.cl = s.cl

theorem State.Pumped.refl (s : State) {p : Nat} : s.Pumped p s := ⟨rfl, rfl, rfl⟩

theorem State.Pumped.trans {p : Nat} (h : s.Pumped p t) (h' : t.Pumped p u) : s.Pumped p u :=
  ⟨h'.run.trans h.run, h'.copy.trans h.copy, h'.cl.trans h.cl⟩

/-- What may change of a partition when something is said: its number of lines, the `halt` that waits, its settings. -/
def Partition.Said (q q' : Partition) : Prop :=
  q' = { q with txSeq := q'.txSeq, haltReply := q'.haltReply, set := q'.set, pendP := q'.pendP }

/-- Something is said: to windows, the UART and the host, a partition's numbers of lines and its settings apart. -/
structure State.Said (p : Nat) (s t : State) : Prop where
  part : (s.part p).Said (t.part p)
  cl : t.cl = s.cl
  dram : t.dram = s.dram
  host : t.host = { s.host with pend := t.host.pend }
  out : s.out ⊆ t.out

theorem State.Said.refl (s : State) {p : Nat} : s.Said p s := ⟨rfl, rfl, rfl, rfl, List.Subset.refl _⟩

theorem Partition.Said.refl (q : Partition) : q.Said q := rfl

theorem Partition.Said.trans {q q' q'' : Partition} (h : q.Said q') (h' : q'.Said q'') : q.Said q'' := by
  unfold Partition.Said at *
  rw [h', h]

theorem State.Said.trans {p : Nat} (h : s.Said p t) (h' : t.Said p u) : s.Said p u where
  part := h.part.trans h'.part
  cl := h'.cl.trans h.cl
  dram := h'.dram.trans h.dram
  host := by
    conv_lhs => rw [h'.host, h.host]
  out := List.Subset.trans h.out h'.out

theorem State.Said.pumped {p : Nat} (h : s.Said p t) : s.Pumped p t := ⟨by rw [h.part], by rw [h.part], h.cl⟩

theorem send_subset {o : Output} : s.out ⊆ (s.send o).out := List.subset_append_left _ _

theorem msix_said {p v : Nat} : s.Said p (s.msix v) := by
  unfold State.msix
  split
  · exact .refl s
  · split
    · exact ⟨rfl, rfl, rfl, rfl, List.Subset.refl _⟩
    · exact ⟨rfl, rfl, rfl, rfl, send_subset⟩

theorem updPart_said {p r : Nat} {f : Partition → Partition} (hf : ∀ q : Partition, q.Said (f q)) :
    s.Said p (s.updPart r f) := by
  refine ⟨?_, rfl, rfl, rfl, List.Subset.refl _⟩
  rw [State.part, State.part, State.updPart, tget, tget, List.getD_eq_getElem?_getD, List.getD_eq_getElem?_getD,
    List.getElem?_modify]
  cases s.parts[p]? with
  | none => rfl
  | some q =>
    by_cases hr : r = p
    · simpa [hr] using hf q
    · simpa [hr] using Partition.Said.refl q

theorem countLine_said {p w : Nat} : s.Said p (s.countLine w) := by
  unfold State.countLine
  split
  · exact updPart_said fun _ => rfl
  · exact .refl s

theorem uartSend_said {p : Nat} {b : List Byte} : s.Said p (s.uartSend b) := by
  unfold State.uartSend
  split
  · unfold State.txd
    split
    · exact .refl s
    · exact ⟨rfl, rfl, rfl, rfl, send_subset⟩
  · split
    · exact ⟨rfl, rfl, rfl, rfl, List.Subset.refl _⟩
    · exact ⟨rfl, rfl, rfl, rfl, List.Subset.refl _⟩

theorem updWin_said {p w : Nat} {f : Window → Window} : s.Said p (s.updWin w f) :=
  ⟨rfl, rfl, rfl, rfl, List.Subset.refl _⟩

theorem replyPut_said {p w : Nat} {b : List Byte} : s.Said p (s.replyPut w b) := by
  unfold State.replyPut
  dsimp only
  split
  · split
    · exact updWin_said.trans msix_said
    · exact updWin_said
  · exact updWin_said

theorem emit_said {p w : Nat} {uart : Bool} {b : List Byte} : s.Said p (s.emit w uart b) := by
  refine State.Said.trans (t := s.countLine w) countLine_said ?_
  unfold State.emit State.deliver
  split
  · exact uartSend_said
  · exact replyPut_said

theorem haltDone_said {p : Nat} : s.Said p (s.haltDone p) := by
  unfold State.haltDone
  split
  next l n _ =>
    split
    · exact .refl s
    · have h : s.Said p (s.updPart p fun q => { q with haltReply := none }) := updPart_said fun _ => rfl
      exact h.trans (updWin_said.trans emit_said)
  · exact .refl s

theorem settle_said {p : Nat} : s.Said p (s.settle p) := by
  unfold State.settle
  refine updPart_said fun q => ?_
  split
  · rfl
  · rfl

/-! ## The done word -/

theorem mark_frame {l : Nat} {c : Cause} :
    s.mark l c = { s with poison := (s.mark l c).poison, chans := (s.mark l c).chans } := by
  unfold State.mark
  dsimp only
  split
  · rfl
  · split
    · rfl
    · rfl

/-- What a read meets is marked and counted, nothing else changes. -/
theorem observe_frame {ls : List Nat} : s.observe obs ls = { s with
    poison := (s.observe obs ls).poison, chans := (s.observe obs ls).chans, courts := (s.observe obs ls).courts } := by
  unfold State.observe
  extract_lets hit a b c
  have ha : a = { s with poison := a.poison, chans := a.chans, courts := a.courts } :=
    foldl_keeps (fun t : State => t = { s with poison := t.poison, chans := t.chans, courts := t.courts }) _ _ s rfl
      fun t l h => by
        rw [h]
        rfl
  have hb : b = { s with poison := b.poison, chans := b.chans, courts := b.courts } := by
    refine foldl_keeps (fun t : State => t = { s with poison := t.poison, chans := t.chans, courts := t.courts }) _ _ a ha
      fun t l h => ?_
    split
    · exact h
    · rw [mark_frame, h]
      rfl
  have hc : c = { s with poison := c.poison, chans := c.chans, courts := c.courts } :=
    foldl_keeps (fun t : State => t = { s with poison := t.poison, chans := t.chans, courts := t.courts }) _ _ b hb
      fun t l h => by
        rw [h]
        rfl
  refine foldl_keeps (fun t : State => t = { s with poison := t.poison, chans := t.chans, courts := t.courts }) _ _ c hc
    fun t l h => ?_
  rw [mark_frame, h]
  rfl

/-- The record of a report stands at its done word, as far as the line takes it (R369). -/
def State.putDone (s : State) (p : Nat) (obs : HwObs) (r : Report) : State :=
  match r.done with
  | some pa => (s.observe obs [(s.part p).da pa / 64]).wrPa p (cellsAt pa (r.bytes p false))
  | none => s

theorem putDone_frame {p : Nat} {r : Report} : s.putDone p obs r = { s with
    dram := (s.putDone p obs r).dram, poison := (s.putDone p obs r).poison, chans := (s.putDone p obs r).chans
    courts := (s.putDone p obs r).courts, undo := (s.putDone p obs r).undo } := by
  unfold State.putDone
  split
  · rw [State.wrPa, wrDa_frame, observe_frame]
  · rfl

theorem putDone_pumped {p : Nat} {r : Report} : s.Pumped p (s.putDone p obs r) := by
  rw [putDone_frame]
  exact ⟨rfl, rfl, rfl⟩

/-! ## One report -/

/-- The ring entry of a report, where the ring is enabled (R371). -/
def State.putEntry (s : State) (p : Nat) (q : Partition) (r : Report) : State :=
  if q.ringEn then
    (s.send (.hostWrite q.ringAt.1 (r.bytes p q.ringAt.2))).updPart p fun q => { q with prod := q.prod + 1 }
  else s

/-- A report has entered the ring and waits no more. -/
def State.entered (s : State) (p : Nat) (q : Partition) (r : Report) (rest : List Report) : State :=
  (s.putEntry p q r).updPart p fun q => { q with reports := rest }

/-- A report leaves: its ring entry, its line, the messages of the ring and of faults (R257, R373). -/
def State.leave (s : State) (p : Nat) (q : Partition) (r : Report) (rest : List Report) : State :=
  let t := (s.entered p q r rest).emit p r.ctx.uart r.line
  let u := if q.ringCie then t.msix (1 + p) else t
  if r.faultVec then u.msix (9 + p) else u

/-- The reports of a partition, each as `putDone` and `leave` say, or one that waits. -/
theorem pumpReports_succ {n p : Nat} {r : Report} {rest : List Report} (hr : (s.part p).reports = r :: rest) :
    pumpReports obs (n + 1) p s =
      if s.dev.dfault.isSome then s
      else
        let held := if r.recorded then [] else match r.done with
          | some pa => s.snooped [(s.part p).da pa / 64]
          | none => []
        if !held.isEmpty then s.biAsk held
        else
          let t := if r.recorded then s else s.putDone p obs r
          if (s.part p).ringEn && ((s.part p).ringFull || !t.host.bme) then
            t.updPart p fun q => { q with reports := { r with recorded := true } :: rest }
          else pumpReports obs n p (t.leave p (s.part p) r rest) := by
  conv_lhs => unfold pumpReports
  dsimp only
  rw [hr]
  rfl

theorem updPart_pumped {p r : Nat} {f : Partition → Partition}
    (hf : ∀ q : Partition, (f q).run = q.run ∧ (f q).copy = q.copy) : s.Pumped p (s.updPart r f) := by
  have h : ((s.updPart r f).part p).run = (s.part p).run ∧ ((s.updPart r f).part p).copy = (s.part p).copy := by
    rw [State.part, State.part, State.updPart, tget, tget, List.getD_eq_getElem?_getD, List.getD_eq_getElem?_getD,
      List.getElem?_modify]
    cases s.parts[p]? with
    | none => exact ⟨rfl, rfl⟩
    | some q =>
      by_cases hr : r = p
      · simpa [hr] using hf q
      · simp [hr]
  exact ⟨h.1, h.2, rfl⟩

theorem putEntry_pumped {p : Nat} {q : Partition} {r : Report} : s.Pumped p (s.putEntry p q r) := by
  unfold State.putEntry
  split
  · exact State.Pumped.trans (t := s.send _) ⟨rfl, rfl, rfl⟩ (updPart_pumped fun _ => ⟨rfl, rfl⟩)
  · exact .refl s

/-- What follows the ring entry of a report is said. -/
theorem leave_said {p : Nat} {q : Partition} {r : Report} {rest : List Report} :
    (s.entered p q r rest).Said p (s.leave p q r rest) := by
  unfold State.leave
  extract_lets t u
  have hu : t.Said p u := by
    unfold u
    split
    · exact msix_said
    · exact .refl t
  refine (emit_said.trans hu).trans ?_
  split
  · exact msix_said
  · exact .refl u

theorem leave_pumped {p : Nat} {q : Partition} {r : Report} {rest : List Report} :
    s.Pumped p (s.leave p q r rest) := by
  have h : (s.putEntry p q r).Pumped p (s.entered p q r rest) := updPart_pumped fun _ => ⟨rfl, rfl⟩
  exact putEntry_pumped.trans (h.trans leave_said.pumped)

theorem biAsk_pumped {p : Nat} {ls : List Nat} : s.Pumped p (s.biAsk ls) := by
  refine foldl_keeps (fun t : State => s.Pumped p t) _ _ s (.refl s) fun t l h => h.trans ?_
  split
  · exact .refl t
  · exact ⟨rfl, rfl, rfl⟩

theorem pumpReports_pumped {n p : Nat} : s.Pumped p (pumpReports obs n p s) := by
  induction n generalizing s with
  | zero => exact .refl s
  | succ n ih =>
    cases hr : (s.part p).reports with
    | nil =>
      unfold pumpReports
      dsimp only
      rw [hr]
      exact .refl s
    | cons r rest =>
      rw [pumpReports_succ hr]
      extract_lets held t
      have ht : s.Pumped p t := by
        unfold t
        split
        · exact .refl s
        · exact putDone_pumped
      clear_value t
      split
      · exact .refl s
      · split
        · exact biAsk_pumped
        · split
          · exact ht.trans (updPart_pumped fun _ => ⟨rfl, rfl⟩)
          · exact ht.trans (leave_pumped.trans ih)

theorem pump_pumped {p : Nat} : s.Pumped p (s.pump p obs) :=
  pumpReports_pumped.trans (haltDone_said.pumped.trans settle_said.pumped)

/-! ## The only report -/

/-- A report that alone waits, and whose done word the host does not hold: it waits for the ring, or leaves. -/
theorem pump_of_one {p : Nat} {r : Report} (hr : (s.part p).reports = [r]) (hd : s.dev.dfault = none)
    (hrec : r.recorded = false) (hheld : ∀ pa, r.done = some pa → s.snooped [(s.part p).da pa / 64] = []) :
    s.pump p obs = ((if (s.part p).ringEn = true ∧ ((s.part p).ringFull = true ∨ s.host.bme = false) then
        (s.putDone p obs r).updPart p fun q => { q with reports := [{ r with recorded := true }] }
      else (s.putDone p obs r).leave p (s.part p) r []).haltDone p).settle p := by
  have hh : (match r.done with | some pa => s.snooped [(s.part p).da pa / 64] | none => []) = [] := by
    cases hdone : r.done with
    | none => rfl
    | some pa => exact hheld pa hdone
  have hb : (s.putDone p obs r).host.bme = s.host.bme := by rw [putDone_frame]
  rw [State.pump, hr, List.length_singleton, pumpReports_succ hr]
  simp [hd, hrec, hh, hb, pumpReports]

/-- A report that waits: nothing is sent. -/
theorem haltDone_of_none {p : Nat} (h : (s.part p).haltReply = none) : s.haltDone p = s := by
  simp [State.haltDone, h]

end

end Sys2Proof.Machine

namespace Sys2Proof.Machine

section

variable {s t u : State} {p : Part} {obs : HwObs}

/-! ## Where the done word lies -/

/-- The 32 bytes of an aligned record lie one after the other in device memory (R42, R43). -/
theorem da_add {q : Partition} {pa i : Nat} (hpa : pa % 32 = 0) (hi : i < 32) : q.da (pa + i) = q.da pa + i := by
  unfold Partition.da
  split
  · have hb : (pa + i) / 4096 = pa / 4096 := by omega
    dsimp only
    rw [hb]
    generalize pa / 4096 / (2 * q.courts.length) = x
    generalize tget 0 q.courts (pa / 4096 % (2 * q.courts.length) / 2) * courtBytes = y
    omega
  · have hc : courtBytes = 3221225472 := rfl
    rw [hc]
    have hb : (pa + i) / 3221225472 = pa / 3221225472 := by omega
    rw [hb]
    omega

theorem da_aligned {q : Partition} {pa : Nat} (hpa : pa % 32 = 0) : q.da pa % 32 = 0 := by
  have hc : courtBytes = 3221225472 := rfl
  unfold Partition.da
  split
  · dsimp only
    rw [hc]
    generalize pa / 4096 / (2 * q.courts.length) = x
    generalize tget 0 q.courts (pa / 4096 % (2 * q.courts.length) / 2) = y
    omega
  · rw [hc]
    omega

theorem bytes_length {r : Report} {k : Nat} {b : Bool} : (r.bytes k b).length = 32 := by
  simp [Report.bytes, leBytes]

/-- The cells of a record: 32 in a row, all of them in one line (R369). -/
theorem mem_recordCells {q : Partition} {pa k : Nat} {r : Report} {b : Bool} {c : Host.Cell} (hpa : pa % 32 = 0)
    (hc : c ∈ (cellsAt pa (r.bytes k b)).map fun c => (q.da c.1, c.2)) : ∃ i < 32, c.1 = q.da pa + i := by
  obtain ⟨d, hd, rfl⟩ := List.mem_map.mp hc
  obtain ⟨e, he, rfl⟩ := List.mem_map.mp hd
  have hi : e.2 < 32 := by
    have h := List.snd_lt_of_mem_zipIdx he
    rwa [bytes_length] at h
  exact ⟨e.2, hi, da_add hpa hi⟩

/-- A record is not all of its line. -/
theorem wholeLine_recordCells {q : Partition} {pa k : Nat} {r : Report} {b : Bool} (hpa : pa % 32 = 0) :
    wholeLine ((cellsAt pa (r.bytes k b)).map fun c => (q.da c.1, c.2)) (q.da pa / 64) = false := by
  by_contra hw
  have hall := wholeLine_iff.mp (by simpa using hw)
  have halign := da_aligned (q := q) hpa
  obtain ⟨c, hc, he⟩ := hall ((q.da pa % 64 + 32) % 64) (by omega)
  obtain ⟨i, hi, hci⟩ := mem_recordCells hpa hc
  omega

/-! ## Poison under a read -/

theorem spGet_spSet_ne {α : Type} [DecidableEq α] {d v : α} {m : List (Nat × α)} {a b : Nat} (h : b ≠ a) :
    spGet d (spSet d m a v) b = spGet d m b := by
  induction m with
  | nil =>
    unfold spSet
    split
    · rfl
    · simp [spGet, h]
  | cons e r ih =>
    obtain ⟨k, w⟩ := e
    unfold spSet
    split
    · split
      · rfl
      · simp [spGet, h]
    · split
      next hk =>
        subst hk
        split
        · simp [spGet, h]
        · simp [spGet, h]
      · simp [spGet, ih]

/-- A poisoned line stays poisoned as others are marked. -/
theorem mark_cause_isSome {l k : Nat} {c : Cause} (h : (s.cause k).isSome = true) :
    ((s.mark l c).cause k).isSome = true := by
  unfold State.mark
  dsimp only
  split
  · exact h
  next hl =>
    have hk : spGet none (spSet none s.poison l (some c)) k = s.cause k :=
      spGet_spSet_ne fun he => hl (he ▸ h)
    split
    · change (spGet none (spSet none s.poison l (some c)) k).isSome = true
      rwa [hk]
    · change (spGet none (spSet none s.poison l (some c)) k).isSome = true
      rwa [hk]

theorem observe_cause_isSome {ls : List Nat} {k : Nat} (h : (s.cause k).isSome = true) :
    ((s.observe obs ls).cause k).isSome = true := by
  unfold State.observe
  extract_lets hit a b c
  have ha : (a.cause k).isSome = true := foldl_keeps (fun t : State => (t.cause k).isSome = true) _ _ s h fun _ _ h => h
  have hb : (b.cause k).isSome = true := by
    refine foldl_keeps (fun t : State => (t.cause k).isSome = true) _ _ a ha fun t l h => ?_
    split
    · exact h
    · exact mark_cause_isSome (s := t) h
  have hc : (c.cause k).isSome = true := foldl_keeps (fun t : State => (t.cause k).isSome = true) _ _ b hb fun _ _ h => h
  exact foldl_keeps (fun t : State => (t.cause k).isSome = true) _ _ c hc fun t l h => mark_cause_isSome (s := t) h

/-- A read that meets no uncorrectable error marks nothing (R341). -/
theorem observe_poison {ls : List Nat} (hd : obs.dramUe = []) (hc : obs.ccUe = []) :
    (s.observe obs ls).poison = s.poison := by
  unfold State.observe
  extract_lets hit a b c
  have ha : a.poison = s.poison := foldl_keeps (fun t : State => t.poison = s.poison) _ _ s rfl fun _ _ h => h
  have hb : b = a := by simp [b, hit, hd]
  have hcc : c.poison = b.poison := foldl_keeps (fun t : State => t.poison = b.poison) _ _ b rfl fun _ _ h => h
  simp [hit, hc, hcc, hb, ha]

theorem observe_rdDa {ls : List Nat} {a : Nat} : (s.observe obs ls).rdDa a = s.rdDa a := by
  rw [observe_frame]
  rfl

theorem observe_part {ls : List Nat} {r : Nat} : (s.observe obs ls).part r = s.part r := by
  rw [observe_frame]
  rfl

/-! ## What the done word's line takes -/

theorem foldl_fixed {β : Type} {f : State → β → State} {l : List β} (h : ∀ b ∈ l, f s b = s) : l.foldl f s = s := by
  induction l with
  | nil => rfl
  | cons b r ih =>
    obtain ⟨hb, hr⟩ := List.forall_mem_cons.mp h
    rw [List.foldl_cons, hb, ih hr]

/-- A poisoned line takes no record (R342). -/
theorem putDone_dram_of_poisoned {p pa : Nat} {r : Report} (hr : r.done = some pa) (hpa : pa % 32 = 0)
    (hc : s.cause ((s.part p).da pa / 64) ≠ none) : (s.putDone p obs r).dram = s.dram := by
  unfold State.putDone
  rw [hr]
  dsimp only
  have hcause := observe_cause_isSome (obs := obs) (ls := [(s.part p).da pa / 64]) (Option.isSome_iff_ne_none.mpr hc)
  have hd : (s.observe obs [(s.part p).da pa / 64]).dram = s.dram := by rw [observe_frame]
  rw [State.wrPa, observe_part, ← hd]
  generalize s.observe obs [(s.part p).da pa / 64] = t at hcause
  have hne : ¬ t.poison.isEmpty = true := fun he => by
    rw [State.cause, List.isEmpty_iff.mp he] at hcause
    cases hcause
  rw [wrDa_of_poisoned hne, foldl_fixed fun l hl => ?_]
  obtain ⟨c, hcm, rfl⟩ := List.mem_map.mp (List.mem_eraseDups.mp hl)
  obtain ⟨i, hi, he⟩ := mem_recordCells hpa hcm
  have halign := da_aligned (q := s.part p) hpa
  have hline : c.1 / 64 = (s.part p).da pa / 64 := by omega
  rw [hline, State.wrLine, hcause, wholeLine_recordCells hpa]
  rfl

/-- A record stands at its done word where nothing is poisoned (R369). -/
theorem putDone_rdDa {p pa a : Nat} {r : Report} (hr : r.done = some pa) (hp : s.poison = []) (hd : obs.dramUe = [])
    (hc : obs.ccUe = []) (hm : s.memOk = true) : (s.putDone p obs r).rdDa a =
      (lastAt ((cellsAt pa (r.bytes p false)).map fun c => ((s.part p).da c.1, c.2)) a).getD (s.rdDa a) := by
  obtain ⟨hwf, -⟩ := memOk_iff.mp hm
  unfold State.putDone
  rw [hr]
  dsimp only
  rw [State.wrPa, observe_part, wrDa_get _ _ _ ?_ ((observe_poison hd hc).trans hp), observe_rdDa]
  rw [observe_frame]
  exact hwf

end

end Sys2Proof.Machine

namespace Sys2Proof.Machine

section

variable {s t u : State} {p : Part} {obs : HwObs}

/-! ## What a report leaves -/

theorem haltDone_settle_said {k : Nat} : s.Said k ((s.haltDone k).settle k) := haltDone_said.trans settle_said

theorem putEntry_frame {k : Nat} {q : Partition} {r : Report} :
    s.putEntry k q r = { s with parts := (s.putEntry k q r).parts, out := (s.putEntry k q r).out } := by
  unfold State.putEntry
  split
  · rfl
  · rfl

theorem entered_frame {k : Nat} {q : Partition} {r : Report} {rest : List Report} : s.entered k q r rest =
    { s with parts := (s.entered k q r rest).parts, out := (s.entered k q r rest).out } := by
  rw [State.entered, putEntry_frame]
  rfl

theorem entered_part {k : Nat} {q : Partition} {r : Report} {rest : List Report} (hk : k < s.parts.length) :
    (s.entered k q r rest).part k = { s.part k with
      prod := if q.ringEn then (s.part k).prod + 1 else (s.part k).prod, reports := rest } := by
  unfold State.entered State.putEntry
  split
  · rw [part_updPart_same _ _ _ (by simpa [State.updPart, State.send] using hk),
      part_updPart_same _ _ _ (by simpa [State.send] using hk)]
    rfl
  · rw [part_updPart_same _ _ _ hk]

theorem hostWrite_mem_leave {k : Nat} {q : Partition} {r : Report} {rest : List Report} (h : q.ringEn = true) :
    .hostWrite q.ringAt.1 (r.bytes k q.ringAt.2) ∈ (s.leave k q r rest).out := by
  refine (leave_said (p := k)).out ?_
  unfold State.entered State.putEntry
  rw [if_pos h]
  exact List.mem_append_right _ (List.mem_singleton_self _)

/-- A message that the host has enabled and not masked is sent (R373). -/
theorem msix_mem {v : Nat} (hen : s.host.msixEn = true) (hm : tget true s.host.masks v = false) (hb : s.host.bme = true) :
    .msix v (tget (0, 0) s.host.table v) ∈ (s.msix v).out := by
  unfold State.msix
  rw [if_neg (by simp [hen]), if_neg (by simp [hm, hb])]
  exact List.mem_append_right _ (List.mem_singleton_self _)

theorem msix_mem_leave {k : Nat} {q : Partition} {r : Report} {rest : List Report} (hc : q.ringCie = true)
    (hen : s.host.msixEn = true) (hm : tget true s.host.masks (1 + k) = false) (hb : s.host.bme = true) :
    .msix (1 + k) (tget (0, 0) s.host.table (1 + k)) ∈ (s.leave k q r rest).out := by
  unfold State.leave
  extract_lets t u'
  have ht : t.host = { s.host with pend := t.host.pend } := by
    have h : t.host = { (s.entered k q r rest).host with pend := t.host.pend } := (emit_said (p := k)).host
    rw [entered_frame] at h
    exact h
  have hmem : .msix (1 + k) (tget (0, 0) s.host.table (1 + k)) ∈ u'.out := by
    have h := msix_mem (s := t) (v := 1 + k) (by rw [ht, hen]) (by rw [ht, hm]) (by rw [ht, hb])
    unfold u'
    rw [if_pos hc]
    rwa [ht] at h
  split
  · exact msix_said (p := k) |>.out hmem
  · exact hmem

/-- Bytes that fit into a reply buffer are put there (R283). -/
theorem replyPut_reply {w : Nat} {b : List Byte} (hw : w < s.windows.length) (hb : (s.win w).reply.length + b.length ≤ 4096) :
    ((s.replyPut w b).win w).reply = (s.win w).reply ++ b := by
  unfold State.replyPut
  dsimp only
  rw [if_pos hb]
  split
  · rw [msix_win, win_updWin_same _ _ _ hw]
  · rw [win_updWin_same _ _ _ hw]

/-- A line that its window sends to the host stands in the reply buffer, with its MAC where the window is locked. -/
theorem emit_reply {w : Nat} {line : List Byte} (hw : w < s.windows.length)
    (hb : (s.win w).reply.length + (s.signedLine w line ++ [10]).length ≤ 4096) :
    ((s.emit w false line).win w).reply = (s.win w).reply ++ s.signedLine w line ++ [10] := by
  have hc : (s.countLine w).win w = s.win w := by
    rw [countLine_frame]
    rfl
  have hl : (s.countLine w).windows = s.windows := by rw [countLine_frame]
  rw [List.append_assoc, ← hc]
  exact replyPut_reply (by rwa [hl]) (by rwa [hc])

theorem signedLine_congr {w : Nat} {line : List Byte} (hses : (t.part w).session = (s.part w).session)
    (hseq : (t.part w).txSeq = (s.part w).txSeq) : t.signedLine w line = s.signedLine w line := by
  unfold State.signedLine State.winKey
  rw [hses, hseq]

theorem leave_reply {k : Nat} {q : Partition} {r : Report} {rest : List Report} (hk : k < s.parts.length)
    (hw : k < s.windows.length) (hu : r.ctx.uart = false)
    (hb : (s.win k).reply.length + (s.signedLine k r.line ++ [10]).length ≤ 4096) :
    ((s.leave k q r rest).win k).reply = (s.win k).reply ++ s.signedLine k r.line ++ [10] := by
  have hpart := entered_part (q := q) (r := r) (rest := rest) hk
  have hsigned : (s.entered k q r rest).signedLine k r.line = s.signedLine k r.line :=
    signedLine_congr (by rw [hpart]) (by rw [hpart])
  have hwin : (s.entered k q r rest).windows = s.windows := by rw [entered_frame]
  have hwk : (s.entered k q r rest).win k = s.win k := by rw [State.win, hwin, State.win]
  have hleave : (s.leave k q r rest).win k = ((s.entered k q r rest).emit k false r.line).win k := by
    unfold State.leave
    rw [hu]
    dsimp only
    split
    · split
      · rw [msix_win, msix_win]
      · rw [msix_win]
    · split
      · rw [msix_win]
      · rfl
  rw [hleave, ← hsigned, ← hwk]
  exact emit_reply (by rwa [hwin]) (by rwa [hwk, hsigned])

theorem emit_haltReply {k w : Nat} {uart : Bool} {line : List Byte} :
    ((s.emit w uart line).part k).haltReply = (s.part k).haltReply := by
  have hp : (s.emit w uart line).part k = (s.countLine w).part k := by
    rw [State.emit, deliver_frame]
    rfl
  rw [hp]
  unfold State.countLine
  split
  · rw [State.part, State.part, State.updPart, tget, tget, List.getD_eq_getElem?_getD, List.getD_eq_getElem?_getD,
      List.getElem?_modify]
    cases s.parts[k]? with
    | none => rfl
    | some q => by_cases hw : w = k <;> simp [hw]
  · rfl

theorem msix_part {v k : Nat} : (s.msix v).part k = s.part k := by
  rw [msix_frame]
  rfl

theorem leave_haltReply {k : Nat} {q : Partition} {r : Report} {rest : List Report} (hk : k < s.parts.length) :
    ((s.leave k q r rest).part k).haltReply = (s.part k).haltReply := by
  have h : (((s.entered k q r rest).emit k r.ctx.uart r.line).part k).haltReply = (s.part k).haltReply := by
    rw [emit_haltReply, entered_part hk]
  rw [← h]
  unfold State.leave
  dsimp only
  split
  · split
    · rw [msix_part, msix_part]
    · rw [msix_part]
  · split
    · rw [msix_part]
    · rfl

/-! ## The end of a launch -/

theorem endRun_frame {k status code : Nat} {run : Running} {line : List Byte} {fv : Bool} :
    s.endRun k run status code line fv = { s with
      cl := (s.endRun k run status code line fv).cl, parts := (s.endRun k run status code line fv).parts
      free := (s.endRun k run status code line fv).free } := by
  unfold State.endRun
  extract_lets sum copy rep v
  have hv : v = { s with cl := v.cl, free := v.free } := by
    refine foldl_keeps (fun t : State => t = { s with cl := t.cl, free := t.free }) _ _ s rfl fun t g h => ?_
    rw [h]
    rfl
  clear_value v
  rw [hv]
  rfl

/-- The report of a launch that has ended (R369). -/
def State.doneReport (s : State) (p : Nat) (r : Running) : Report :=
  launchReport r.la 1 0 r.suspect (s.tallySum p) s.runtime (evLine r.la.ctx [asc "done"]) false

/-- A launch has ended and its report waits (R257). -/
def State.ended (s : State) (p : Nat) (r : Running) : State := s.endRun p r 1 0 (evLine r.la.ctx [asc "done"]) false

theorem ended_part {k : Nat} {r : Running} (hk : k < s.parts.length) : (s.ended k r).part k = { s.part k with
    run := none, copy := some (s.tallyCopy k r), reports := (s.part k).reports ++ [s.doneReport k r] } := endRun_part hk

theorem ended_frame {k : Nat} {r : Running} : s.ended k r =
    { s with cl := (s.ended k r).cl, parts := (s.ended k r).parts, free := (s.ended k r).free } := endRun_frame

theorem launchEnd_eq {r : Running} (hr : (s.part p).run = some r) (hup : (s.part p).stat = .up)
    (hd : s.dev.dfault = none) (ho : s.launchOver p = true) (hstop : r.stop = .running) :
    exec (.launchEnd p obs) s = .next ((s.ended p r).pump p obs) := by
  change execLaunchEnd p s obs = _
  unfold execLaunchEnd
  rw [hr]
  dsimp only
  rw [if_pos (by simp [hup, hd, ho, Running.stopping, hstop])]
  rfl

/-- The ring holds reports back: it is full, or the host has taken Bus Master Enable away (R368, R372). -/
def State.ringWaits (s : State) (p : Nat) : Prop :=
  (s.part p).ringEn = true ∧ ((s.part p).ringFull = true ∨ s.host.bme = false)

section

variable {r : Report}

/-- What stands once the only report has been written to its done word, and then waits or leaves. -/
def State.written (s : State) (p : Nat) (obs : HwObs) (r : Report) : State :=
  (s.putDone p obs r).leave p (s.part p) r []

/-- A report that waits for the ring is in its done word, and nothing is sent (R257, R372). -/
def State.waiting (s : State) (p : Nat) (obs : HwObs) (r : Report) : State :=
  (s.putDone p obs r).updPart p fun q => { q with reports := [{ r with recorded := true }] }

theorem waiting_reports {k : Nat} (hk : k < s.parts.length) :
    ((s.waiting k obs r).part k).reports = [{ r with recorded := true }] := by
  rw [State.waiting, part_updPart_same _ _ _ (by rwa [putDone_frame])]

theorem waiting_quiet {k : Nat} : (s.waiting k obs r).out = s.out ∧ (s.waiting k obs r).windows = s.windows := by
  rw [State.waiting, putDone_frame]
  exact ⟨rfl, rfl⟩

theorem waiting_haltReply {k : Nat} (hk : k < s.parts.length) :
    ((s.waiting k obs r).part k).haltReply = (s.part k).haltReply := by
  rw [State.waiting, part_updPart_same _ _ _ (by rwa [putDone_frame]), putDone_frame]
  rfl

theorem written_part {k : Nat} (hk : k < s.parts.length) : ({ s.part k with
    prod := if (s.part k).ringEn then (s.part k).prod + 1 else (s.part k).prod, reports := [] } : Partition).Said
      ((s.written k obs r).part k) := by
  have hpart : (s.putDone k obs r).part k = s.part k := by
    rw [putDone_frame]
    rfl
  have h : ((s.putDone k obs r).entered k (s.part k) r []).part k = _ := entered_part (by rwa [putDone_frame])
  rw [hpart] at h
  exact h ▸ leave_said.part

theorem written_dram {k : Nat} : (s.written k obs r).dram = (s.putDone k obs r).dram := by
  rw [State.written, (leave_said (p := k)).dram, entered_frame]

/-! ## The only report that waits -/

/-- A partition's only report, its done word not held by the host. -/
structure State.OneReport (s : State) (p : Nat) (r : Report) : Prop where
  reports : (s.part p).reports = [r]
  dfault : s.dev.dfault = none
  recorded : r.recorded = false
  held : ∀ pa, r.done = some pa → s.snooped [(s.part p).da pa / 64] = []

theorem State.OneReport.pump_waits {k : Nat} (h : s.OneReport k r) (hw : s.ringWaits k) :
    s.pump k obs = ((s.waiting k obs r).haltDone k).settle k := by
  unfold State.ringWaits at hw
  rw [pump_of_one h.reports h.dfault h.recorded h.held, if_pos hw]
  rfl

theorem State.OneReport.pump_leaves {k : Nat} (h : s.OneReport k r) (hw : ¬ s.ringWaits k) :
    s.pump k obs = ((s.written k obs r).haltDone k).settle k := by
  unfold State.ringWaits at hw
  rw [pump_of_one h.reports h.dfault h.recorded h.held, if_neg hw]
  rfl

theorem State.OneReport.pump_dram {k : Nat} (h : s.OneReport k r) : (s.pump k obs).dram = (s.putDone k obs r).dram := by
  by_cases hw : s.ringWaits k
  · rw [h.pump_waits hw, (haltDone_settle_said (k := k)).dram]
    rfl
  · rw [h.pump_leaves hw, (haltDone_settle_said (k := k)).dram, written_dram]

/-- R368, R372: a report that the ring holds back is kept, and nothing is said. -/
theorem State.OneReport.waits {k : Nat} (h : s.OneReport k r) (hk : k < s.parts.length) (hw : s.ringWaits k) :
    ((s.pump k obs).part k).reports = [{ r with recorded := true }] ∧
      ((s.part k).haltReply = none → (s.pump k obs).out = s.out ∧ (s.pump k obs).windows = s.windows) := by
  rw [h.pump_waits hw]
  refine ⟨?_, fun hn => ?_⟩
  · rw [(haltDone_settle_said (k := k)).part, waiting_reports hk]
  · rw [haltDone_of_none ((waiting_haltReply hk).trans hn)]
    exact waiting_quiet

/-- R257, R371, R373: a report that nothing holds back enters the ring, its line is written, the host is told. -/
theorem State.OneReport.leaves {k : Nat} (h : s.OneReport k r) (hk : k < s.parts.length) (hkw : k < s.windows.length)
    (hw : ¬ s.ringWaits k) :
    ((s.pump k obs).part k).reports = [] ∧
      ((s.part k).ringEn = true → ((s.pump k obs).part k).prod = (s.part k).prod + 1 ∧
        .hostWrite (s.part k).ringAt.1 (r.bytes k (s.part k).ringAt.2) ∈ (s.pump k obs).out) ∧
      ((s.part k).ringCie = true → s.host.msixEn = true → tget true s.host.masks (1 + k) = false → s.host.bme = true →
        .msix (1 + k) (tget (0, 0) s.host.table (1 + k)) ∈ (s.pump k obs).out) ∧
      (r.ctx.uart = false → (s.part k).haltReply = none →
        (s.win k).reply.length + (s.signedLine k r.line ++ [10]).length ≤ 4096 →
        ((s.pump k obs).win k).reply = (s.win k).reply ++ s.signedLine k r.line ++ [10]) := by
  rw [h.pump_leaves hw]
  have hsaid := haltDone_settle_said (s := s.written k obs r) (k := k)
  have hpart := (written_part (obs := obs) (r := r) hk).trans hsaid.part
  have hhost : (s.putDone k obs r).host = s.host := by rw [putDone_frame]
  have hlen : (s.putDone k obs r).parts.length = s.parts.length := by rw [putDone_frame]
  have hput (j : Nat) : (s.putDone k obs r).part j = s.part j := by
    rw [putDone_frame]
    rfl
  have hwin : (s.putDone k obs r).windows = s.windows := by rw [putDone_frame]
  refine ⟨by rw [hpart], fun hen => ⟨by rw [hpart, if_pos hen], hsaid.out (hostWrite_mem_leave hen)⟩,
    fun hc hen hm hb => hsaid.out ?_, fun hu hn hb => ?_⟩
  · rw [← hhost] at hen hm hb ⊢
    exact msix_mem_leave hc hen hm hb
  · have hsigned : (s.putDone k obs r).signedLine k r.line = s.signedLine k r.line :=
      signedLine_congr (by rw [hput]) (by rw [hput])
    have hwk : (s.putDone k obs r).win k = s.win k := by rw [State.win, hwin, State.win]
    have hquiet : ((s.written k obs r).part k).haltReply = none := by
      rw [State.written, leave_haltReply (by rwa [hlen]), hput, hn]
    rw [haltDone_of_none hquiet, ← hsigned, ← hwk]
    exact leave_reply (by rwa [hlen]) (by rwa [hwin]) hu (by rwa [hsigned, hwk])

end

/-! ## The launch -/

theorem ended_win {k j : Nat} {r : Running} : (s.ended k r).win j = s.win j := by
  rw [ended_frame]
  rfl

theorem ended_da {k a : Nat} {r : Running} (hk : k < s.parts.length) : ((s.ended k r).part k).da a = (s.part k).da a := by
  rw [ended_part hk]
  rfl

/-- With no other report before it, the report of an ended launch is the only one. -/
theorem ended_oneReport {k : Nat} {r : Running} (hk : k < s.parts.length) (hd : s.dev.dfault = none)
    (hq : (s.part k).reports = []) (hheld : ∀ pa, r.la.done = some pa → s.snooped [(s.part k).da pa / 64] = []) :
    (s.ended k r).OneReport k (s.doneReport k r) where
  reports := by rw [ended_part hk, hq, List.nil_append]
  dfault := by rw [ended_frame, hd]
  recorded := rfl
  held := by
    intro pa hpa
    have h := hheld pa hpa
    rw [ended_da hk]
    rw [ended_frame]
    exact h

theorem ended_ringWaits {k : Nat} {r : Running} (hk : k < s.parts.length) :
    (s.ended k r).ringWaits k ↔ s.ringWaits k := by
  have hb : (s.ended k r).host = s.host := by rw [ended_frame]
  unfold State.ringWaits
  rw [ended_part hk, hb]
  rfl

/-- R369: with no done word the report leaves device memory alone. -/
theorem putDone_of_none {k : Nat} {r : Report} (h : r.done = none) : s.putDone k obs r = s := by
  unfold State.putDone
  rw [h]

/-- R342, R369: what the end of a launch leaves of device memory. -/
theorem launchEnd_memory {r : Running} (hk : p.val < s.parts.length) (hone : (s.ended p r).OneReport p (s.doneReport p r)) :
    (r.la.done = none → ((s.ended p r).pump p obs).dram = s.dram) ∧
      (∀ pa, r.la.done = some pa → s.poison = [] → obs.dramUe = [] → obs.ccUe = [] → s.memOk = true →
        ∀ a, ((s.ended p r).pump p obs).rdDa a =
          (lastAt ((cellsAt pa ((s.doneReport p r).bytes p false)).map fun c => ((s.part p).da c.1, c.2)) a).getD
            (s.rdDa a)) ∧
      ∀ pa, r.la.done = some pa → s.cause ((s.part p).da pa / 64) ≠ none → pa % 32 = 0 →
        ((s.ended p r).pump p obs).dram = s.dram := by
  have hmems : (s.ended p r).mems = s.mems := endRun_mems
  have hdram : (s.ended p r).dram = s.dram := congrArg Mems.dram hmems
  have hda (a : Nat) : ((s.ended p r).part p).da a = (s.part p).da a := ended_da hk
  refine ⟨fun hn => ?_, fun pa hpa hp hd hc hm a => ?_, fun pa hpa hc h32 => ?_⟩
  · rw [hone.pump_dram, putDone_of_none hn, hdram]
  · have hput := putDone_rdDa (s := s.ended p r) (p := p) (a := a) (r := s.doneReport p r) hpa
      (by rw [ended_frame, hp]) hd hc (by rwa [memOk_iff, hmems, ← memOk_iff])
    rw [State.rdDa, hone.pump_dram]
    simp only [hda] at hput
    rw [rdDa_of_mems hmems] at hput
    exact hput
  · rw [hone.pump_dram, putDone_dram_of_poisoned hpa h32 (by rw [hda, ended_frame]; exact hc), hdram]

/-- R257, R368, R371 to R373: how the report of an ended launch waits, or leaves. -/
theorem launchEnd_report {r : Running} (hs : s.sized = true)
    (hone : (s.ended p r).OneReport p (s.doneReport p r)) :
    (s.ringWaits p → (((s.ended p r).pump p obs).part p).reports = [{ s.doneReport p r with recorded := true }] ∧
      ((s.part p).haltReply = none → ((s.ended p r).pump p obs).out = s.out ∧
        ((s.ended p r).pump p obs).windows = s.windows)) ∧
      (¬ s.ringWaits p → (((s.ended p r).pump p obs).part p).reports = [] ∧
        ((s.part p).ringEn = true → (((s.ended p r).pump p obs).part p).prod = (s.part p).prod + 1 ∧
          .hostWrite (s.part p).ringAt.1 ((s.doneReport p r).bytes p (s.part p).ringAt.2) ∈
            ((s.ended p r).pump p obs).out) ∧
        ((s.part p).ringCie = true → s.host.msixEn = true → tget true s.host.masks (1 + p) = false →
          s.host.bme = true → .msix (1 + p) (tget (0, 0) s.host.table (1 + p)) ∈ ((s.ended p r).pump p obs).out) ∧
        (r.la.ctx.uart = false → (s.part p).haltReply = none →
          (s.win p).reply.length + (s.signedLine p (evLine r.la.ctx [asc "done"]) ++ [10]).length ≤ 4096 →
          (((s.ended p r).pump p obs).win p).reply =
            (s.win p).reply ++ s.signedLine p (evLine r.la.ctx [asc "done"]) ++ [10])) := by
  have hk := part_lt_length (p := p) hs
  have hsized : (s.ended p r).sized = true := endRun_sized hs
  have hk' := part_lt_length (p := p) hsized
  have hkw' : p.val < (s.ended p r).windows.length := by
    obtain ⟨hwin, -⟩ := sized_iff.mp hsized
    omega
  have hhost : (s.ended p r).host = s.host := by rw [ended_frame]
  have hout : (s.ended p r).out = s.out := by rw [ended_frame]
  have hwins : (s.ended p r).windows = s.windows := by rw [ended_frame]
  have hpart := ended_part (r := r) hk
  have hsigned (line : List Byte) : (s.ended p r).signedLine p line = s.signedLine p line :=
    signedLine_congr (by rw [hpart]) (by rw [hpart])
  refine ⟨fun hw => ?_, fun hw => ?_⟩
  · have h := hone.waits (obs := obs) hk' ((ended_ringWaits hk).mpr hw)
    rwa [hout, hwins, hpart] at h
  · have h := hone.leaves (obs := obs) hk' hkw' (mt (ended_ringWaits hk).mp hw)
    rw [hhost, hsigned, ended_win, hpart] at h
    exact h

end

/-- Settles O34: what the start of a launch, its end with its report, and its deadline leave. -/
theorem launchesStartAndEnd : Obligations.LaunchesStartAndEnd := by
  unfold Obligations.LaunchesStartAndEnd
  refine ⟨fun s p la rest hs hc hm hq => ?_,
    fun s p r obs hs hc hr hup => ⟨fun hd ho hstop => ?_, deadline_faults hs hr hup⟩⟩
  · obtain ⟨t, hex, hqueue, hset, hpend, htick, hrun, hclu, hrally, hdram, hout⟩ := launchStart_starts hs hc hm hq
    exact ⟨t, hex, hqueue, hset, hpend, htick, hrun, fun i hi => (hclu i hi).fields, hrally, hdram, hout⟩
  · intro q line rep waits
    have hk := part_lt_length (p := p) hs
    have hpart := ended_part (r := r) hk
    have hpumped : (s.ended p r).Pumped p ((s.ended p r).pump p obs) := pump_pumped
    refine ⟨_, launchEnd_eq hr hup hd ho hstop, ?_, ⟨s.tallyCopy p r, ?_, rfl, rfl, rfl⟩, fun hq hheld => ?_,
      fun g => ?_⟩
    · rw [hpumped.run, hpart]
    · rw [hpumped.copy, hpart]
    · have hone := ended_oneReport hk hd hq hheld
      obtain ⟨hnone, hget, hpoisoned⟩ := launchEnd_memory (obs := obs) hk hone
      obtain ⟨hwaits, hleaves⟩ := launchEnd_report (obs := obs) hs hone
      exact ⟨hnone, hget, hpoisoned, hwaits, hleaves⟩
    · rw [State.clu, hpumped.cl]
      exact clu_sp_of_mems (t := s.ended p r) (v := s) endRun_mems g

end Sys2Proof.Machine

namespace Sys2Proof.Machine

/-! # What a fault leaves of the memories

A fault latches and abandons what is in flight (R446). `State.unwrite` puts one byte back to what it was before its long word,
and nothing else that the latch does touches a memory: so `State.Abandoned` holds of any error that latches
(`latch_abandoned`). A long word that fails before it moves data leaves no more than that (`latch_of_issuing`). -/

section

variable {s t u v : State} {os : List OldByte} {o : OldByte} {p : Nat}

/-! ## Bytes put back -/

theorem State.Abandoned.refl (u : State) (os : List OldByte) : u.Abandoned u os :=
  ⟨fun _ => .inl rfl, fun _ => .inl rfl, fun _ _ => .inl rfl, fun _ => rfl⟩

/-- What was abandoned shows in the memories alone. -/
theorem State.Abandoned.of_mems (ht : t.Abandoned u os) (hm : v.mems = t.mems) : v.Abandoned u os := by
  obtain ⟨hdram, hcause, hsp, hvr⟩ := ht
  refine ⟨fun a => ?_, fun l => ?_, fun c a => ?_, fun c => (clu_vr_of_mems hm c).trans (hvr c)⟩
  · rw [State.rdDa, dram_of_mems hm]
    exact hdram a
  · rw [State.cause, poison_of_mems hm]
    exact hcause l
  · rw [clu_sp_of_mems hm]
    exact hsp c a

/-- A byte of device memory is put back. -/
theorem State.Abandoned.setDram (ht : t.Abandoned u os) (hok : t.mems.Ok) (ho : o ∈ os) (hclu : o.clu = none) :
    ({ t with dram := spSet 0 t.dram o.adr o.old } : State).Abandoned u os := by
  obtain ⟨hdram, hcause, hsp, hvr⟩ := ht
  refine ⟨fun a => ?_, hcause, hsp, hvr⟩
  have hrd : ({ t with dram := spSet 0 t.dram o.adr o.old } : State).rdDa a = if a = o.adr then o.old else t.rdDa a :=
    spGet_spSet 0 t.dram o.adr a o.old hok.1
  rw [hrd]
  split
  next ha => exact .inr ⟨o, ho, hclu, ha.symm, rfl⟩
  next => exact hdram a

/-- A mark is new on its line only, and there only where the line had none. -/
theorem mark_cause (hok : t.mems.Ok) (l k : Nat) (c : Cause) :
    (t.mark l c).cause k = t.cause k ∨ (t.cause k = none ∧ l = k ∧ (t.mark l c).cause k = some c) := by
  by_cases hl : (t.cause l).isSome = true
  · exact .inl (by rw [State.mark, if_pos hl])
  · have hcause : (t.mark l c).cause k = spGet none (spSet none t.poison l (some c)) k := by
      rw [State.mark, if_neg hl]
      dsimp only
      split <;> rfl
    rw [hcause, spGet_spSet none t.poison l k (some c) hok.2.1]
    by_cases hk : k = l
    · subst hk
      exact .inr ⟨by simpa using hl, rfl, if_pos rfl⟩
    · exact .inl (if_neg hk)

/-- The line of a byte that is put back is marked as it was. -/
theorem State.Abandoned.mark {c : Cause} (ht : t.Abandoned u os) (hok : t.mems.Ok) (ho : o ∈ os) (hclu : o.clu = none)
    (hmark : o.mark = some c) : (t.mark (o.adr / 64) c).Abandoned u os := by
  obtain ⟨hdram, hcause, hsp, hvr⟩ := ht
  have hclusters (j : Nat) : (t.mark (o.adr / 64) c).clu j = t.clu j := by rw [mark_frame]; rfl
  refine ⟨fun a => ?_, fun l => ?_, fun j a => ?_, fun j => ?_⟩
  · rw [mark_frame]
    exact hdram a
  · obtain hsame | ⟨hnone, hl, hnew⟩ := mark_cause hok (o.adr / 64) l c
    · rw [hsame]
      exact hcause l
    · have hu : u.cause l = none := by
        obtain h | ⟨h, -⟩ := hcause l
        · rw [← h, hnone]
        · exact h
      exact .inr ⟨hu, o, ho, hclu, hl, hnew.trans hmark.symm⟩
  · rw [hclusters]
    exact hsp j a
  · rw [hclusters]
    exact hvr j

theorem clu_sp_wf (hok : t.mems.Ok) (c : Nat) : Memory.wf (t.clu c).sp = true := by
  rw [State.clu, tget]
  by_cases hc : c < t.cl.length
  · rw [List.getD_eq_getElem _ _ hc]
    exact ((ok_iff.mp hok).2.2 _ (List.getElem_mem _)).1
  · rw [List.getD_eq_default _ _ (not_lt.mp hc)]
    rfl

/-- An update reaches the cluster that it names, where there is one. -/
theorem clu_updClu_cases (c j : Nat) (f : Cluster → Cluster) :
    (t.updClu c f).clu j = t.clu j ∨ (c = j ∧ (t.updClu c f).clu j = f (t.clu j)) := by
  by_cases hcj : c = j
  · subst hcj
    by_cases hc : c < t.cl.length
    · exact .inr ⟨rfl, clu_updClu_same t c f hc⟩
    · exact .inl (by simp [State.clu, tget, State.updClu, List.getD_eq_getElem?_getD, not_lt.mp hc])
  · exact .inl (clu_updClu_ne t c j f hcj)

/-- A byte of a scratchpad is put back. -/
theorem State.Abandoned.setSp {c : Nat} (ht : t.Abandoned u os) (hok : t.mems.Ok) (ho : o ∈ os) (hclu : o.clu = some c) :
    (t.updClu c fun k => { k with sp := spSet 0 k.sp o.adr o.old }).Abandoned u os := by
  obtain ⟨hdram, hcause, hsp, hvr⟩ := ht
  refine ⟨hdram, hcause, fun j a => ?_, fun j => ?_⟩
  · obtain hsame | ⟨rfl, hnew⟩ := clu_updClu_cases (t := t) c j fun k => { k with sp := spSet 0 k.sp o.adr o.old }
    · rw [hsame]
      exact hsp j a
    · rw [hnew, spGet_spSet 0 _ _ _ _ (clu_sp_wf hok c)]
      split
      next ha => exact .inr ⟨o, ho, hclu, ha.symm, rfl⟩
      next => exact hsp c a
  · rw [clu_updClu fun _ => rfl]
    exact hvr j

theorem State.Abandoned.unwrite (ht : t.Abandoned u os) (hok : t.mems.Ok) (ho : o ∈ os) :
    (t.unwrite o).Abandoned u os := by
  unfold State.unwrite
  split
  next hclu =>
    have hbyte := ht.setDram hok ho hclu
    have hbyteOk : ({ t with dram := spSet 0 t.dram o.adr o.old } : State).mems.Ok :=
      ok_of_same_clusters hok (spSet_wf 0 _ _ _ hok.1) hok.2.1 rfl
    dsimp only
    split
    next hmark => exact hbyte.mark hbyteOk ho hclu hmark
    next => exact hbyte
  next hclu => exact ht.setSp hok ho hclu

/-! ## What is in flight at a latch -/

theorem State.Abandoned.abandonWrites {es : List (Undo × Nat)} {ws : List (Option Nat × Nat)} (ht : t.Abandoned u os)
    (hok : t.mems.Ok) (hes : ∀ e ∈ es, ∀ o ∈ e.1.bytes, o ∈ os) : (t.abandonWrites es ws).Abandoned u os := by
  induction es generalizing t ws with
  | nil => exact ht
  | cons e r ih =>
    obtain ⟨he, hr⟩ := List.forall_mem_cons.mp hes
    have hone (l : List OldByte) (hl : ∀ o ∈ l, o ∈ os) :
        (l.foldl State.unwrite t).Abandoned u os ∧ (l.foldl State.unwrite t).mems.Ok :=
      List.foldlRecOn l State.unwrite (motive := fun v : State => v.Abandoned u os ∧ v.mems.Ok) ⟨ht, hok⟩
        fun v ⟨hv, hvok⟩ o ho => ⟨hv.unwrite hvok (hl o ho), unwrite_ok hvok⟩
    obtain ⟨hv, hvok⟩ := hone _ fun o ho => he o (List.mem_filter.mp ho).1
    exact ih hv hvok hr

/-- What the engines of a partition had in flight is what its latch may put back (R446). -/
theorem State.Abandoned.abandonAll (ht : t.Abandoned u (t.inFlight p)) (hok : t.mems.Ok) :
    (t.abandonAll p).Abandoned u (t.inFlight p) := by
  unfold State.abandonAll
  extract_lets mine es
  split
  · exact ht
  · have hes : ∀ e ∈ es.zipIdx.reverse, ∀ o ∈ e.1.bytes, o ∈ t.inFlight p := fun e he o ho =>
      List.mem_flatMap.mpr ⟨e.1, List.fst_mem_of_mem_zipIdx (List.mem_reverse.mp he), ho⟩
    exact (ht.abandonWrites hok hes).of_mems rfl

theorem stopEngines_mems : (s.stopEngines p).mems = (s.abandonAll p).mems := by simp [State.stopEngines]

/-- Of all that a latch does, the end of what is in flight alone touches memories. -/
theorem latch_mems {e : HwErr} (h : (s.part p).mayLatch e.code = true) :
    (s.latch p e).mems = ((s.updPart p (·.latched e)).abandonAll p).mems := by
  have hup : (s.part p).stat = .up := by
    simp only [Partition.mayLatch, Bool.and_eq_true, beq_iff_eq] at h
    exact h.1
  have hstop : (s.latch p e).mems = ((s.updPart p (·.latched e)).stopEngines p).mems := by
    simp [State.latch, State.latchAll, hup, h, Partition.latched]
  rw [hstop, stopEngines_mems]

/-- The long words in flight of a partition are those of its clusters, which its courts give. -/
theorem inFlight_congr (hu : t.undo = s.undo) (hc : (t.part p).courts = (s.part p).courts) :
    t.inFlight p = s.inFlight p := by
  have hglob : (t.part p).glob = (s.part p).glob := by
    funext c
    rw [Partition.glob, Partition.glob, hc]
  rw [State.inFlight, State.inFlight, Partition.clusters, Partition.clusters, hu, hc, hglob]

/-- An error that latches writes nothing, and of the long words in flight puts back what is not written yet (R446). -/
theorem latch_abandoned {e : HwErr} (hp : p < s.parts.length) (hok : s.mems.Ok)
    (h : (s.part p).mayLatch e.code = true) : (s.latch p e).Abandoned s (s.inFlight p) := by
  have hmems : (s.updPart p (·.latched e)).mems = s.mems := updPart_mems
  have hflight : (s.updPart p (·.latched e)).inFlight p = s.inFlight p :=
    inFlight_congr rfl (by rw [part_updPart_same s p _ hp]; rfl)
  rw [← hflight]
  exact (((State.Abandoned.refl s _).of_mems hmems).abandonAll (hmems ▸ hok)).of_mems (latch_mems h)

/-- FFREC is that of the error that latches (R444). -/
theorem latch_ffrec {e : HwErr} (hp : p < s.parts.length) (h : (s.part p).mayLatch e.code = true) :
    ((s.latch p e).part p).ffrec = ffrecOf e false (s.part p).run := by
  have hpart := (latch_stops h).part
  rw [part_updPart_same s p _ hp] at hpart
  rw [hpart]
  rfl

end

/-! ## A long word that fails at its issue -/

section

variable {s u : State} {h : Head} {g st : Nat} {op : Op} {obs : HwObs} {args : List Arg} {e : HwErr}

/-- The partition of a long word at the head of a stream runs a launch. -/
theorem head_running (hh : s.head g st = some h) : h.p < s.parts.length ∧ (s.part h.p).run.isSome = true := by
  unfold State.head at hh
  split at hh
  · cases hh
  next p hown =>
    dsimp only at hh
    split at hh
    · cases hh
    next r hrun =>
      split at hh
      · cases hh
      · split at hh
        · cases hh
          exact ⟨(List.findIdx?_eq_some_iff_findIdx_eq.mp hown).1, Option.isSome_of_mem hrun⟩
        · cases hh

/-- The partition of a long word that issues is RUNNING (R150). -/
theorem issuing_running (hi : s.issuing g st op = some h) : h.p < s.parts.length ∧ (s.part h.p).state = 3 := by
  unfold State.issuing at hi
  split at hi
  next k hk =>
    obtain ⟨hp, hrun⟩ := head_running hk
    split at hi
    next hc =>
      cases hi
      have hup : (s.part h.p).stat = .up := by
        have hready := hc.2
        simp only [ready, localReady, Bool.and_eq_true, beq_iff_eq, and_assoc] at hready
        exact hready.2.1
      exact ⟨hp, by simp [Partition.state, hup, hrun]⟩
    · cases hi
  · cases hi

/-- Corrected words are counted in their clusters, nothing else changes. -/
theorem spSeen_frame {cs : List Nat} : s.spSeen cs obs = { s with cl := (s.spSeen cs obs).cl } :=
  foldl_keeps (fun t : State => t = { s with cl := t.cl }) _ _ s rfl fun t c ht => by
    rw [ht]
    rfl

theorem readDescs_parts : (s.readDescs h g st op obs).parts = s.parts := by rw [State.readDescs, observe_frame]

theorem readDescs_undo : (s.readDescs h g st op obs).undo = s.undo := by rw [State.readDescs, observe_frame]

theorem readArgs_parts : (s.readArgs h g st op obs args).parts = s.parts := by
  rw [State.readArgs, State.seen, spSeen_frame, observe_frame]

theorem readArgs_undo : (s.readArgs h g st op obs args).undo = s.undo := by
  rw [State.readArgs, State.seen, spSeen_frame, observe_frame]

theorem readDescs_ok (hok : s.mems.Ok) : (s.readDescs h g st op obs).mems.Ok := observe_ok hok

theorem readArgs_ok (hok : s.mems.Ok) : (s.readArgs h g st op obs args).mems.Ok := by
  simp [State.readArgs, State.seen, hok]

/-- A long word at its issue meets an error in a state that has read and not yet written: the error latches with its code and
its ADDR, and nothing is moved. -/
theorem latch_of_issuing (hi : s.issuing g st op = some h) (hparts : u.parts = s.parts) (hundo : u.undo = s.undo)
    (hok : u.mems.Ok) (he : e.code < 256) :
    ((u.latch h.p e).part h.p).state = 4 ∧ ((u.latch h.p e).part h.p).ffCode = e.code ∧
      tget 0 ((u.latch h.p e).part h.p).ffrec 2 = BitVec.ofNat 32 e.addr ∧
      (u.latch h.p e).Abandoned u (s.inFlight h.p) := by
  have hpart : u.part h.p = s.part h.p := by rw [State.part, hparts, State.part]
  obtain ⟨hp, hr⟩ := issuing_running hi
  rw [← hparts] at hp
  rw [← hpart] at hr
  have hmay : (u.part h.p).mayLatch e.code = true := by simp [Partition.mayLatch, stat_of_running hr, hr]
  obtain ⟨hstate, hcode, -⟩ := latch_of_running hp hr he
  refine ⟨hstate, hcode, ?_, ?_⟩
  · rw [latch_ffrec hp hmay]
    rfl
  · rw [← inFlight_congr hundo (congrArg Partition.courts hpart)]
    exact latch_abandoned hp hok hmay

variable {body : Head → List Arg → State → State} {r v : State}

/-- The checks of the operands come first (R138). -/
theorem withArgs_of_resolve_error (hi : s.issuing g st op = some h) (hheld : s.snooped (s.descLines h g st op.opnds) = [])
    (hr : s.readDescs h g st op obs = r) (hres : resolveAll r h g st op.opnds = .error e) :
    withArgs s g st op obs body = r.latch h.p e := by
  rw [withArgs, withHead_issuing s g st op _ h hi]
  simp [hheld, hr, hres]

/-- What the reads meet comes after the checks, before the operation's own effect (R342, R343). -/
theorem withArgs_of_readErr (hi : s.issuing g st op = some h) (hheld : s.snooped (s.descLines h g st op.opnds) = [])
    (hr : s.readDescs h g st op obs = r) (hres : resolveAll r h g st op.opnds = .ok args)
    (hlate : lateChecks r h g st args = none) (hmap : noShardMap op args = false)
    (hshard : shardFault (r.part h.p) h args = none) (hargs : s.snooped (r.argLines h g st op args) = [])
    (hv : r.readArgs h g st op obs args = v) (hread : readErr v h g st obs (readsOf v h.p g op args) = some e) :
    withArgs s g st op obs body = v.latch h.p e := by
  rw [withArgs, withHead_issuing s g st op _ h hi]
  simp [hheld, hr, hres, hlate, hmap, hshard, hargs, hv, hread]

end

/-- The long words whose operands descriptors name: each with its command and its stream. -/
def engineWords (g : Clu) (obs : HwObs) : List (Op × Instr × Nat) :=
  [(.ldt, .ldt g obs, 0), (.lds, .lds g obs, 0), (.ldx, .ldx g obs, 0), (.gath, .gath g obs, 0), (.rsum, .rsum g obs, 2),
    (.rmax, .rmax g obs, 2), (.rmin, .rmin g obs, 2), (.rssq, .rssq g obs, 2), (.rdot, .rdot g obs, 2),
    (.argmx, .argmx g obs, 2), (.argmn, .argmn g obs, 2), (.topk, .topk g obs, 2), (.scan, .scan g obs, 2),
    (.xred, .xred g obs, 2), (.rly, .rly g obs, 2), (.trn, .trn g obs, 3), (.perm, .perm g obs, 3), (.cpy, .cpy g obs, 3),
    (.bcst, .bcst g obs, 3), (.scat, .scat g obs, 3), (.gatp, .gatp g obs, 3), (.pack, .pack g obs, 3),
    (.unpk, .unpk g obs, 3), (.sort, .sort g obs, 3), (.stt, .stt g obs, 4), (.stx, .stx g obs, 4), (.put, .put g obs, 4)]

/-- Each of these commands reads its operands first, and what it does with them comes after. -/
theorem exec_engineWords (s : State) (g : Clu) (obs : HwObs) :
    ∀ x ∈ engineWords g obs, ∃ body, exec x.2.1 s = .next (withArgs s g x.2.2 x.1 obs body) := by
  simp only [engineWords, List.forall_mem_cons, List.not_mem_nil, false_imp_iff, implies_true, and_true]
  and_intros
  all_goals exact ⟨_, rfl⟩

/-- Settles O46: a long word that fails as its operands are resolved or read has only read before (`withArgs_of_…`), and its
error latches in that state (`latch_of_issuing`). -/
theorem engineFaultsMoveNothing : Obligations.EngineFaultsMoveNothing := by
  intro s g obs h op c st _ _ hmem hi hheld hm r
  obtain ⟨body, hexec⟩ := exec_engineWords s g obs (op, c, st) hmem
  have hr : r.mems.Ok := readDescs_ok (memOk_iff.mp hm)
  refine ⟨fun e hres he => ⟨r.latch h.p e, ?_, latch_of_issuing hi readDescs_parts readDescs_undo hr he⟩,
    fun args e hres hlate hmap hshard hargs ⟨hread, he⟩ => ?_⟩
  · rw [hexec, withArgs_of_resolve_error hi hheld rfl hres]
  · obtain ⟨hstate, hcode, -, hab⟩ := latch_of_issuing (u := r.readArgs h g st op obs args) hi
      (readArgs_parts.trans readDescs_parts) (readArgs_undo.trans readDescs_undo) (readArgs_ok hr) he
    exact ⟨_, by rw [hexec, withArgs_of_readErr hi hheld rfl hres hlate hmap hshard hargs rfl hread], hstate, hcode, hab⟩

end Sys2Proof.Machine

namespace Sys2Proof.Machine

/-! # The issue of the operations that every stream may hold (R150, R151, R156, R162, R232 to R236)

Each of the ten issues, and then acts on its own stream, its count unit or the stop of its launch. `issueWith_str` says where
its stream stands then, `State.CommonIssue` what all ten share. -/

section

variable {s t : State} {h : Head} {g : Clu} {st : Strm} {w : Waits} {adv : StreamSt → StreamSt} {op : Op}

/-! ## The stream of an issue -/

/-- A way to go on after a long word: it changes the stream's offset, loop counters and loops only. -/
def MovesOn (adv : StreamSt → StreamSt) : Prop :=
  ∀ x, adv x = { x with pc := (adv x).pc, l := (adv x).l, loops := (adv x).loops }

theorem advance_movesOn {n : Nat} : MovesOn fun x => x.advance n := fun x => loopNext_frame 5 x (x.pc + n)

theorem loopEnter_movesOn {lw : LW} : MovesOn (loopEnter lw) := by
  intro x
  unfold loopEnter
  dsimp only
  split
  · rw [loopNext_frame]
  · rfl

/-- Where a stream goes after a BR (R234). -/
def branchTo (lw : LW) (taken : Bool) (x : StreamSt) : StreamSt :=
  if taken then { x with pc := ((x.pc : Int) + lw.brOff).toNat } else x.advance lw.len

theorem branchTo_movesOn {lw : LW} {taken : Bool} : MovesOn (branchTo lw taken) := by
  intro x
  unfold branchTo
  split
  · rfl
  · exact advance_movesOn x

/-- The stream of an issue: counted, in flight, moved on; then it fetches. -/
theorem issueWith_str (hs : s.sized) : (issueWith s h g st w adv).str g st =
    { adv ((s.str g st).issueLw h w) with fetch := ((issueWith s h g st w adv).str g st).fetch } := by
  have hk : (s.updClu g fun k => k.issueLw h st).clu g = (s.clu g).issueLw h st :=
    clu_updClu_same s g _ (cl_length hs g.isLt)
  have hlen : g.val < (s.updClu g fun k => k.issueLw h st).cl.length := by simpa using cl_length hs g.isLt
  have hst : st.val < ((s.updClu g fun k => k.issueLw h st).clu g).streams.length := by
    rw [hk]
    exact st.isLt.trans_eq (streams_length hs g.isLt).symm
  have hstr : (s.updClu g fun k => k.issueLw h st).str g st = s.str g st := by
    rw [State.str, hk]
    rfl
  have hx : (issueWith s h g st w adv).str g st =
      { (adv ((s.str g st).issueLw h w)).unqueue h.op with fetch := ((issueWith s h g st w adv).str g st).fetch } := by
    rw [State.str, issueWith_clu, ← State.str, State.fetch, str_updStr_same _ g st _ (by rwa [updStr_cl_length])
      (by rw [clu_updStr_same hlen]; exact hst.trans_eq (List.length_modify ..).symm),
      str_updStr_same _ g st _ hlen hst, hstr]
    split <;> rfl
  rw [hx, unqueue_frame]

/-! ## The partition of an issue -/

theorem signal_part_ne {lw : LW} {p r : Nat} (hr : r ≠ p) : (s.signal p g lw).part r = s.part r := by
  unfold State.signal
  split
  · exact part_updPart_ne s p r _ hr.symm
  · rfl

/-- A signal in transit (R162). -/
theorem signal_part {lw : LW} {p k c : Nat} (hp : p < s.parts.length) (hsig : lw.sigTok = some (k, c)) :
    (s.signal p g lw).part p = { s.part p with
      signals := (s.part p).signals ++ [(if c = 255 then g.val else (s.part p).glob c, k)] } := by
  simp only [State.signal, hsig]
  exact part_updPart_same s p _ hp

theorem issueWith_part_ne {r : Nat} (hr : r ≠ h.p) : (issueWith s h g st w adv).part r = s.part r := by
  unfold issueWith
  dsimp only
  rw [issueStop_part_ne hr]
  split
  · exact signal_part_ne hr
  · rfl

/-- Where no step, stop or break concerns the long word, its issue leaves them as they are (R262 to R264). -/
theorem issueStop_of_plain {n : Nat} (hstop : h.run.stop = .running) (hb : breakHit (s.part h.p) h.rel st n = false) :
    s.issueStop h st n = s := by
  simp [State.issueStop, hstop, hb]

/-! ## What the ten issues share -/

/-- What the issue of an operation of every stream leaves: its long word is counted and in flight, its issue events have
happened; beside them it may change where its own stream stands, the count unit and its partition. -/
structure State.CommonIssue (s t : State) (h : Head) (g : Clu) (st : Strm) : Prop where
  issued : (t.str g st).issued = (s.str g st).issued + 1
  flight : (t.str g st).flight = (s.str g st).flight ++ [h.flight (s.str g st) .nothing]
  own : t.clu g = { (s.clu g).issueLw h st with
    streams := (t.clu g).streams, e := (t.clu g).e, w := (t.clu g).w, q := (t.clu g).q }
  streams : ∀ j, j ≠ st.val → t.str g j = s.str g j
  clusters : ∀ j, j ≠ g.val → t.clu j = s.clu j
  parts : ∀ r, r ≠ h.p → t.part r = s.part r
  rest : { t with cl := s.cl, parts := s.parts, free := s.free } = s

theorem issueWith_commonIssue (hs : s.sized) (hadv : MovesOn adv) :
    s.CommonIssue (issueWith s h g st .nothing adv) h g st where
  issued := by rw [issueWith_str hs, hadv]; rfl
  flight := by rw [issueWith_str hs, hadv]; rfl
  own := by rw [issueWith_clu_own (cl_length hs g.isLt)]
  streams j hj := issueWith_str_ne (cl_length hs g.isLt) hj
  clusters j hj := issueWith_clu_ne hj
  parts r hr := issueWith_part_ne hr
  rest := by rw [issueWith_frame]

/-- What the operation then does to its own stream leaves the long word counted and in flight. -/
theorem State.CommonIssue.updStr {f : StreamSt → StreamSt} (ht : s.CommonIssue t h g st) (hsz : t.sized)
    (hi : ∀ x, (f x).issued = x.issued) (hf : ∀ x, (f x).flight = x.flight) : s.CommonIssue (t.updStr g st f) h g st := by
  have hclu : (t.updStr g st f).clu g = (t.clu g).updStr st f := clu_updStr_same (cl_length hsz g.isLt)
  have hstr : (t.updStr g st f).str g st = f (t.str g st) :=
    str_updStr_same t g st f (cl_length hsz g.isLt) (st.isLt.trans_eq (streams_length hsz g.isLt).symm)
  exact {
    issued := by rw [hstr, hi, ht.issued]
    flight := by rw [hstr, hf, ht.flight]
    own := by rw [hclu, Cluster.updStr, ht.own]
    streams := fun j hj => by
      rw [← ht.streams j hj, State.str, hclu]
      exact tget_modify_ne _ _ _ _ _ hj.symm
    clusters := fun j hj => (clu_updStr_ne t g j st f hj.symm).trans (ht.clusters j hj)
    parts := ht.parts
    rest := ht.rest }

/-- The operation then acts on the count unit. -/
theorem State.CommonIssue.updClu {f : Cluster → Cluster} (ht : s.CommonIssue t h g st) (hsz : t.sized)
    (hf : ∀ k, f k = { k with e := (f k).e, w := (f k).w, q := (f k).q }) : s.CommonIssue (t.updClu g f) h g st := by
  have hclu : (t.updClu g f).clu g = f (t.clu g) := clu_updClu_same t g f (cl_length hsz g.isLt)
  have hstr (j : Nat) : (t.updClu g f).str g j = t.str g j := by rw [State.str, hclu, hf]; rfl
  exact {
    issued := by rw [hstr, ht.issued]
    flight := by rw [hstr, ht.flight]
    own := by rw [hclu, hf, ht.own]
    streams := fun j hj => (hstr j).trans (ht.streams j hj)
    clusters := fun j hj => (clu_updClu_ne t g j f hj.symm).trans (ht.clusters j hj)
    parts := ht.parts
    rest := ht.rest }

/-- The operation then stops its launch. -/
theorem State.CommonIssue.trigger {rel : Nat} (ht : s.CommonIssue t h g st) :
    s.CommonIssue (t.trigger h.p rel st) h g st :=
  { ht with parts := fun r hr => (part_updPart_ne t h.p r _ hr.symm).trans (ht.parts r hr) }

/-! ## Time that passes for timers and counters (R169, R170) -/

/-- Time moves timers and event counters of its cluster only. -/
theorem passTime_clu (hs : s.sized) : (s.passTime g).clu g =
    { s.clu g with w := ((s.passTime g).clu g).w, e := ((s.passTime g).clu g).e } := by
  have hclu : (s.passTime g).clu g = _ := clu_updClu_same s g _ (cl_length hs g.isLt)
  rw [hclu]

theorem passTime_clu_ne {j : Nat} (hj : j ≠ g.val) : (s.passTime g).clu j = s.clu j := clu_updClu_ne s g j _ hj.symm

theorem passTime_str (hs : s.sized) {j : Nat} : (s.passTime g).str g j = s.str g j := by
  rw [State.str, passTime_clu hs]
  rfl

/-- A long word before whose issue time has passed. -/
theorem State.CommonIssue.of_passTime (hs : s.sized) (ht : (s.passTime g).CommonIssue t h g st) :
    s.CommonIssue t h g st where
  issued := by rw [ht.issued, passTime_str hs]
  flight := by rw [ht.flight, passTime_str hs]
  own := by rw [ht.own, passTime_clu hs]; rfl
  streams j hj := (ht.streams j hj).trans (passTime_str hs)
  clusters j hj := (ht.clusters j hj).trans (passTime_clu_ne hj)
  parts := ht.parts
  rest := congrArg (fun x : State => { x with cl := s.cl, free := s.free }) ht.rest

/-! ## What each of the ten does when it issues -/

theorem exec_nop (hi : s.issuing g st .nop = some h) : exec (.nop g st) s = .next (issueCommon s h g st .nothing) :=
  congrArg _ (withHead_issuing s g st .nop _ h hi)

theorem exec_sync (hi : s.issuing g st .sync = some h) : exec (.sync g st) s = .next (issueCommon s h g st .nothing) :=
  congrArg _ (withHead_issuing s g st .sync _ h hi)

theorem exec_loop (hi : s.issuing g st .loop = some h) :
    exec (.loop g st) s = .next (issueWith s h g st .nothing (loopEnter h.lw)) :=
  congrArg _ (withHead_issuing s g st .loop _ h hi)

theorem exec_br (hi : s.issuing g st .br = some h) : exec (.br g st) s =
    .next (issueWith (s.passTime g) h g st .nothing (branchTo h.lw (branchTaken ((s.passTime g).clu g) h.lw))) :=
  congrArg _ (withHead_issuing s g st .br _ h hi)

theorem exec_aop (hi : s.issuing g st .aop = some h) : exec (.aop g st) s =
    .next ((issueCommon s h g st .nothing).updStr g st fun x =>
      { x with a := x.a.set (h.lw.f 0 27 24) (aopValue (s.str g st) h.lw) }) :=
  congrArg _ (withHead_issuing s g st .aop _ h hi)

theorem exec_eop (hi : s.issuing g st .eop = some h) : exec (.eop g st) s =
    .next ((issueCommon (s.passTime g) h g st .nothing).updClu g fun k =>
      { k with e := k.e.modify (h.lw.f 0 27 25) (eopApply h.lw) }) :=
  congrArg _ (withHead_issuing s g st .eop _ h hi)

theorem exec_top (hi : s.issuing g st .top = some h) : exec (.top g st) s =
    .next ((issueCommon (s.passTime g) h g st .nothing).updClu g fun k =>
      { k with w := k.w.modify (h.lw.f 0 27 26) (topApply h.lw) }) :=
  congrArg _ (withHead_issuing s g st .top _ h hi)

theorem exec_qcmp (hi : s.issuing g st .qcmp = some h) : exec (.qcmp g st) s =
    .next ((issueCommon s h g st .nothing).updClu g fun k => { k with q := k.q.set (h.lw.f 0 31 29) (qcmpOf st h.lw) }) :=
  congrArg _ (withHead_issuing s g st .qcmp _ h hi)

theorem exec_brk (hi : s.issuing g st .brk = some h) : exec (.brk g st) s =
    .next (if s.dbgOk (s.part h.p) h.run.debug then (issueCommon s h g st .nothing).trigger h.p h.rel st
      else issueCommon s h g st .nothing) :=
  congrArg _ (withHead_issuing s g st .brk _ h hi)

theorem exec_fin (hi : s.issuing g st .fin = some h) : exec (.fin g st) s =
    .next ((issueCommon s h g st .nothing).updStr g st fun x => { x with ended := true }) :=
  congrArg _ (withHead_issuing s g st .fin _ h hi)

theorem issueCommon_commonIssue (hs : s.sized) : s.CommonIssue (issueCommon s h g st .nothing) h g st :=
  issueWith_commonIssue hs advance_movesOn

/-- Each of the ten issues as the others do. -/
theorem exec_commonIssue {c : Instr} (hs : s.sized)
    (hmem : (op, c) ∈ [(Op.nop, Instr.nop g st), (.sync, .sync g st), (.loop, .loop g st), (.br, .br g st), (.aop, .aop g st),
      (.eop, .eop g st), (.top, .top g st), (.qcmp, .qcmp g st), (.brk, .brk g st), (.fin, .fin g st)])
    (hi : s.issuing g st op = some h) : ∃ t, exec c s = .next t ∧ s.CommonIssue t h g st := by
  have htime : (s.passTime g).sized := passTime_sized hs
  simp only [List.mem_cons, Prod.mk.injEq, List.not_mem_nil, or_false] at hmem
  obtain ⟨rfl, rfl⟩ | ⟨rfl, rfl⟩ | ⟨rfl, rfl⟩ | ⟨rfl, rfl⟩ | ⟨rfl, rfl⟩ | ⟨rfl, rfl⟩ | ⟨rfl, rfl⟩ | ⟨rfl, rfl⟩ | ⟨rfl, rfl⟩ |
    ⟨rfl, rfl⟩ := hmem
  · exact ⟨_, exec_nop hi, issueCommon_commonIssue hs⟩
  · exact ⟨_, exec_sync hi, issueCommon_commonIssue hs⟩
  · exact ⟨_, exec_loop hi, issueWith_commonIssue hs loopEnter_movesOn⟩
  · exact ⟨_, exec_br hi, (issueWith_commonIssue htime branchTo_movesOn).of_passTime hs⟩
  · exact ⟨_, exec_aop hi, (issueCommon_commonIssue hs).updStr (issueCommon_sized hs) (fun _ => rfl) fun _ => rfl⟩
  · exact ⟨_, exec_eop hi, ((issueCommon_commonIssue htime).updClu (issueCommon_sized htime) fun _ => rfl).of_passTime hs⟩
  · exact ⟨_, exec_top hi, ((issueCommon_commonIssue htime).updClu (issueCommon_sized htime) fun _ => rfl).of_passTime hs⟩
  · exact ⟨_, exec_qcmp hi, (issueCommon_commonIssue hs).updClu (issueCommon_sized hs) fun _ => rfl⟩
  · refine ⟨_, exec_brk hi, ?_⟩
    split
    · exact (issueCommon_commonIssue hs).trigger
    · exact issueCommon_commonIssue hs
  · exact ⟨_, exec_fin hi, (issueCommon_commonIssue hs).updStr (issueCommon_sized hs) (fun _ => rfl) fun _ => rfl⟩

end

/-- Settles O36: the ten issue alike (`exec_commonIssue`). -/
theorem commonOperationsIssue : Obligations.CommonOperationsIssue := by
  intro s g st op c h hs hmem hi
  obtain ⟨t, hexec, ht⟩ := exec_commonIssue hs hmem hi
  have hop : h.op = op := issuing_op hi
  have hrest {α : Type} (view : State → α) :
      view { t with cl := s.cl, parts := s.parts, free := s.free } = view s := congrArg view ht.rest
  refine ⟨t, hexec, ht.issued, ht.flight, ?_, ?_, ?_, ?_, ?_, ht.streams, ht.clusters, hrest State.dram,
    hrest State.poison, hrest State.out, ht.parts⟩
  · rw [ht.own, ← hop]
    rfl
  all_goals
    rw [ht.own]
    rfl

end Sys2Proof.Machine

namespace Sys2Proof.Machine

/-! # Address registers and loops (R168, R190, R233) -/

section

variable {s : State} {h : Head} {g : Clu} {st : Strm} {x : StreamSt} {lw : LW} {n pc : Nat}

theorem tget_set_same {α : Type} {d v : α} {l : List α} {i : Nat} (hi : i < l.length) : tget d (l.set i v) i = v := by
  simp [tget, List.getD_eq_getElem?_getD, hi]

theorem tget_set_ne {α : Type} {d v : α} {l : List α} {i j : Nat} (hij : i ≠ j) : tget d (l.set i v) j = tget d l j := by
  simp [tget, List.getD_eq_getElem?_getD, hij]

theorem bits_lt {v hi lo m : Nat} (hm : 2 ^ (hi + 1 - lo) ≤ m) : bits v hi lo < m :=
  (Nat.mod_lt _ (Nat.two_pow_pos _)).trans_le hm

/-- A field of a long word is below the power of two that its width gives. -/
theorem LW.f_lt {k hi lo m : Nat} (hm : 2 ^ (hi + 1 - lo) ≤ m) : lw.f k hi lo < m := bits_lt hm

variable {w : Waits} {adv : StreamSt → StreamSt}

theorem issueWith_pc (hs : s.sized) :
    ((issueWith s h g st w adv).str g st).pc = (adv ((s.str g st).issueLw h w)).pc := by rw [issueWith_str hs]

theorem issueWith_l (hs : s.sized) :
    ((issueWith s h g st w adv).str g st).l = (adv ((s.str g st).issueLw h w)).l := by rw [issueWith_str hs]

theorem issueWith_loops (hs : s.sized) :
    ((issueWith s h g st w adv).str g st).loops = (adv ((s.str g st).issueLw h w)).loops := by rw [issueWith_str hs]

theorem issueWith_a (hs : s.sized) (hadv : MovesOn adv) : ((issueWith s h g st w adv).str g st).a = (s.str g st).a := by
  rw [issueWith_str hs, hadv]
  rfl

/-! ## AOP -/

/-- The number an AOP writes, before it is taken modulo 2^48 (R168, R190). -/
def aopNat (x : StreamSt) (lw : LW) : Nat :=
  let a (i : Nat) : Nat := (tget 0 x.a i).toNat
  let imm := tget 0 lw.slots 1
  let simm := ((BitVec.ofNat 32 imm).signExtend 48).toNat
  match lw.f 0 31 28 with
  | 0 => if lw.f 2 15 0 = 0 then simm else lw.f 2 15 0 * 2 ^ 32 + imm
  | 1 => a (lw.f 0 23 20) + simm
  | 2 => a (lw.f 0 23 20) + a (lw.f 0 19 16)
  | 3 => a (lw.f 0 23 20) * 2 ^ imm
  | _ => a (lw.f 0 23 20) * imm

theorem aopValue_toNat : (aopValue x lw).toNat = aopNat x lw % 2 ^ 48 := by
  unfold aopValue aopNat
  dsimp only
  generalize lw.f 0 31 28 = fn
  match fn with
  | 0 =>
    by_cases hx : lw.f 2 15 0 = 0
    · rw [if_pos hx]
      exact ((congrArg (· % 2 ^ 48) (if_pos hx)).trans (Nat.mod_eq_of_lt (BitVec.isLt _))).symm
    · rw [if_neg hx]
      exact (BitVec.toNat_ofNat ..).trans (congrArg (· % 2 ^ 48) (if_neg hx)).symm
  | 1 => exact BitVec.toNat_add ..
  | 2 => exact BitVec.toNat_add ..
  | 3 => exact (BitVec.toNat_shiftLeft ..).trans (congrArg (· % 2 ^ 48) (Nat.shiftLeft_eq _ _))
  | n + 4 => exact (BitVec.toNat_mul ..).trans (Nat.mul_mod_mod _ _ _)

/-- The address registers after an AOP. -/
theorem aop_a (hs : s.sized) : (((issueCommon s h g st .nothing).updStr g st fun x =>
    { x with a := x.a.set (h.lw.f 0 27 24) (aopValue (s.str g st) h.lw) }).str g st).a =
      (s.str g st).a.set (h.lw.f 0 27 24) (aopValue (s.str g st) h.lw) := by
  have hsz : (issueCommon s h g st .nothing).sized := issueCommon_sized hs
  rw [str_updStr_same _ g st _ (cl_length hsz g.isLt) (st.isLt.trans_eq (streams_length hsz g.isLt).symm)]
  exact congrArg (List.set · _ _) (issueWith_a hs advance_movesOn)

/-! ## The end of a loop body -/

/-- Where no loop ends, a stream goes on. -/
theorem loopNext_of_not_end (hx : ∀ f ∈ x.loops.head?, f.stop ≠ pc) : loopNext n x pc = { x with pc := pc } := by
  cases n with
  | zero => rfl
  | succ n =>
    unfold loopNext
    split
    next f r hloops => rw [if_neg (hx f (by simp [hloops]))]
    next => rfl

theorem advance_of_not_end (hx : ∀ f ∈ x.loops.head?, f.stop ≠ x.pc + n) : x.advance n = { x with pc := x.pc + n } :=
  loopNext_of_not_end hx

theorem advance_of_no_loop (hx : x.loops = []) : x.advance n = { x with pc := x.pc + n } :=
  advance_of_not_end (by simp [hx])

/-- At the end of the only loop's body its counter falls to 0, and the loop is left. -/
theorem advance_leaves {f : LoopFrame} (hx : x.loops = [f]) (hf : f.stop = x.pc + n) (hone : tget 0 x.l f.lc = 1) :
    x.advance n = { x with l := x.l.set f.lc 0, pc := f.stop, loops := [] } := by
  rw [StreamSt.advance, loopNext]
  simp only [hx, hf, hone, sub_self, if_true]
  exact loopNext_of_not_end (by simp)

/-- At the end of the only loop's body its counter falls, and the body repeats. -/
theorem advance_repeats {f : LoopFrame} (hx : x.loops = [f]) (hf : f.stop = x.pc + n) (hne : tget 0 x.l f.lc ≠ 1) :
    x.advance n = { x with l := x.l.set f.lc (tget 0 x.l f.lc - 1), pc := f.start } := by
  have hv : ¬ tget 0 x.l f.lc - 1 = 0 := fun hz => hne (sub_eq_zero.mp hz)
  rw [StreamSt.advance, loopNext]
  simp only [hx, hf, if_true, if_neg hv]

/-! ## LOOP -/

theorem loopCount_lt : loopCount x lw < 2 ^ 32 := by
  unfold loopCount
  split
  · exact Nat.mod_lt _ (Nat.two_pow_pos 32)
  · exact LW.f_lt (by decide)

theorem loopEnter_of_pos (hn : loopCount x lw ≠ 0) : loopEnter lw x = { x with
    l := x.l.set (lw.f 0 31 30) (BitVec.ofNat 32 (loopCount x lw)), pc := x.pc + lw.len
    loops := ⟨lw.f 0 31 30, x.pc + lw.len, x.pc + lw.len + 4 * lw.f 1 17 0⟩ :: x.loops } := by
  simp [loopEnter, hn]

theorem loopEnter_of_zero (hn : loopCount x lw = 0) (hx : x.loops = []) : loopEnter lw x = { x with
    l := x.l.set (lw.f 0 31 30) 0, pc := x.pc + lw.len + 4 * lw.f 1 17 0 } := by
  simp only [loopEnter, hn, if_true]
  exact loopNext_of_not_end (by simp [hx])

end

/-- Settles O37: what an AOP writes is `aopValue_toNat`; LOOP enters or skips its body (`loopEnter_of_pos`,
`loopEnter_of_zero`), and a body ends by `advance_at_end`. -/
theorem addressRegistersAndLoops : Obligations.AddressRegistersAndLoops := by
  refine ⟨fun s g st h hs hi ha => ?_, fun s g st h hs hl => ⟨fun hi => ?_, fun hi f hf => ?_⟩⟩
  · intro a imm simm
    refine ⟨_, exec_aop hi, fun i hne => ?_, ?_⟩
    · rw [aop_a hs, tget_set_ne hne.symm]
    · rw [aop_a hs, tget_set_same (ha ▸ LW.f_lt (by decide)), aopValue_toNat]
      rfl
  · intro n lc body
    have hcount : loopCount ((s.str g st).issueLw h .nothing) h.lw = n := rfl
    have hlc : lc < (s.str g st).l.length := hl ▸ LW.f_lt (by decide)
    refine ⟨_, exec_loop hi, fun hn => ?_, fun hn hloops => ?_⟩
    · have hen := loopEnter_of_pos (hcount.trans_ne hn)
      rw [issueWith_pc hs, issueWith_l hs, issueWith_loops hs, hen]
      refine ⟨rfl, (congrArg BitVec.toNat (tget_set_same hlc)).trans ?_, rfl⟩
      exact (BitVec.toNat_ofNat ..).trans (Nat.mod_eq_of_lt loopCount_lt)
    · have hen := loopEnter_of_zero (hcount.trans hn) hloops
      rw [issueWith_pc hs, issueWith_l hs, issueWith_loops hs, hen]
      exact ⟨rfl, tget_set_same hlc, hloops⟩
  · have hx : ((s.str g st).issueLw h .nothing).loops = [f] := hf
    refine ⟨_, exec_nop hi, fun hne => ?_, fun hend hlc => ?_⟩
    · have hadv := advance_of_not_end (x := (s.str g st).issueLw h .nothing) (n := h.lw.len)
        fun f' hf' => by rw [hx] at hf'; cases hf'; exact hne
      rw [issueCommon, issueWith_pc hs, issueWith_l hs, issueWith_loops hs, hadv]
      exact ⟨rfl, hf, rfl⟩
    · have hlt : f.lc < (s.str g st).l.length := hl ▸ hlc
      rw [issueCommon, issueWith_pc hs, issueWith_l hs, issueWith_loops hs]
      split
      next hone =>
        rw [advance_leaves hx hend hone, hone]
        exact ⟨tget_set_same hlt, rfl, rfl⟩
      next hne =>
        rw [advance_repeats hx hend hne]
        exact ⟨tget_set_same hlt, rfl, hf⟩

end Sys2Proof.Machine

namespace Sys2Proof.Machine

/-! # The count unit (R169 to R171, R234)

Time passes for the cluster's timers and event counters before a BR, an EOP or a TOP; what does not count or run keeps its
value then (`passTime_counter`, `passTime_timer`). -/

section

variable {s : State} {h : Head} {g : Clu} {st : Strm} {x : StreamSt} {lw : LW} {k : Cluster} {c : Comparator} {i : Nat}

/-- `Cluster.sized` clause by clause. -/
theorem Cluster.sized_iff : k.sized ↔ k.streams.length = 5 ∧ k.tokens.length = 64 ∧ k.e.length = 8 ∧ k.w.length = 4 ∧
    k.q.length = 8 ∧ k.tally.length = 16 := by
  simp [Cluster.sized, and_assoc]

/-! ## Counters and timers as time passes and a long word issues -/

/-- An item of a list that maps with the places of the items, where the default maps to itself. -/
theorem tget_zipIdx_map_of_default {α : Type} {d : α} {l : List α} {f : α × Nat → α} (hd : f (d, i) = d) :
    tget d (l.zipIdx.map f) i = f (tget d l i, i) := by
  by_cases hi : i < l.length
  · exact tget_zipIdx_map hi
  · simp [tget, List.getD_eq_getElem?_getD, not_lt.mp hi, hd]

/-- An event counter that time may have moved on: its mode stays, and a counter that is off stays as it is. -/
def ECount.Elapsed (o c : ECount) : Prop := c.mode = o.mode ∧ (o.mode = .off → c.v = o.v)

theorem ECount.Elapsed.trans {a b c : ECount} (hab : a.Elapsed b) (hbc : b.Elapsed c) : a.Elapsed c := by
  obtain ⟨hm, hv⟩ := hab
  obtain ⟨hm', hv'⟩ := hbc
  exact ⟨hm'.trans hm, fun hoff => (hv' (hm.trans hoff)).trans (hv hoff)⟩

theorem passTime_counter (hs : s.sized) : (tget {} (s.clu g).e i).Elapsed (tget {} ((s.passTime g).clu g).e i) := by
  have hclu : (s.passTime g).clu g = _ := clu_updClu_same s g _ (cl_length hs g.isLt)
  rw [hclu]
  dsimp only
  rw [tget_zipIdx_map_of_default rfl]
  generalize tget {} (s.clu g).e i = o
  obtain ⟨v, mode⟩ := o
  cases mode with
  | off | issue | edge => exact ⟨rfl, fun _ => rfl⟩
  | cycles | stall | bank => exact ⟨rfl, nofun⟩

theorem passTime_timer (hs : s.sized) : (tget {} ((s.passTime g).clu g).w i).run = (tget {} (s.clu g).w i).run ∧
    ((tget {} (s.clu g).w i).run = false → (tget {} ((s.passTime g).clu g).w i).v = (tget {} (s.clu g).w i).v) := by
  have hclu : (s.passTime g).clu g = _ := clu_updClu_same s g _ (cl_length hs g.isLt)
  rw [hclu]
  dsimp only
  rw [tget_zipIdx_map_of_default rfl]
  generalize tget {} (s.clu g).w i = o
  split
  next hrun => exact ⟨rfl, fun hoff => absurd (hrun.symm.trans hoff) nofun⟩
  next => exact ⟨rfl, fun _ => rfl⟩

/-- An event counter at an issue of a stream (R169). -/
def ECount.atIssue (st : Nat) (c : ECount) : ECount := if c.mode = .issue st then { c with v := c.v + 1 } else c

theorem ECount.elapsed_atIssue (c : ECount) : c.Elapsed (c.atIssue st) := by
  unfold ECount.atIssue
  split
  next hm => exact ⟨rfl, fun hoff => absurd (hm.symm.trans hoff) nofun⟩
  next => exact ⟨rfl, fun _ => rfl⟩

theorem issueLw_counter : tget {} (k.issueLw h st).e i = (tget {} k.e i).atIssue st :=
  tget_map_of_eq (f := ECount.atIssue st) rfl

/-! ## EOP and TOP -/

/-- An event counter that an EOP finds, as time and the issue have left it. -/
theorem eop_finds (hs : s.sized) : (tget {} (s.clu g).e i).Elapsed
    (tget {} ((issueCommon (s.passTime g) h g st .nothing).clu g).e i) := by
  rw [issueCommon, issueWith_clu_own (cl_length (passTime_sized hs) g.isLt)]
  dsimp only
  rw [issueLw_counter]
  exact (passTime_counter hs).trans (ECount.elapsed_atIssue _)

/-- The event counter of an EOP: its function acts on what it finds. -/
theorem eop_counter (hs : s.sized) : tget {} (((issueCommon (s.passTime g) h g st .nothing).updClu g fun k =>
    { k with e := k.e.modify (h.lw.f 0 27 25) (eopApply h.lw) }).clu g).e (h.lw.f 0 27 25) =
      eopApply h.lw (tget {} ((issueCommon (s.passTime g) h g st .nothing).clu g).e (h.lw.f 0 27 25)) := by
  have hsz : (issueCommon (s.passTime g) h g st .nothing).sized := issueCommon_sized (passTime_sized hs)
  have he : ((issueCommon (s.passTime g) h g st .nothing).clu g).e.length = 8 := by
    obtain ⟨-, -, he, -⟩ := Cluster.sized_iff.mp (clu_sized hsz g.isLt)
    exact he
  rw [clu_updClu_same _ _ _ (cl_length hsz g.isLt)]
  exact tget_modify_same _ _ _ _ (he ▸ LW.f_lt (by decide))

/-- A timer after a TOP. -/
theorem top_timer (hs : s.sized) : tget {} (((issueCommon (s.passTime g) h g st .nothing).updClu g fun k =>
    { k with w := k.w.modify (h.lw.f 0 27 26) (topApply h.lw) }).clu g).w (h.lw.f 0 27 26) =
      topApply h.lw (tget {} ((s.passTime g).clu g).w (h.lw.f 0 27 26)) := by
  have hsz : (s.passTime g).sized := passTime_sized hs
  have hw : ((s.passTime g).clu g).w.length = 4 := by
    obtain ⟨-, -, -, hw, -⟩ := Cluster.sized_iff.mp (clu_sized hsz g.isLt)
    exact hw
  rw [clu_updClu_same _ _ _ (cl_length (issueCommon_sized hsz) g.isLt), issueCommon,
    issueWith_clu_own (cl_length hsz g.isLt)]
  exact tget_modify_same _ _ _ _ (hw ▸ LW.f_lt (by decide))

theorem eopApply_set {o : ECount} (hf : lw.f 0 31 28 = 0) : eopApply lw o = { o with mode := eopMode lw } := by
  simp [eopApply, hf]

theorem eopApply_clear {o : ECount} (hf : lw.f 0 31 28 = 1) : eopApply lw o = { o with v := 0 } := by
  simp [eopApply, hf]

theorem eopApply_add {o : ECount} (hf : 2 ≤ lw.f 0 31 28) :
    eopApply lw o = { o with v := o.v + BitVec.ofNat 32 (tget 0 lw.slots 1) } := by
  obtain ⟨n, hn⟩ : ∃ n, lw.f 0 31 28 = n + 2 := ⟨_, (Nat.sub_add_cancel hf).symm⟩
  simp [eopApply, hn]

theorem topApply_start {o : Timer} (hf : lw.f 0 31 28 = 0) : topApply lw o = { o with run := true } := by
  simp [topApply, hf]

theorem topApply_stop {o : Timer} (hf : lw.f 0 31 28 = 1) : topApply lw o = { o with run := false } := by
  simp [topApply, hf]

theorem topApply_clear {o : Timer} (hf : 2 ≤ lw.f 0 31 28) : topApply lw o = { o with v := 0 } := by
  obtain ⟨n, hn⟩ : ∃ n, lw.f 0 31 28 = n + 2 := ⟨_, (Nat.sub_add_cancel hf).symm⟩
  simp [topApply, hn]

/-! ## Comparators -/

/-- What a comparator compares, as a number (R171). -/
def Cluster.compared (k : Cluster) (c : Comparator) : Nat :=
  match c.cls with
  | 0 => (tget 0 (k.str c.str).a c.reg).toNat % 2 ^ 32
  | 1 => (tget 0 (k.str c.str).l c.reg).toNat
  | 2 => (tget {} k.e c.reg).v.toNat
  | _ => (tget {} k.w c.reg).v.toNat

theorem cmpSource_toNat : (cmpSource k c).toNat = k.compared c := by
  unfold cmpSource Cluster.compared
  generalize c.cls = cls
  match cls with
  | 0 => exact BitVec.toNat_setWidth ..
  | 1 => rfl
  | 2 => rfl
  | n + 3 => rfl

/-- The relation that a comparator tests, on numbers (R171). -/
def Comparator.Holds (c : Comparator) (v : Nat) : Prop :=
  match c.rel with
  | 0 => v = c.thr.toNat
  | 1 => v ≠ c.thr.toNat
  | 2 => v < c.thr.toNat
  | _ => c.thr.toNat ≤ v

theorem pred_iff (hq : tget none k.q i = some c) : k.pred i = true ↔ c.Holds (k.compared c) := by
  rw [← cmpSource_toNat]
  simp only [Cluster.pred, hq, Comparator.Holds]
  generalize c.rel = rel
  match rel with
  | 0 => exact beq_iff_eq.trans BitVec.toNat_inj.symm
  | 1 => exact bne_iff_ne.trans BitVec.toNat_inj.not.symm
  | 2 => exact decide_eq_true_iff
  | n + 3 => exact (Bool.not_eq_true' _).to_iff.trans (decide_eq_false_iff_not.trans not_lt)

/-- What is compared stays as time passes, where it is not a counter that counts or a timer that runs. -/
theorem compared_passTime (hs : s.sized) (he : c.cls = 2 → (tget {} (s.clu g).e c.reg).mode = .off)
    (hw : 3 ≤ c.cls → (tget {} (s.clu g).w c.reg).run = false) :
    ((s.passTime g).clu g).compared c = (s.clu g).compared c := by
  have hstr : ((s.passTime g).clu g).str c.str = (s.clu g).str c.str := passTime_str hs
  unfold Cluster.compared
  rw [hstr]
  generalize c.cls = cls at he hw
  match cls, he, hw with
  | 0, _, _ => rfl
  | 1, _, _ => rfl
  | 2, he, _ => exact congrArg BitVec.toNat ((passTime_counter hs).2 (he rfl))
  | n + 3, _, hw => exact congrArg BitVec.toNat ((passTime_timer hs).2 (hw (Nat.le_add_left 3 n)))

/-! ## BR -/

theorem branchTaken_of_always (hb : lw.b 0 31 = true) : branchTaken k lw = true := by simp [branchTaken, hb]

/-- The predicate of a disabled comparator is false (R171). -/
theorem branchTaken_of_disabled (hb : lw.b 0 31 = false) (hq : tget none k.q (lw.f 0 29 27) = none) :
    branchTaken k lw = lw.b 0 30 := by
  simp [branchTaken, hb, Cluster.pred, hq]

theorem branchTaken_iff (hb : lw.b 0 31 = false) (hq : tget none k.q (lw.f 0 29 27) = some c) :
    branchTaken k lw = true ↔ if lw.b 0 30 = true then ¬ c.Holds (k.compared c) else c.Holds (k.compared c) := by
  rw [← pred_iff hq]
  cases hn : lw.b 0 30 <;> simp [branchTaken, hb, hn]

/-- Where a BR outside loops leads. -/
theorem branchTo_pc {taken : Bool} (hx : x.loops = []) : (branchTo lw taken x).pc =
    if taken then ((x.pc : Int) + lw.brOff).toNat else x.pc + lw.len := by
  unfold branchTo
  split
  · rfl
  · rw [advance_of_no_loop hx]

/-- The stream after a BR outside loops. -/
theorem br_pc (hs : s.sized) (hl : (s.str g st).loops = []) {taken : Bool} :
    ((issueWith (s.passTime g) h g st .nothing (branchTo h.lw taken)).str g st).pc =
      if taken then (((s.str g st).pc : Int) + h.lw.brOff).toNat else (s.str g st).pc + h.lw.len := by
  rw [issueWith_pc (passTime_sized hs), passTime_str hs]
  exact branchTo_pc (x := (s.str g st).issueLw h .nothing) hl

end

/-- Settles O38: a branch is taken as `branchTaken_iff` says, a counter and a timer are what `eop_counter` and `top_timer`
say. -/
theorem countUnit : Obligations.CountUnit := by
  refine ⟨fun s g st h hs => ⟨fun hi => ?_, fun hi hl => ⟨fun hb => ?_, fun hb hq => ?_, fun c hb hq he hw => ?_⟩⟩,
    fun s g st h hs => ⟨fun hi => ?_, fun hi => ?_⟩⟩
  · refine ⟨_, exec_qcmp hi, ?_⟩
    rw [clu_updClu_same _ _ _ (cl_length (issueCommon_sized hs) g.isLt), issueCommon,
      issueWith_clu_own (cl_length hs g.isLt)]
    rfl
  · exact ⟨_, exec_br hi, by rw [br_pc hs hl, branchTaken_of_always hb, if_pos rfl]⟩
  · have hq' : tget none ((s.passTime g).clu g).q (h.lw.f 0 29 27) = none := by rwa [passTime_clu hs]
    exact ⟨_, exec_br hi, by rw [br_pc hs hl, branchTaken_of_disabled hb hq']⟩
  · intro v holds
    have hq' : tget none ((s.passTime g).clu g).q (h.lw.f 0 29 27) = some c := by rwa [passTime_clu hs]
    have htaken := branchTaken_iff hb hq'
    rw [compared_passTime hs he hw] at htaken
    refine ⟨_, exec_br hi, fun hyes => ?_, fun hno => ?_⟩
    · rw [br_pc hs hl, if_pos (htaken.mpr hyes)]
    · have hnot : ¬ branchTaken ((s.passTime g).clu g) h.lw = true := by
        rw [htaken]
        split at hno
        next hn => rw [if_pos hn]; exact not_not_intro hno
        next hn => rw [if_neg hn]; exact hno
      rw [br_pc hs hl, if_neg hnot]
  · intro k o
    have hc := eop_counter (h := h) (g := g) (st := st) hs
    obtain ⟨hmode, hv⟩ := eop_finds (h := h) (g := g) (st := st) (i := k) hs
    refine ⟨_, exec_eop hi, fun hf => ?_, fun hf => ?_, fun hf hoff => ?_⟩
    · rw [hc, eopApply_set hf]
      exact ⟨rfl, hv⟩
    · rw [hc, eopApply_clear hf]
      exact ⟨rfl, hmode⟩
    · rw [hc, eopApply_add hf, hv hoff]
  · intro k o
    have ht := top_timer (h := h) (g := g) (st := st) hs
    obtain ⟨hrun, hv⟩ := passTime_timer (g := g) (i := k) hs
    refine ⟨_, exec_top hi, fun hf => ?_, fun hf => ?_, fun hf => ?_⟩
    · rw [ht, topApply_start hf]
      exact ⟨rfl, hv⟩
    · rw [ht, topApply_stop hf]
    · rw [ht, topApply_clear hf]
      exact ⟨rfl, hrun⟩

end Sys2Proof.Machine

namespace Sys2Proof.Machine

/-! # SYNC, END and BRK (R163, R232, R236, R262, R263) -/

section

variable {s : State} {h : Head} {g : Clu} {st : Strm} {w : Waits} {adv : StreamSt → StreamSt} {op : Op}

/-- The launch that a head belongs to. -/
theorem head_run (hh : s.head g st = some h) : (s.part h.p).run = some h.run := by
  unfold State.head at hh
  split at hh
  · cases hh
  next p hown =>
    dsimp only at hh
    split at hh
    · cases hh
    next r hrun =>
      split at hh
      · cases hh
      · split at hh
        · cases hh
          exact hrun
        · cases hh

theorem head_of_issuing (hi : s.issuing g st op = some h) : s.head g st = some h := by
  unfold State.issuing at hi
  split at hi
  next k hk =>
    split at hi
    · exact hk.trans hi
    · cases hi
  next => cases hi

/-- Nothing is at the head of a stream that has ended. -/
theorem issuing_of_ended (he : (s.str g st).ended = true) : s.issuing g st op = none := by
  have hh : s.head g st = none := by
    unfold State.head
    split
    · rfl
    · dsimp only
      split
      · rfl
      · rw [if_pos he]
  simp [State.issuing, hh]

theorem issueWith_of_sync (hop : h.op = .sync) :
    ∃ v : State, issueWith s h g st w adv = (v.signal h.p g h.lw).issueStop h st ((s.str g st).issued + 1) ∧
      v.parts = s.parts := by
  unfold issueWith
  dsimp only
  rw [if_pos hop]
  exact ⟨_, rfl, rfl⟩

/-- A SYNC signals at its issue (R163). -/
theorem issueCommon_signals {k c : Nat} (hp : h.p < s.parts.length) (hop : h.op = .sync) (hsig : h.lw.sigTok = some (k, c)) :
    ((issueCommon s h g st w).part h.p).signals =
      (s.part h.p).signals ++ [(if c = 255 then g.val else (s.part h.p).glob c, k)] := by
  obtain ⟨v, hv, hparts⟩ := issueWith_of_sync (s := s) (g := g) (st := st) (w := w) (adv := (·.advance h.lw.len)) hop
  have hpart : v.part h.p = s.part h.p := by rw [State.part, hparts, State.part]
  have hsignal := signal_part (s := v) (g := g) (hparts ▸ hp) hsig
  rw [issueCommon, hv, congrArg Partition.signals issueStop_part]
  dsimp only
  rw [hsignal, hpart]

theorem plain_iff : s.plain h g st = true ↔
    h.run.stop = .running ∧ breakHit (s.part h.p) h.rel st ((s.str g st).issued + 1) = false := by
  simp [State.plain]

/-- Any other long word leaves its partition as it is, where no step, stop or break concerns it. -/
theorem issueCommon_part_of_plain (hop : h.op ≠ .sync) (hpl : s.plain h g st = true) :
    (issueCommon s h g st w).part h.p = s.part h.p := by
  obtain ⟨hstop, hb⟩ := plain_iff.mp hpl
  obtain ⟨v, hv, hparts⟩ := issueWith_of_not_sync (s := s) (g := g) (st := st) (w := w) (adv := (·.advance h.lw.len)) hop
  have hpart : v.part h.p = s.part h.p := by rw [State.part, hparts, State.part]
  rw [issueCommon, hv, issueStop_of_plain hstop (hpart ▸ hb), hpart]

/-- A break that triggers in a running launch stops its stream, and the others at their next boundary (R263). -/
theorem trigger_run {rel : Nat} {r : Running} (hp : h.p < s.parts.length) (hrun : (s.part h.p).run = some r)
    (hstop : r.stop = .running) : ((s.trigger h.p rel st).part h.p).run =
      some { r with stop := .stopping [(rel, st)] true } := by
  rw [State.trigger, part_updPart_same _ _ _ hp, hrun]
  simp [hstop, StopSt.trigger]

end

/-- Settles O39: a SYNC signals as `issueCommon_signals` says, nothing issues from a stream that has ended
(`issuing_of_ended`), and a permitted BRK triggers as `trigger_run` says. -/
theorem syncEndAndBreakpoints : Obligations.SyncEndAndBreakpoints := by
  intro s g st h hs
  refine ⟨fun hi _ k c hsig => ⟨_, exec_sync hi, issueCommon_signals (issuing_running hi).1 (issuing_op hi) hsig⟩,
    fun hi => ?_, fun hi hpl => ⟨_, exec_brk hi, ?_⟩⟩
  · have hsz : (issueCommon s h g st .nothing).sized := issueCommon_sized hs
    have hended : ((issueCommon s h g st .nothing).updStr g st fun x => { x with ended := true }).str g st = _ :=
      str_updStr_same _ g st _ (cl_length hsz g.isLt) (st.isLt.trans_eq (streams_length hsz g.isLt).symm)
    exact ⟨_, exec_fin hi, by rw [hended], fun op => issuing_of_ended (by rw [hended])⟩
  · have hop : h.op ≠ .sync := by simp [issuing_op hi]
    have hpart := issueCommon_part_of_plain (w := .nothing) hop hpl
    have hlen : h.p < (issueCommon s h g st .nothing).parts.length := by
      rw [parts_length (issueCommon_sized hs), ← parts_length hs]
      exact (issuing_running hi).1
    have hrun : (s.part h.p).run = some h.run := head_run (head_of_issuing hi)
    obtain ⟨hstop, -⟩ := plain_iff.mp hpl
    refine ⟨fun hok => ?_, fun hno => ?_⟩
    · rw [if_pos hok, trigger_run hlen (hpart ▸ hrun) hstop, hrun]
      rfl
    · rw [if_neg (by simp [hno]), hpart]

end Sys2Proof.Machine

namespace Sys2Proof.Machine

/-! # Completions and signals (R151, R156, R159, R162, R164 to R166, R229) -/

section

variable {s : State} {g : Clu} {st : Strm} {p : Nat} {f : Flight} {fs : List Flight}

/-! ## What a long word that completes leaves -/

/-- The state in which a long word has left its stream and its local regions (R151, R156). -/
def State.left (s : State) (g st : Nat) (f : Flight) : State :=
  (({ s with undo := settleUndo g st ((s.str g st).issued + 1 - (s.str g st).flight.length) s.undo }).updStr g st
    fun x => { x with flight := x.flight.drop 1 }).updClu g fun k => k.regionComplete (localUses f.op f.lw)

/-- The release of a remote grant leaves for the cluster that gave it (R159). -/
def State.giveBack (s : State) (p g st : Nat) (f : Flight) : State :=
  match f.remote with
  | some (c, d) => s.updClu ((s.part p).glob c) fun k => { k with rels := k.rels ++ [⟨g, st, d⟩] }
  | none => s

theorem retire_eq : s.retire p g st f =
    if f.op = .sync then (s.left g st f).giveBack p g st f
    else ((s.left g st f).giveBack p g st f).signal p g f.lw := by
  unfold State.retire State.giveBack
  cases f.remote <;> rfl

theorem signal_clu {lw : LW} {j : Nat} : (s.signal p g lw).clu j = s.clu j := by
  rw [signal_frame]
  rfl

theorem retire_clu {j : Nat} : (s.retire p g st f).clu j = ((s.left g st f).giveBack p g st f).clu j := by
  rw [retire_eq]
  split
  · rfl
  · exact signal_clu

theorem left_clu (hs : s.sized) : (s.left g st f).clu g =
    ((s.clu g).updStr st fun x => { x with flight := x.flight.drop 1 }).regionComplete (localUses f.op f.lw) := by
  have hlen : g.val < s.cl.length := cl_length hs g.isLt
  rw [State.left, clu_updClu_same _ _ _ (by rwa [updStr_cl_length])]
  exact congrArg (Cluster.regionComplete · _) (clu_updStr_same hlen)

theorem left_clu_ne {j : Nat} (hj : j ≠ g.val) : (s.left g st f).clu j = s.clu j :=
  (clu_updClu_ne _ _ _ _ hj.symm).trans (clu_updStr_ne _ _ _ _ _ hj.symm)

/-- A release waits on its way to the cluster, nothing else changes. -/
theorem giveBack_clu {j : Nat} :
    (s.giveBack p g st f).clu j = { s.clu j with rels := ((s.giveBack p g st f).clu j).rels } := by
  unfold State.giveBack
  split
  next c d _ =>
    obtain h | ⟨-, h⟩ := clu_updClu_cases (t := s) ((s.part p).glob c) j fun k => { k with rels := k.rels ++ [⟨g, st, d⟩] }
    · rw [h]
    · rw [h]
  · rfl

theorem retire_flight (hs : s.sized) : ((s.retire p g st f).str g st).flight = (s.str g st).flight.drop 1 := by
  have hst : st.val < (s.clu g).streams.length := st.isLt.trans_eq (streams_length hs g.isLt).symm
  have hstr : (s.retire p g st f).str g st = ((s.clu g).updStr st fun x => { x with flight := x.flight.drop 1 }).str st := by
    rw [State.str, retire_clu, giveBack_clu, left_clu hs]
    rfl
  rw [hstr]
  exact congrArg StreamSt.flight (tget_modify_same _ _ _ _ hst)

theorem retire_regions (hs : s.sized) : ((s.retire p g st f).clu g).regions =
    ((s.clu g).regionComplete (localUses f.op f.lw)).regions := by
  rw [retire_clu, giveBack_clu, left_clu hs]
  rfl

theorem retire_clu_ne {j : Nat} (hf : f.remote = none) (hj : j ≠ g.val) : (s.retire p g st f).clu j = s.clu j := by
  rw [retire_clu, State.giveBack, hf]
  exact left_clu_ne hj

/-- The release of a remote grant comes behind those on their way to the same cluster. -/
theorem retire_rels {c : Nat} {d : Decl} (hs : s.sized) (hf : f.remote = some (c, d)) (hne : (s.part p).glob c ≠ g)
    (hlt : (s.part p).glob c < 96) : ((s.retire p g st f).clu ((s.part p).glob c)).rels =
      (s.clu ((s.part p).glob c)).rels ++ [⟨g, st, d⟩] := by
  have hlen : (s.part p).glob c < (s.left g st f).cl.length := by
    have hl : (s.left g st f).cl.length = s.cl.length := (List.length_modify ..).trans (List.length_modify ..)
    rw [hl]
    exact cl_length hs hlt
  have hgive : (s.left g st f).giveBack p g st f =
      (s.left g st f).updClu ((s.part p).glob c) fun k => { k with rels := k.rels ++ [⟨g, st, d⟩] } := by
    rw [State.giveBack, hf]
    rfl
  rw [retire_clu, hgive, clu_updClu_same _ _ _ hlen, left_clu_ne hne]

theorem giveBack_part {r : Nat} : ((s.left g st f).giveBack p g st f).part r = s.part r := by
  unfold State.giveBack
  split <;> rfl

theorem giveBack_parts : ((s.left g st f).giveBack p g st f).parts = s.parts := by
  unfold State.giveBack
  split <;> rfl

theorem retire_signals {k c : Nat} (hp : p < s.parts.length) (hop : f.op ≠ .sync) (hsig : f.lw.sigTok = some (k, c)) :
    ((s.retire p g st f).part p).signals =
      (s.part p).signals ++ [(if c = 255 then g.val else (s.part p).glob c, k)] := by
  rw [retire_eq, if_neg hop, signal_part (by rwa [giveBack_parts]) hsig, giveBack_part]

theorem signal_rlys {lw : LW} {r : Nat} : ((s.signal p g lw).part r).rlys = (s.part r).rlys := by
  unfold State.signal
  split
  · refine part_updPart_keeps Partition.rlys ?_ _ _
    exact fun _ => rfl
  · rfl

theorem retire_rlys {r : Nat} : ((s.retire p g st f).part r).rlys = (s.part r).rlys := by
  rw [retire_eq]
  split
  · rw [giveBack_part]
  · rw [signal_rlys, giveBack_part]

/-! ## Which long word completes -/

theorem ownerG_lt {c : Nat} (hown : s.ownerG c = some p) : p < s.parts.length :=
  (List.findIdx?_eq_some_iff_findIdx_eq.mp hown).1

theorem exec_complete (hown : s.ownerG g = some p) (hfl : (s.str g st).flight = f :: fs)
    (hw : f.waits = .nothing ∨ f.waits = .earlier) : exec (.longWordComplete g st) s = .next (s.retire p g st f) := by
  change execLongWordComplete g st s = _
  obtain hw | hw := hw <;> simp [execLongWordComplete, hown, hfl, Flight.ripe, hw]

theorem exec_complete_rly {rid e : Nat} (hown : s.ownerG g = some p) (hfl : (s.str g st).flight = f :: fs)
    (hw : f.waits = .rly rid e) (hdone : s.rlyDone p rid = true) :
    exec (.longWordComplete g st) s = .next ((s.rlyClear p rid).retire p g st f) := by
  change execLongWordComplete g st s = _
  simp [execLongWordComplete, hown, hfl, Flight.ripe, hw, hdone]

/-- The tag of the launch that runs, 0 without one (R229). -/
def Partition.runTag (q : Partition) : Nat :=
  match q.run with | some r => r.la.ctx.tag.getD 0 | none => 0

theorem exec_complete_line {pa : Nat} (hown : s.ownerG g = some p) (hfl : (s.str g st).flight = f :: fs)
    (hw : f.waits = .line pa) (hheld : s.snooped [(s.part p).da pa / 64] = []) : exec (.longWordComplete g st) s =
      .next ((s.wrPa p (cellsAt pa (doneLine f.lw ((s.part p).rel g) (s.part p).runTag))).retire p g st f) := by
  change execLongWordComplete g st s = _
  simp only [execLongWordComplete, hown, hfl, Flight.ripe, hw, hheld]
  rfl

/-! ## Signals that arrive -/

/-- `n` signals of those in transit are taken out. -/
theorem count_foldl_erase {a x : Nat × Nat} {n : Nat} {l : List (Nat × Nat)} :
    ((List.range n).foldl (fun l _ => l.erase a) l).count x = l.count x - if x = a then n else 0 := by
  induction n with
  | zero => simp
  | succ n ih =>
    rw [List.range_succ, List.foldl_append, List.foldl_cons, List.foldl_nil]
    by_cases hx : x = a
    · subst hx
      rw [List.count_erase_self, ih, if_pos rfl, if_pos rfl, Nat.sub_sub]
    · rw [List.count_erase_of_ne hx, ih, if_neg hx, if_neg hx]

/-- The state after `n` signals have arrived at a token (R165, R169). -/
def State.signalled (s : State) (p g t n : Nat) : State :=
  (s.updPart p fun q => { q with signals := (List.range n).foldl (fun l _ => l.erase (g, t)) q.signals }).updClu g fun k =>
    { k with
      tokens := k.tokens.set t (BitVec.ofNat 8 ((tget 0 (s.clu g).tokens t).toNat + n))
      e := k.e.map fun c => if c.mode = .edge t then { c with v := c.v + BitVec.ofNat 32 n } else c }

/-- The error of a token that would exceed 255 (R166, R444). -/
def State.overflow (s : State) (p g t : Nat) : HwErr :=
  { code := 0x06, cluster := (s.part p).rel g, stream := 7, unit := 0x03, offset := 0, addr := t, space := 2
    court := g / 12, detail := 0 }

variable {t : Fin 64} {n : Nat}

theorem exec_signalArrive (hown : s.ownerG g = some p) (hn : 1 ≤ n) (hc : n ≤ (s.part p).signals.count (g.val, t.val)) :
    exec (.signalArrive g t n) s = .next (if 255 < (tget 0 (s.clu g).tokens t).toNat + n
      then s.latch p (s.overflow p g t) else s.signalled p g t n) := by
  have hgo : (decide (n = 0) || decide (n > (s.part p).signals.count (g.val, t.val))) = false := by
    simp only [Bool.or_eq_false_iff, decide_eq_false_iff_not]
    omega
  change execSignalArrive g t n s = _
  simp only [execSignalArrive, hown, hgo]
  rfl

theorem signalled_clu (hs : s.sized) : (s.signalled p g t n).clu g = { s.clu g with
    tokens := (s.clu g).tokens.set t (BitVec.ofNat 8 ((tget 0 (s.clu g).tokens t).toNat + n))
    e := ((s.signalled p g t n).clu g).e } := by
  have hclu : (s.signalled p g t n).clu g = _ := clu_updClu_same _ _ _ (by simpa using cl_length hs g.isLt)
  rw [hclu]
  rfl

theorem signalled_count {x : Nat × Nat} (hp : p < s.parts.length) : ((s.signalled p g t n).part p).signals.count x =
    (s.part p).signals.count x - if x = (g.val, t.val) then n else 0 := by
  have hpart : (s.signalled p g t n).part p = _ := part_updPart_same s p _ hp
  rw [hpart]
  exact count_foldl_erase

end

/-- Settles O40: what completes is a `State.retire`, behind the line of a DONE or the end of a registration; signals arrive or
overflow by `exec_signalArrive`. -/
theorem completionsAndSignals : Obligations.CompletionsAndSignals := by
  refine ⟨fun s g st f fs p hs _ hown hfl => ⟨fun hw => ?_, fun rid e hw hdone => ?_, fun pa hw hheld hpoison hm => ?_⟩,
    fun s g k n p hs _ hown hn hc => ⟨fun hle => ?_, fun hgt hrun => ?_⟩⟩
  · refine ⟨_, exec_complete hown hfl hw, by rw [retire_flight hs, hfl]; rfl, retire_regions hs,
      fun hf j hj => retire_clu_ne hf hj, fun c d hf hne hlt => retire_rels hs hf hne hlt,
      fun hop k c hsig => retire_signals (ownerG_lt hown) hop hsig, dram_of_mems retire_mems⟩
  · have hsz : (s.rlyClear p rid).sized := rlyClear_sized hs
    refine ⟨_, exec_complete_rly hown hfl hw hdone, ?_, dram_of_mems (retire_mems.trans rlyClear_mems), ?_⟩
    · rw [retire_flight hsz]
      exact congrArg (List.drop 1) hfl
    · rw [retire_rlys, State.rlyClear, part_updPart_same _ _ _ (ownerG_lt hown)]
  · refine ⟨_, exec_complete_line hown hfl hw hheld, ?_, fun a => ?_⟩
    · rw [retire_flight (wrPa_sized hs), State.str, State.wrPa, wrDa_clu]
      exact congrArg (List.drop 1) hfl
    · have hwf : Memory.wf s.dram = true := (memOk_iff.mp hm).1
      rw [rdDa_of_mems retire_mems, State.wrPa, wrDa_get s _ a hwf hpoison]
      rfl
  · have hk : k.val < (s.clu g).tokens.length := by
      obtain ⟨-, htok, -⟩ := Cluster.sized_iff.mp (clu_sized hs g.isLt)
      exact k.isLt.trans_eq htok.symm
    have hcount (x : Nat × Nat) := signalled_count (g := g) (t := k) (n := n) (x := x) (ownerG_lt hown)
    refine ⟨s.signalled p g k n, by rw [exec_signalArrive hown hn hc, if_neg (not_lt.mpr hle)], ?_, fun j hj => ?_, ?_,
      fun x hx => ?_, fun j hj => clu_updClu_ne _ _ _ _ hj.symm⟩
    · rw [signalled_clu hs]
      dsimp only
      rw [tget_set_same hk, BitVec.toNat_ofNat, Nat.mod_eq_of_lt (by omega)]
    · rw [signalled_clu hs]
      exact tget_set_ne hj.symm
    · rw [hcount, if_pos rfl]
    · rw [hcount, if_neg hx, Nat.sub_zero]
  · obtain ⟨hstate, hcode, -, hstops⟩ := latch_of_running (e := s.overflow p g k) (ownerG_lt hown) hrun
      (show 0x06 < 256 by decide)
    refine ⟨_, by rw [exec_signalArrive hown hn hc, if_pos hgt], hstate, hcode, ?_⟩
    rw [hstops g]

end Sys2Proof.Machine

namespace Sys2Proof.Machine

/-! # Remote grants (R157, R159) -/

section

variable {s : State} {g : Clu} {st : Strm} {h : Head} {p c : Nat} {d : Decl}

theorem exec_remoteRequest (hh : s.head g st = some h) (hr : h.remote = some (c, d)) : exec (.remoteRequest g st) s =
    .next (if localReady s h g st && !h.lw.noscore && !(s.str g st).asked && !s.holdsGrant h.p g st &&
        decide ((s.clu ((s.part h.p).glob c)).reqs.length < 64)
      then (s.updClu ((s.part h.p).glob c) fun k => { k with reqs := k.reqs ++ [⟨g, st, d⟩] }).updStr g st
        fun x => { x with asked := true }
      else s) := by
  change execRemoteRequest g st s = _
  simp only [execRemoteRequest, hh, hr]

/-- An engine that holds a grant asks for no other. -/
theorem exec_remoteRequest_of_holds (hh : s.head g st = some h) (hg : s.holdsGrant h.p g st = true) :
    exec (.remoteRequest g st) s = .next s := by
  cases hr : h.remote with
  | none =>
    change execRemoteRequest g st s = _
    simp only [execRemoteRequest, hh, hr]
  | some r => simp [exec_remoteRequest hh hr, hg]

/-- The first of the requests that wait whose regions admit it. -/
theorem findIdx_admitted {k : Cluster} {before behind : List RemoteReq} {r : RemoteReq}
    (hb : ∀ q ∈ before, k.admits q.uses = false) (hr : k.admits r.uses = true) :
    (before ++ r :: behind).findIdx? (fun q => k.admits q.uses) = some before.length := by
  have hnone : before.findIdx? (fun q => k.admits q.uses) = none := List.findIdx?_eq_none_iff.mpr hb
  simp [List.findIdx?_append, hnone, List.findIdx?_cons, hr]

/-- Two updates that agree on a cluster do the same. -/
theorem updClu_congr {f f' : Cluster → Cluster} (hs : s.sized) (hf : f (s.clu g) = f' (s.clu g)) :
    s.updClu g f = s.updClu g f' := by
  have hg : s.cl[g.val]? = some (s.clu g) := by
    have hlen : g.val < s.cl.length := cl_length hs g.isLt
    rw [State.clu, tget, List.getD_eq_getElem _ _ hlen, List.getElem?_eq_getElem hlen]
  have hcl : s.cl.modify g f = s.cl.modify g f' := by
    rw [List.modify_eq_set_getElem?, List.modify_eq_set_getElem?, hg]
    simp [hf]
  rw [State.updClu, State.updClu, hcl]

theorem exec_remoteGrant {before behind : List RemoteReq} {r : RemoteReq} (hs : s.sized)
    (hq : (s.clu g).reqs = before ++ r :: behind) (hb : ∀ q ∈ before, (s.clu g).admits q.uses = false)
    (hr : (s.clu g).admits r.uses = true) (hown : s.ownerG g = some p) : exec (.remoteGrant g) s =
      .next ((s.updClu g fun k => { k.regionIssue r.uses with reqs := before ++ behind }).updStr r.frm r.str
        fun x => { x with grant := some ((s.part p).rel g, r.decl) }) := by
  have hfind : (s.clu g).reqs.findIdx? (fun q => (s.clu g).admits q.uses) = some before.length := by
    rw [hq]
    exact findIdx_admitted hb hr
  have hat : (s.clu g).reqs[before.length]? = some r := by simp [hq]
  have hrest : (s.clu g).reqs.eraseIdx before.length = before ++ behind := by simp [hq, List.eraseIdx_append_of_length_le]
  change execRemoteGrant g s = _
  simp only [execRemoteGrant, hfind, hat, hown]
  rw [updClu_congr hs (f := fun k => { k.regionIssue r.uses with reqs := k.reqs.eraseIdx before.length })
    (f' := fun k => { k.regionIssue r.uses with reqs := before ++ behind }) (by rw [hrest])]

theorem exec_remoteGrant_of_none (hn : ∀ q ∈ (s.clu g).reqs, (s.clu g).admits q.uses = false) :
    exec (.remoteGrant g) s = .next s := by
  have hfind : (s.clu g).reqs.findIdx? (fun q => (s.clu g).admits q.uses) = none := List.findIdx?_eq_none_iff.mpr hn
  change execRemoteGrant g s = _
  simp only [execRemoteGrant, hfind]

theorem exec_remoteRelease {r : RemoteReq} {rs : List RemoteReq} (hq : (s.clu g).rels = r :: rs) :
    exec (.remoteRelease g) s = .next (s.updClu g fun k => { k.regionComplete r.uses with rels := rs }) := by
  change execRemoteRelease g s = _
  simp only [execRemoteRelease, hq]

/-- Which states of a region admit a use (R155). -/
theorem admits_iff {n : Nat} {x : RState} :
    (RUse.admits .fill ⟨x, n⟩ = true ↔ x = .empty) ∧ (RUse.admits .read ⟨x, n⟩ = true ↔ x = .full) ∧
      (RUse.admits .consume ⟨x, n⟩ = true ↔ x = .full) ∧ (RUse.admits .update ⟨x, n⟩ = true ↔ x = .full ∧ n = 0) := by
  simp [RUse.admits]

end

/-- Settles O35: the scoreboard's table is `admits_iff` with the events of each use, requests, grants and releases are
`exec_remoteRequest`, `exec_remoteGrant` and `exec_remoteRelease`. -/
theorem regionsAndRemoteGrants : Obligations.RegionsAndRemoteGrants := by
  refine ⟨fun n => ⟨fun st => admits_iff, ?_⟩, fun s g st h c d hs =>
    ⟨fun hh hr hready hscore hasked hholds hroom => ?_, fun hh hg => exec_remoteRequest_of_holds hh hg,
      fun before r behind p hq hb hr hown => exec_remoteGrant hs hq hb hr hown, fun hn => exec_remoteGrant_of_none hn,
      fun r rs hq => exec_remoteRelease hq⟩⟩
  · simp [RUse.issue, RUse.complete]
  · simp [exec_remoteRequest hh hr, hready, hscore, hasked, hholds, hroom]

end Sys2Proof.Machine

namespace Sys2Proof.Machine

/-! # What a long word that passes its checks leaves as it was

Reading descriptors and operands marks what the detectors meet and counts it; a residue mismatch is counted too. `State.Saw`
says what may change at that, said once. -/

section

variable {s t u v : State} {h : Head} {g st p : Nat} {op : Op} {obs : HwObs} {args : List Arg}

/-- `u` is `s` but for what detectors mark and count, and for the count of suspects of a running launch. -/
structure State.Saw (u s : State) : Prop where
  clu : ∀ c, u.clu c = { s.clu c with spce := (u.clu c).spce, suspect := (u.clu c).suspect }
  part : ∀ r, u.part r = { s.part r with run := (u.part r).run }
  run : ∀ r, (u.part r).run.map Running.actx = (s.part r).run.map Running.actx
  rest : { u with cl := s.cl, parts := s.parts, poison := s.poison, chans := s.chans, courts := s.courts } = s

theorem State.Saw.trans (hv : v.Saw u) (hu : u.Saw s) : v.Saw s where
  clu c := by rw [hv.clu, hu.clu]
  part r := by rw [hv.part, hu.part]
  run r := (hv.run r).trans (hu.run r)
  rest := (congrArg (fun x : State => { x with
    cl := s.cl, parts := s.parts, poison := s.poison, chans := s.chans, courts := s.courts }) hv.rest).trans hu.rest

theorem observe_saw {ls : List Nat} : (s.observe obs ls).Saw s where
  clu c := by rw [observe_frame]; rfl
  part r := by rw [observe_part]
  run r := by rw [observe_part]
  rest := by rw [observe_frame]

/-- An update of what the detectors count in one cluster, seen from any. -/
theorem clu_updClu_counts {f : Cluster → Cluster} (hf : ∀ k : Cluster, f k = { k with spce := (f k).spce, suspect := (f k).suspect })
    (j c : Nat) : (s.updClu j f).clu c =
      { s.clu c with spce := ((s.updClu j f).clu c).spce, suspect := ((s.updClu j f).clu c).suspect } := by
  obtain hsame | ⟨rfl, hnew⟩ := clu_updClu_cases (t := s) j c f
  · rw [hsame]
  · rw [hnew, hf]

theorem spSeen_saw {cs : List Nat} : (s.spSeen cs obs).Saw s where
  clu c := foldl_keeps
    (fun x : State => x.clu c = { s.clu c with spce := (x.clu c).spce, suspect := (x.clu c).suspect }) _ _ s rfl
    fun x j hx => by rw [clu_updClu_counts (fun _ => rfl) j c, hx]
  part r := by rw [State.part, spSeen_frame]; rfl
  run r := by rw [State.part, spSeen_frame]; rfl
  rest := by rw [spSeen_frame]

/-- An update reaches the partition that it names, where there is one. -/
theorem part_updPart_cases (q r : Nat) (f : Partition → Partition) :
    (s.updPart q f).part r = s.part r ∨ (s.updPart q f).part r = f (s.part r) := by
  by_cases hqr : q = r
  · subst hqr
    by_cases hq : q < s.parts.length
    · exact .inr (part_updPart_same s q f hq)
    · exact .inl (by simp [State.part, tget, State.updPart, List.getD_eq_getElem?_getD, not_lt.mp hq])
  · exact .inl (part_updPart_ne s q r f hqr)

/-- An update of the launches of partitions. -/
theorem part_updPart_run {q : Nat} {f : Partition → Partition} (hf : ∀ x, f x = { x with run := (f x).run }) (r : Nat) :
    (s.updPart q f).part r = { s.part r with run := ((s.updPart q f).part r).run } := by
  obtain hsame | hnew := part_updPart_cases (s := s) q r f
  · rw [hsame]
  · rw [hnew, ← hf]

theorem suspect_saw {hit : Bool} : (s.suspect p g hit).Saw s := by
  unfold State.suspect
  split
  · refine ⟨fun c => clu_updClu_counts (fun _ => rfl) g c, part_updPart_run fun _ => rfl, fun r => ?_, rfl⟩
    refine part_updPart_keeps (fun q => q.run.map Running.actx) (fun q => ?_) p r
    rw [Option.map_map]
    rfl
  · exact ⟨fun _ => rfl, fun _ => rfl, fun _ => rfl, rfl⟩

theorem passes_saw (hp : s.passes g st op obs = some (h, args, u)) : u.Saw s := by
  rw [(passes_elim hp).2]
  exact suspect_saw.trans (spSeen_saw.trans (observe_saw.trans observe_saw))

theorem State.Saw.str (hu : u.Saw s) (c j : Nat) : u.str c j = s.str c j := by
  rw [State.str, hu.clu]
  rfl

/-- A partition is RUNNING as before. -/
theorem State.Saw.state (hu : u.Saw s) (r : Nat) : (u.part r).state = (s.part r).state := by
  have hrun : (u.part r).run.isSome = (s.part r).run.isSome := by
    rw [← Option.isSome_map (f := Running.actx), hu.run, Option.isSome_map]
  rw [Partition.state, Partition.state, hrun, hu.part r]
  rfl

theorem State.Saw.undo (hu : u.Saw s) : u.undo = s.undo := by
  have hrest := congrArg State.undo hu.rest
  exact hrest

theorem State.Saw.inFlight (hu : u.Saw s) : u.inFlight p = s.inFlight p :=
  inFlight_congr hu.undo (by rw [hu.part])

end

/-! # What a fault after some writes may put back

Writes take from what is kept of the long words in flight, and add nothing to it (R446). -/

section

variable {s t u v : State} {h : Head} {g st p q W n : Nat} {a dst : Arg} {cells : List Host.Cell} {cnts : List Cnt} {c : Bool}

theorem inFlight_of_filtered {keep : OldByte → Bool} (hu : t.undo = s.undo.map (Undo.filter keep))
    (hc : (t.part p).courts = (s.part p).courts) : ∀ o ∈ t.inFlight p, o ∈ s.inFlight p := by
  have hglob : (t.part p).clusters = (s.part p).clusters := by
    rw [Partition.clusters, Partition.clusters, hc]
    exact List.map_congr_left fun c _ => by rw [Partition.glob, Partition.glob, hc]
  simp only [State.inFlight, hu, hglob, List.mem_flatMap, List.mem_filter, List.mem_map]
  rintro o ⟨_, ⟨⟨e, he, rfl⟩, hmine⟩, ho⟩
  exact ⟨e, ⟨he, hmine⟩, (List.mem_filter.mp ho).1⟩

theorem wrArg_inFlight (hm : u.memOk = true) : ∀ o ∈ (u.wrArg q g a cells).inFlight p, o ∈ u.inFlight p := by
  have hc : ((u.wrArg q g a cells).part p).courts = (u.part p).courts :=
    congrArg Partition.courts (wrArg_moved.part (st := 0) (g := 0) p)
  unfold State.wrArg at hc ⊢
  split at hc
  next hspace =>
    rw [if_pos hspace]
    obtain ⟨hd, hp, -⟩ := memOk_iff.mp hm
    obtain ⟨done, -, hw⟩ := wrDa_linesWritten (s := u) (cells := cells.map fun c => ((u.part q).da c.1, c.2)) hd hp
    obtain ⟨keep, -, hkeep⟩ := hw.undo
    exact inFlight_of_filtered hkeep hc
  next hspace =>
    rw [if_neg hspace]
    exact inFlight_of_filtered rfl hc

theorem wrSettled_inFlight (hm : u.memOk = true) : ∀ o ∈ (u.wrSettled q g a cells).inFlight p, o ∈ u.inFlight p := by
  unfold State.wrSettled
  dsimp only
  split
  · exact wrArg_inFlight hm
  · exact wrArg_inFlight hm

theorem draws_undo : (u.draws q g st W n c).2.undo = u.undo := by
  unfold State.draws
  split
  · split <;> rfl
  · rfl

theorem State.Abandoned.mono {os os' : List OldByte} (ht : t.Abandoned u os) (hos : ∀ o ∈ os, o ∈ os') :
    t.Abandoned u os' := by
  obtain ⟨hdram, hcause, hsp, hvr⟩ := ht
  exact ⟨fun a => (hdram a).imp_right fun ⟨o, ho, h⟩ => ⟨o, hos o ho, h⟩,
    fun l => (hcause l).imp_right fun ⟨hn, o, ho, h⟩ => ⟨hn, o, hos o ho, h⟩,
    fun c a => (hsp c a).imp_right fun ⟨o, ho, h⟩ => ⟨o, hos o ho, h⟩, hvr⟩

variable {op : Op} {obs : HwObs} {args : List Arg} {e : HwErr}

/-- A long word that has passed its checks and perhaps written meets an error: it latches, and of the long words in flight no
more is put back than before those writes (R446). -/
theorem withArgs_latched {body : Head → List Arg → State → State} (hs : s.sized)
    (hp : s.passes g st op obs = some (h, args, u)) (hb : body h args u = v.latch h.p e) (hmv : v.Moved u g st)
    (hok : v.memOk = true) (hin : ∀ o ∈ v.inFlight h.p, o ∈ u.inFlight h.p) (he : e.code < 256) :
    let t := withArgs s g st op obs body
    (t.part h.p).state = 4 ∧ (t.part h.p).ffCode = e.code ∧ tget 0 (t.part h.p).ffrec 2 = BitVec.ofNat 32 e.addr ∧
      t.Abandoned v (s.inFlight h.p) := by
  intro t
  have ht : t = (v.latch h.p e).remember u h.p g st (writesOf u h.p g op args) :=
    hb ▸ withArgs_passes s g st op obs body h args u hp
  have hpart : t.part h.p = (v.latch h.p e).part h.p := by
    rw [ht, remember_frame]
    rfl
  have hu := passes_saw hp
  obtain ⟨hlen, hr⟩ := issuing_running (passes_elim hp).1
  rw [parts_length hs, ← parts_length (passes_sized hs hp), ← hmv.parts] at hlen
  have hr : (v.part h.p).state = 3 := by rw [hmv.part, hu.state, hr]
  have hmay : (v.part h.p).mayLatch e.code = true := by simp [Partition.mayLatch, stat_of_running hr, hr]
  obtain ⟨hstate, hcode, -⟩ := latch_of_running hlen hr he
  have hab := (latch_abandoned hlen (memOk_iff.mp hok) hmay).mono fun o ho => hu.inFlight ▸ hin o ho
  rw [hpart]
  refine ⟨hstate, hcode, ?_, hab.of_mems (by rw [ht]; simp)⟩
  rw [latch_ffrec hlen hmay]
  rfl

end

end Sys2Proof.Machine

namespace Sys2Proof.Machine

/-! # GATH, GATP and SCAT (R204, R223) -/

section

variable {s t u v : State} {h : Head} {g st p W n : Nat} {dst : Arg} {els : List El} {op : Op} {obs : HwObs}
  {args : List Arg} {body : Head → List Arg → State → State} {cells : List Host.Cell} {cnts : List Cnt}
  {c : Bool} {l : List (Int × Nat)} {ws : List (Arg × List Host.Cell)}

/-- The good indices end at the first bad one. -/
theorem goodIndices_eq {limit : Nat} (hn : n ≤ l.length) (hgood : ∀ i ∈ l.take n, 0 ≤ i.1 ∧ i.1 < limit)
    (hbad : ∀ i, l[n]? = some i → i.1 < 0 ∨ limit ≤ i.1) : goodIndices l limit = n := by
  have htake : (l.take n).takeWhile (fun i => decide (0 ≤ i.1) && decide (i.1 < (limit : Int))) = l.take n :=
    List.takeWhile_eq_self_iff.mpr fun i hi => by simpa using hgood i hi
  have hdrop : (l.drop n).takeWhile (fun i => decide (0 ≤ i.1) && decide (i.1 < (limit : Int))) = [] := by
    rw [List.takeWhile_eq_nil_iff]
    intro hlt
    have hlt' : n < l.length := by simpa using hlt
    have hb := hbad _ (List.getElem?_eq_getElem hlt')
    simp only [List.get_eq_getElem, List.getElem_drop, Nat.add_zero, Bool.and_eq_true, decide_eq_true_eq]
    omega
  have hall : l.takeWhile (fun i => decide (0 ≤ i.1) && decide (i.1 < (limit : Int))) = l.take n := by
    conv_lhs => rw [← List.take_append_drop n l]
    rw [List.takeWhile_append_of_pos (List.takeWhile_eq_self_iff.mp htake), hdrop, List.append_nil]
  rw [goodIndices, hall, List.length_take, Nat.min_eq_left hn]

theorem afterIndices_all (hn : n = l.length) : afterIndices v h g st l n = issueCommon v h g st .nothing := by
  simp [afterIndices, hn]

theorem afterIndices_bad {i : Int × Nat} (hi : l[n]? = some i) :
    afterIndices v h g st l n = v.latch h.p (h.err st 0x04 0x01 i.2 2 (g / 12) 0) := by
  rw [afterIndices, hi]

/-- `v` is `u` after a long word of cluster g has moved its data, `ws` being what it has written. -/
structure State.WroteOut (v u : State) (p g st : Nat) (ws : List (Arg × List Host.Cell)) : Prop where
  sized : v.sized
  memOk : v.memOk = true
  moved : v.Moved u g st
  wrote : v.Wrote u p g ws
  inFlight : ∀ o ∈ v.inFlight p, o ∈ u.inFlight p

theorem wrSettled_wroteOut (hu : u.sized) (hm : u.memOk = true) :
    (u.wrSettled p g dst cells).WroteOut u p g st [(dst, dst.settled u.free cells)] where
  sized := wrSettled_sized hu
  memOk := memOk_iff.mpr (wrSettled_ok (memOk_iff.mp hm))
  moved := wrSettled_moved
  wrote := wrSettled_wrote hu hm
  inFlight := wrSettled_inFlight hm

/-- Draws before the writes change nothing that is written. -/
theorem State.WroteOut.of_draws (hg : g < 96) (hst : st < 5) (hu : u.sized)
    (hv : v.WroteOut (u.draws p g st W n c).2 p g st ws) : v.WroteOut u p g st ws := by
  have hdm : (u.draws p g st W n c).2.Moved u g st := draws_moved (cl_length hu hg) (by rwa [streams_length hu hg])
  have hin := inFlight_congr draws_undo (congrArg Partition.courts (hdm.part p))
  exact ⟨hv.sized, hv.memOk, hdm.trans hv.moved, hv.wrote.of_moved draws_mems (hdm.part p), fun o ho =>
    hin ▸ hv.inFlight o ho⟩

theorem State.WroteOut.count {set : Nat} (hg : g < 96) (hv : v.WroteOut u p g st ws) :
    (v.count g set cnts).WroteOut u p g st ws where
  sized := count_sized hv.sized
  memOk := by
    rw [memOk_iff, count_mems]
    exact memOk_iff.mp hv.memOk
  moved := hv.moved.trans (count_moved (cl_length hv.sized hg))
  wrote := hv.wrote.of_mems count_mems
  inFlight := hv.inFlight

/-- The rows of a GATH that come before a bad index, as they settle. -/
theorem convRows_wroteOut {src : Desc} {cut : Arg} (hg : g < 96) (hst : st < 5) (hu : u.sized) (hm : u.memOk = true) :
    let ds := u.draws h.p g st W els.length (consumes h.ctx src cut.d)
    (convRows u h g st W src cut dst els).WroteOut u h.p g st
      [(dst, dst.settled u.free (dst.rescale cut (convertAll h.ctx src cut els ds.1).1))] := by
  intro ds
  have hd : ds.2.memOk = true := by
    rw [memOk_iff, draws_mems]
    exact memOk_iff.mp hm
  have hw := wrSettled_wroteOut (p := h.p) (g := g) (st := st) (dst := dst)
    (cells := dst.rescale cut (convertAll h.ctx src cut els ds.1).1) (draws_sized hu) hd
  rw [draws_free] at hw
  exact (hw.of_draws hg hst hu).count hg

/-- An operation that has moved the rows of its good indices issues where all are good, and at the first bad index faults
with RANGE and its index, the rows before it moved. -/
theorem withArgs_afterIndices (hg : g < 96) (hst : st < 5) (hop : op ≠ .sync) (hs : s.sized)
    (hp : s.passes g st op obs = some (h, args, u)) (hb : body h args u = afterIndices v h g st l n)
    (hv : v.WroteOut u h.p g st ws) :
    let t := withArgs s g st op obs body
    (n = l.length → t.Issued u h g st .nothing ∧ t.Wrote u h.p g ws) ∧
      ∀ i, l[n]? = some i → (t.part h.p).state = 4 ∧ (t.part h.p).ffCode = 0x04 ∧
        tget 0 (t.part h.p).ffrec 2 = BitVec.ofNat 32 i.2 ∧
        ∃ v : State, v.Wrote u h.p g ws ∧ t.Abandoned v (s.inFlight h.p) := by
  intro t
  refine ⟨fun hn => ?_, fun i hi => ?_⟩
  · obtain ⟨hissued, hwrote, -⟩ :=
      withArgs_issued hg hst hop hp (hb.trans (afterIndices_all hn)) hv.sized hv.moved hv.wrote
    exact ⟨hissued, hwrote⟩
  · obtain ⟨hstate, hcode, haddr, hab⟩ := withArgs_latched hs hp (hb.trans (afterIndices_bad hi)) hv.moved hv.memOk
      hv.inFlight (show (4 : Nat) < 256 by decide)
    exact ⟨hstate, hcode, haddr, v, hv.wrote, hab⟩

theorem gathBody_eq {src idx : Arg} {u : State} (hl : goodIndices (idx.indices u h.p g) (src.d.ext 1) = n) :
    let rows := dst.rows1 (min n (dst.d.ext 1))
    gathBody g h [src, idx, dst] u = afterIndices (convRows u h g 0 (sideRate rows.d) src.d rows dst
      (src.gather u h.p g rows.d.exts (gatherIx (idx.indices u h.p g)))) h g 0 (idx.indices u h.p g) n := by
  simp only [gathBody, hl]

end

/-- Settles O45: GATH's rows are written as `convRows_wroteOut` says, those of GATP and SCAT as `wrSettled_wroteOut` does;
all three end as `withArgs_afterIndices` says. -/
theorem indexedMoves : Obligations.IndexedMoves := by
  intro s g obs h src idx dst u op c st n hs hm _ hmem hp
  extract_lets l limit rows els ds ws
  intro hn hgood hbad
  have hu := passes_sized hs hp
  have hok := passes_memOk hm hp
  simp only [List.mem_cons, Prod.mk.injEq, List.not_mem_nil, or_false] at hmem
  obtain ⟨rfl, rfl, rfl⟩ | ⟨rfl, rfl, rfl⟩ | ⟨rfl, rfl, rfl⟩ := hmem
  · have hl : goodIndices l (src.d.ext 1) = n := goodIndices_eq hn hgood hbad
    exact ⟨_, rfl, withArgs_afterIndices g.isLt (by decide) (by decide) hs hp (gathBody_eq hl)
      (convRows_wroteOut g.isLt (by decide) hu hok)⟩
  · have hl : goodIndices l (src.d.ext 1) = n := goodIndices_eq hn hgood hbad
    refine ⟨_, rfl, withArgs_afterIndices g.isLt (by decide) (by decide) hs hp ?_ (wrSettled_wroteOut hu hok)⟩
    dsimp only
    rw [hl]
  · have hl : goodIndices l (dst.d.ext 1) = n := goodIndices_eq hn hgood hbad
    refine ⟨_, rfl, withArgs_afterIndices g.isLt (by decide) (by decide) hs hp ?_ (wrSettled_wroteOut hu hok)⟩
    dsimp only
    rw [hl]

end Sys2Proof.Machine

namespace Sys2Proof.Machine

/-! # PUT, DONE and FENCE (R228 to R230, R392) -/

section

theorem State.Saw.dev {s u : State} (hu : u.Saw s) : u.dev = s.dev := by
  have hrest := congrArg State.dev hu.rest
  exact hrest

variable {s t u v : State} {h : Head} {g : Clu} {p x dev rack : Nat} {obs : HwObs} {src dst : Arg} {gr : Group}

/-! ## Frames that wait for a link -/

theorem pick_of_not_up {q : Port} (hq : q.st ≠ .up) : q.pick = none := by
  have hmay (f : Frame) : q.maySend f = false := by simp [Port.maySend, hq]
  simp [Port.pick, hmay]

theorem drain_of_not_up (hx : (s.port x).st ≠ .up) : s.drain x = s := by
  unfold State.drain
  cases (s.port x).egress.length with
  | zero => rfl
  | succ n => simp [drainPort, pick_of_not_up hx]

/-- A frame of a partition waits at a port. -/
def State.enqueue (s : State) (x : Nat) (f : Frame) : State := s.updPort x fun q => { q with egress := q.egress ++ [(f, none)] }

theorem port_enqueue {f : Frame} (hlt : x < s.ports.length) :
    (s.enqueue x f).port x = { s.port x with egress := (s.port x).egress ++ [(f, none)] } := port_updPort_same s x _ hlt

/-- A frame routed to a link that is not up waits in its egress. -/
theorem route_of_not_up {f : Frame} (hr : s.routeOf p f.dst = some x) (hx : (s.port x).st ≠ .up) (hlt : x < s.ports.length) :
    s.route p f = s.enqueue x f := by
  simp only [State.route, hr, State.egress]
  refine drain_of_not_up (s := s.enqueue x f) ?_
  rw [port_enqueue hlt]
  exact hx

/-- Frames of a partition, each by its route. -/
def State.routes (s : State) (p : Nat) (fs : List Frame) : State := fs.foldl (fun s f => s.route p f) s

theorem routes_sameButPorts {fs : List Frame} : SameButPorts s (s.routes p fs) :=
  foldl_keeps (SameButPorts s) _ fs s rfl fun _ _ ht => ht.trans route_sameButPorts

theorem routes_egress {fs : List Frame} (hfs : ∀ f ∈ fs, f.dst = dev) (hr : s.routeOf p dev = some x)
    (hx : (s.port x).st ≠ .up) (hlt : x < s.ports.length) :
    ((s.routes p fs).port x).egress = (s.port x).egress ++ fs.map fun f => (f, none) := by
  induction fs generalizing s with
  | nil => exact (List.append_nil _).symm
  | cons f fs ih =>
    obtain ⟨hf, hfs⟩ := List.forall_mem_cons.mp hfs
    have hst : ((s.enqueue x f).port x).st ≠ .up := by
      rw [port_enqueue hlt]
      exact hx
    have hlen : x < (s.enqueue x f).ports.length := hlt.trans_eq (List.length_modify ..).symm
    calc ((s.routes p (f :: fs)).port x).egress
      _ = (((s.enqueue x f).routes p fs).port x).egress := by
        rw [State.routes, List.foldl_cons, route_of_not_up (hf ▸ hr) hx hlt, State.routes]
      _ = ((s.enqueue x f).port x).egress ++ fs.map fun f => (f, none) := ih hfs hr hst hlen
      _ = _ := by rw [port_enqueue hlt, List.map_cons, List.append_assoc, List.singleton_append]

theorem putFrames_dst {rack dev : Nat} {cells : List Host.Cell} : ∀ f ∈ putFrames rack dev cells, f.dst = dev := by
  intro f hf
  simp only [putFrames, List.mem_flatMap, List.mem_map] at hf
  obtain ⟨l, -, r, -, rfl⟩ := hf
  rfl

/-! ## The TID of a PUT -/

/-- Of 256 TIDs in turn one is free where fewer wait (R392). -/
theorem exists_free_tid {used : List Nat} (start : Nat) (hroom : used.length < 256) :
    ∃ k, (List.range 256).find? (fun k => !used.contains ((start + k) % 256)) = some k ∧ (start + k) % 256 ∉ used := by
  cases hk : (List.range 256).find? (fun k => !used.contains ((start + k) % 256)) with
  | some k => exact ⟨k, rfl, by simpa using List.find?_some hk⟩
  | none =>
    have hall (k : Nat) (hlt : k < 256) : (start + k) % 256 ∈ used := by
      simpa using List.find?_eq_none.mp hk k (List.mem_range.mpr hlt)
    have hsub : List.range 256 ⊆ used := fun j hj => by
      have hlt : j < 256 := List.mem_range.mp hj
      have hmem := hall ((j + 256 - start % 256) % 256) (Nat.mod_lt _ (by decide))
      rwa [show (start + (j + 256 - start % 256) % 256) % 256 = j by omega] at hmem
    have hle : 256 ≤ used.length := by simpa using (List.nodup_range.subperm hsub).length_le
    omega

theorem State.Saw.tidsTo (hu : u.Saw s) : u.tidsTo p dev = s.tidsTo p dev := by
  have hc : (u.part p).clusters = (s.part p).clusters := by rw [hu.part p]; rfl
  simp only [State.tidsTo, hc, hu.str]

/-! ## What PUT does with its operands -/

/-- The other devices to which a PUT goes: members of the group that a route reaches. -/
theorem putBody_refused (hrack : u.dev.rack = some rack) (hgr : (u.part h.p).rally.group = some gr)
    (hno : h.lw.f 2 31 26 ∉ gr.members ∨ h.lw.f 2 31 26 = rack ∨ u.routeOf h.p (h.lw.f 2 31 26) = none) :
    putBody g h [src, dst] u = u.latch h.p (h.err 4 0x04 0x01 (h.lw.f 2 31 26) 2 (g / 12) 0) := by
  have hcond : (!gr.members.contains (h.lw.f 2 31 26) || decide (h.lw.f 2 31 26 = rack) ||
      (u.routeOf h.p (h.lw.f 2 31 26)).isNone) = true := by
    simpa [or_assoc] using hno
  simp only [putBody, twoArgs, hrack, hgr]
  rw [if_pos (by simpa using hcond)]

/-- The state in which a PUT issues, `v` being the one after its draws: its elements are counted, its frames `fs` routed,
and `n` WRITE frames sent to device `dev` (R392). -/
def State.putSends (v : State) (h : Head) (g : Nat) (cnts : List Cnt) (dev n : Nat) (fs : List Frame) : State :=
  (((v.count g h.lw.tally cnts).updPart h.p fun q => { q with putSent := spSet 0 q.putSent dev n }).routes h.p fs).fresh

/-- A PUT to another member takes a free TID, sends its frames and then the READREQ, and issues. -/
theorem putBody_sends (hrack : u.dev.rack = some rack) (hgr : (u.part h.p).rally.group = some gr)
    (hdev : h.lw.f 2 31 26 = dev) (hmem : dev ∈ gr.members) (hne : dev ≠ rack) (hroute : u.routeOf h.p dev = some x)
    (hroom : (u.tidsTo h.p dev).length < 256) :
    let ds := u.draws h.p g 4 (storeRate src.d dst.d) (src.read u h.p g).length (consumes h.ctx src.d dst.d)
    let res := convertAll h.ctx src.d dst (src.read u h.p g) ds.1
    let frames := putFrames rack dev (dst.settled u.free res.1)
    let n := (spGet 0 (u.part h.p).putSent dev + frames.length) % 2 ^ 16
    ∃ tid < 256, tid ∉ u.tidsTo h.p dev ∧ putBody g h [src, dst] u = issueCommon (ds.2.putSends h g res.2 dev n
      (frames ++ [mkFrame 1 rack dev 0 0 (n + tid * 2 ^ 16) zeros64])) h g 4 (.put dev tid) := by
  intro ds res frames n
  obtain ⟨k, hk, hfree⟩ := exists_free_tid (Config.putTid u.free) hroom
  refine ⟨(Config.putTid u.free + k) % 256, Nat.mod_lt _ (by decide), hfree, ?_⟩
  have hfr : ds.2.free = u.free := draws_free
  have hcond : ¬ (!gr.members.contains dev || decide (dev = rack) || (u.routeOf h.p dev).isNone) = true := by
    simp [hmem, hne, hroute]
  simp only [putBody, twoArgs, hrack, hgr, hdev]
  rw [if_neg (by simpa using hcond), hk]
  have hset (cells : List Host.Cell) : dst.settled ds.2.free cells = dst.settled u.free cells := by rw [hfr]
  simp only [State.putSends, State.routes, List.foldl_append, List.foldl_cons, List.foldl_nil, frames, n, ← hset]
  rfl

section

variable {cnts : List Cnt} {n : Nat} {fs : List Frame}

theorem putSends_sized (hv : v.sized) : (v.putSends h g cnts dev n fs).sized :=
  foldl_sized (updPart_sized (count_sized hv) id) route_sized

theorem putSends_mems : (v.putSends h g cnts dev n fs).mems = v.mems := by
  rw [State.putSends, fresh_mems, routes_sameButPorts.mems]
  simp

theorem putSends_clu (hv : v.sized) : (v.putSends h g cnts dev n fs).clu g =
    { v.clu g with tally := (v.clu g).tally.modify h.lw.tally (·.add cnts) } := by
  rw [State.putSends, clu_fresh, routes_sameButPorts.clu]
  exact clu_count (cl_length hv g.isLt)

theorem putSends_str (hv : v.sized) (j : Nat) : (v.putSends h g cnts dev n fs).str g j = v.str g j := by
  rw [State.str, putSends_clu hv]
  rfl

theorem putSends_part (hp : h.p < v.parts.length) : (v.putSends h g cnts dev n fs).part h.p =
    { v.part h.p with putSent := spSet 0 (v.part h.p).putSent dev n } := by
  rw [State.putSends, part_fresh, routes_sameButPorts.part]
  exact part_updPart_same _ _ _ hp

theorem putSends_egress (hfs : ∀ f ∈ fs, f.dst = dev) (hr : v.routeOf h.p dev = some x) (hx : (v.port x).st ≠ .up)
    (hlt : x < v.ports.length) : ((v.putSends h g cnts dev n fs).port x).egress = (v.port x).egress ++ fs.map fun f => (f, none) := by
  refine routes_egress (s := (v.count g h.lw.tally cnts).updPart h.p _) hfs (Eq.trans ?_ hr) hx hlt
  unfold State.routeOf
  refine part_updPart_keeps (fun q => spGet none q.rally.routes dev) (fun q => ?_) h.p h.p
  rfl

end

theorem State.Saw.port (hu : u.Saw s) (x : Nat) : u.port x = s.port x := by
  have hrest := congrArg State.ports hu.rest
  exact congrArg (tget {} · x) hrest

theorem State.Saw.rally (hu : u.Saw s) (p : Nat) : (u.part p).rally = (s.part p).rally := by rw [hu.part p]

theorem State.Saw.routeOf (hu : u.Saw s) : u.routeOf p dev = s.routeOf p dev := by
  rw [State.routeOf, hu.rally, State.routeOf]

theorem State.Moved.port (hv : v.Moved u g.val x) (y : Nat) : v.port y = u.port y := by
  have hrest := congrArg State.ports hv.rest
  exact congrArg (tget {} · y) hrest

theorem State.Issued.port {st : Nat} {w : Waits} (ht : t.Issued u h g.val st w) (y : Nat) : t.port y = u.port y := by
  obtain ⟨-, -, -, -, -, -, -, -, -, -, -, -, hrest⟩ := ht
  exact congrArg (fun v : State => tget {} v.ports y) hrest

/-- A long word that issues in a state `v` to which its operation has led. -/
theorem withArgs_issues {st : Nat} {w : Waits} {op : Op} {args : List Arg} {body : Head → List Arg → State → State}
    (hst : st < 5) (hop : op ≠ .sync) (hp : s.passes g st op obs = some (h, args, u))
    (hb : body h args u = issueCommon v h g st w) (hv : v.sized) :
    let t := withArgs s g st op obs body
    t.Issued v h g st w ∧ t.mems = v.mems := by
  intro t
  have ht : t = (issueCommon v h g st w).remember u h.p g st (writesOf u h.p g op args) :=
    hb ▸ withArgs_passes s g st op obs body h args u hp
  have hissue : (issueCommon v h g st w).Issued v h g st w :=
    issueCommon_issued (passes_op hp ▸ hop) (cl_length hv g.isLt) (by rwa [streams_length hv g.isLt])
  rw [ht]
  exact ⟨hissue.remember, by rw [remember_mems, issueCommon_mems]⟩

/-- What a PUT leaves that goes to another member by a route (R392). -/
theorem exec_put_sends (hs : s.sized) (hp : s.passes g 4 .put obs = some (h, [src, dst], u)) (hrack : s.dev.rack = some rack)
    (hgr : (s.part h.p).rally.group = some gr) (hwf : spWf 0 (s.part h.p).putSent = true) (hdev : h.lw.f 2 31 26 = dev)
    (hmem : dev ∈ gr.members) (hne : dev ≠ rack) (hroute : s.routeOf h.p dev = some x) (hx : x < 8)
    (hroom : (s.tidsTo h.p dev).length < 256) :
    let ds := u.draws h.p g 4 (storeRate src.d dst.d) (src.read u h.p g).length (consumes h.ctx src.d dst.d)
    let frames := putFrames rack dev (dst.settled u.free (convertAll h.ctx src.d dst (src.read u h.p g) ds.1).1)
    let n := (spGet 0 (s.part h.p).putSent dev + frames.length) % 2 ^ 16
    ∃ t tid, exec (.put g obs) s = .next t ∧ tid < 256 ∧ tid ∉ s.tidsTo h.p dev ∧
      (t.str g 4).flight = (u.str g 4).flight ++ [h.flight (u.str g 4) (.put dev tid)] ∧ t.Wrote u h.p g [] ∧
      spGet 0 (t.part h.p).putSent dev = n ∧
      ((s.port x).st ≠ .up → (t.port x).egress = (s.port x).egress ++
        (frames ++ [mkFrame 1 rack dev 0 0 (n + tid * 2 ^ 16) zeros64]).map fun f => (f, none)) := by
  intro ds frames n
  have hu := passes_saw hp
  have husz := passes_sized hs hp
  have hput : (u.part h.p).putSent = (s.part h.p).putSent := by rw [hu.part]
  obtain ⟨tid, hlt, hfree, hb⟩ := putBody_sends (src := src) (dst := dst) (hu.dev ▸ hrack) (hu.rally h.p ▸ hgr) hdev hmem hne
    (hu.routeOf ▸ hroute) (hu.tidsTo ▸ hroom)
  rw [hput] at hb
  have hdm : ds.2.Moved u g 4 := draws_moved (cl_length husz g.isLt) (by rw [streams_length husz g.isLt]; decide)
  have hdsz : ds.2.sized := draws_sized husz
  have hlen : h.p < ds.2.parts.length := by
    rw [parts_length hdsz, ← parts_length hs]
    exact (issuing_running (passes_elim hp).1).1
  obtain ⟨hissued, hmems⟩ := withArgs_issues (body := putBody g) (by decide) (by decide) hp hb (putSends_sized hdsz)
  refine ⟨_, tid, rfl, hlt, hu.tidsTo ▸ hfree, ?_, ?_, ?_, fun hdown => ?_⟩
  · obtain ⟨-, hflight, -⟩ := hissued
    rw [hflight, putSends_str hdsz, hdm.str]
    rfl
  · exact wrote_nil.of_mems (hmems.trans (putSends_mems.trans draws_mems))
  · obtain ⟨-, -, -, -, -, -, -, -, -, -, hpart, -⟩ := hissued
    rw [hpart]
    dsimp only
    rw [putSends_part hlen, hdm.part]
    dsimp only
    rw [hput, spGet_spSet 0 _ _ _ _ hwf, if_pos rfl]
  · have hfs : ∀ f ∈ frames ++ [mkFrame 1 rack dev 0 0 (n + tid * 2 ^ 16) zeros64], f.dst = dev := by
      intro f hf
      obtain hf | hf := List.mem_append.mp hf
      · exact putFrames_dst f hf
      · rw [List.mem_singleton.mp hf]
        rfl
    have hport : ds.2.port x = s.port x := (hdm.port x).trans (hu.port x)
    have hr : ds.2.routeOf h.p dev = some x := by
      rw [State.routeOf, hdm.part]
      exact hu.routeOf.trans hroute
    rw [hissued.port, putSends_egress hfs hr (hport ▸ hdown) (by rw [ports_length hdsz]; exact hx), hport]

/-! ## DONE and FENCE -/

theorem exec_done (hi : s.issuing g 4 .done = some h) (hpar : obs.parity = false) :
    let pa := (tget 0 (s.str g 4).a (h.lw.f 0 31 28)).toNat
    exec (.done g obs) s = .next (
      if pa % 64 ≠ 0 then s.latch h.p (h.err 4 0x03 0x01 pa 0 (g / 12) 0)
      else if pa + 64 > (s.part h.p).size then s.latch h.p (h.err 4 0x04 0x01 pa 0 (g / 12) 0)
      else if pa ≥ (s.part h.p).slotLo then s.latch h.p (h.err 4 0x04 0x01 pa 0 (g / 12) 0x45)
      else issueCommon s h g 4 (.line pa)) := by
  refine congrArg _ ((withHead_issuing s g 4 .done _ h hi).trans ?_)
  simp [hpar]

theorem exec_fence (hi : s.issuing g 4 .fence = some h) (hpar : obs.parity = false) :
    exec (.fence g obs) s = .next (issueCommon s h g 4 .earlier) := by
  refine congrArg _ ((withHead_issuing s g 4 .fence _ h hi).trans ?_)
  simp [hpar]

/-- The issue of an operation without operands. -/
theorem issueCommon_of_issuing {st : Nat} {w : Waits} {op : Op} (hs : s.sized) (hst : st < 5) (hop : op ≠ .sync)
    (hi : s.issuing g st op = some h) :
    (issueCommon s h g st w).Issued s h g st w ∧ (issueCommon s h g st w).Wrote s h.p g [] :=
  ⟨issueCommon_issued (issuing_op hi ▸ hop) (cl_length hs g.isLt) (by rwa [streams_length hs g.isLt]),
    wrote_nil.of_mems issueCommon_mems⟩

/-- Behind a FENCE in flight nothing of the store engine issues (R230). -/
theorem issuing_of_fence {f : Flight} {op : Op} (hf : f ∈ (s.str g 4).flight) (hop : f.op = .fence) :
    s.issuing g 4 op = none := by
  have hnot (k : Head) : ready s k g 4 = false := by
    have hany : ((s.clu g).str 4).flight.any (fun f => f.op == .fence) = true :=
      List.any_eq_true.mpr ⟨f, hf, by simp [hop]⟩
    simp [ready, localReady, hany]
  unfold State.issuing
  split
  · simp [hnot]
  · rfl

end

/-- Settles O51: a PUT that is refused latches in the state in which it read its operands (`withArgs_latched`), another one
sends as `exec_put_sends` says; DONE checks its line and FENCE keeps the stream from issuing (`issuing_of_fence`). -/
theorem putDoneAndFence : Obligations.PutDoneAndFence := by
  intro s g obs h u hs hm _
  refine ⟨fun src dst rack gr hp hrack hgr hwf => ⟨fun hno => ?_, fun x hmem hne hroute hx hroom =>
    exec_put_sends hs hp hrack hgr hwf rfl hmem hne hroute hx hroom⟩, fun hi hpar => ?_, fun hi hpar => ?_⟩
  · have hu := passes_saw hp
    obtain ⟨hstate, hcode, -, hab⟩ := withArgs_latched hs hp
      (putBody_refused (hu.dev ▸ hrack) (hu.rally h.p ▸ hgr) (hu.routeOf ▸ hno)) .refl (passes_memOk hm hp) (fun _ => id)
      (show (4 : Nat) < 256 by decide)
    exact ⟨_, rfl, hstate, hcode, hab⟩
  · intro pa
    have hlatch {e : HwErr} (he : e.code < 256) :
        ((s.latch h.p e).part h.p).state = 4 ∧ ((s.latch h.p e).part h.p).ffCode = e.code := by
      obtain ⟨hstate, hcode, -⟩ := latch_of_issuing hi rfl rfl (memOk_iff.mp hm) he
      exact ⟨hstate, hcode⟩
    refine ⟨fun h64 hsize hslot => ⟨_, exec_done hi hpar, ?_⟩, fun h64 => ⟨_, exec_done hi hpar, ?_⟩,
      fun h64 hslot => ⟨_, exec_done hi hpar, ?_⟩⟩
    · rw [if_neg (not_not.mpr h64), if_neg (not_lt.mpr hsize), if_neg (not_le.mpr hslot)]
      exact issueCommon_of_issuing hs (by decide) (by decide) hi
    · rw [if_pos h64]
      exact hlatch (show (3 : Nat) < 256 by decide)
    · rw [if_neg (not_not.mpr h64), if_pos hslot]
      split
      · exact hlatch (show (4 : Nat) < 256 by decide)
      · exact hlatch (show (4 : Nat) < 256 by decide)
  · obtain ⟨hissued, hwrote⟩ := issueCommon_of_issuing (w := .earlier) hs (by decide) (by decide) hi
    refine ⟨_, exec_fence hi hpar, hissued, hwrote, fun op => ?_⟩
    obtain ⟨-, hflight, -⟩ := hissued
    exact issuing_of_fence (f := h.flight (s.str g 4) .earlier) (by simp [hflight]) (issuing_op hi)

end Sys2Proof.Machine

namespace Sys2Proof.Machine

/-! # Bytes written in a row, lanes of registers (R70, R71) -/

section

variable {a x n r i : Nat} {b : List Byte} {m src : Mem} {wide : Bool} {vals : List Nat} {f : Fmt} {c : Nat}

theorem cellsAt_cons {d : Byte} : cellsAt a (d :: b) = (a, d) :: cellsAt (a + 1) b := by
  simp only [cellsAt, List.zipIdx_cons', List.map_cons, List.map_map]
  congr 1
  exact List.map_congr_left fun e _ => Prod.ext (Nat.add_right_comm a 1 e.2 ▸ rfl) rfl

theorem cellsAt_append {b' : List Byte} : cellsAt a (b ++ b') = cellsAt a b ++ cellsAt (a + b.length) b' := by
  induction b generalizing a with
  | nil => rfl
  | cons d b ih =>
    rw [List.cons_append, cellsAt_cons, ih, cellsAt_cons, List.cons_append, List.length_cons, Nat.add_assoc, Nat.add_comm 1]

theorem lastAt_cellsAt : lastAt (cellsAt a b) x = if a ≤ x then b[x - a]? else none := by
  induction b generalizing a with
  | nil => simp [cellsAt, lastAt]
  | cons d b ih =>
    have hone : lastAt [(a, d)] x = if a = x then some d else none := by
      by_cases h : a = x <;> simp [lastAt, h]
    rw [cellsAt_cons, ← List.singleton_append, lastAt_append, ih, hone]
    by_cases h1 : a + 1 ≤ x
    · rw [if_pos h1, if_neg (by omega), if_pos (by omega), Option.or_none, show x - a = (x - (a + 1)) + 1 by omega,
        List.getElem?_cons_succ]
    · rw [if_neg h1, Option.none_or]
      by_cases h2 : a = x
      · simp [h2]
      · rw [if_neg h2, if_neg (by omega)]

/-- Bytes written in a row. -/
theorem spGet_writeRow (hm : Memory.wf m = true) :
    spGet 0 ((cellsAt a b).foldl (fun m c => spSet 0 m c.1 c.2) m) x =
      if a ≤ x ∧ x < a + b.length then b.getD (x - a) 0 else spGet 0 m x := by
  rw [writes_get _ _ _ hm, lastAt_cellsAt]
  by_cases hx : a ≤ x
  · by_cases hlt : x < a + b.length
    · rw [if_pos hx, if_pos ⟨hx, hlt⟩, List.getD_eq_getElem?_getD, List.getElem?_eq_getElem (by omega)]
      rfl
    · rw [if_pos hx, if_neg (by omega), List.getElem?_eq_none (by omega)]
      rfl
  · rw [if_neg hx, if_neg (by omega)]
    rfl

theorem copyBytes_eq {d : Mem} : copyBytes src d a x n =
    (cellsAt x ((List.range n).map fun k => spGet 0 src (a + k))).foldl (fun m c => spSet 0 m c.1 c.2) d := by
  rw [cellsAt, zipIdx_map_range, List.map_map, List.foldl_map]
  rfl

theorem spGet_copyBytes {d : Mem} {y : Nat} (hd : Memory.wf d = true) :
    spGet 0 (copyBytes src d a x n) y = if x ≤ y ∧ y < x + n then spGet 0 src (a + (y - x)) else spGet 0 d y := by
  rw [copyBytes_eq, spGet_writeRow hd, List.length_map, List.length_range]
  split
  next h => rw [List.getD_eq_getElem _ _ (by simp; omega), List.getElem_map, List.getElem_range]
  next => rfl

theorem leBytes_length {v : Nat} : (leBytes n v).length = n := by
  induction n generalizing v with
  | zero => rfl
  | succ n ih => rw [leBytes, List.length_cons, ih]

theorem leNat_leBytes {v : Nat} : leNat (leBytes n v) = v % 256 ^ n := by
  induction n generalizing v with
  | zero => simp [leBytes, leNat, Nat.mod_one]
  | succ n ih =>
    rw [leBytes, leNat, ih, Nat.pow_succ', Nat.mod_mul, BitVec.toNat_ofNat]

theorem leNat_lt : leNat b < 256 ^ b.length := by
  induction b with
  | nil => simp [leNat]
  | cons d b ih =>
    have hd := d.isLt
    rw [leNat, List.length_cons, Nat.pow_succ']
    omega

/-- Bytes of a lane (R70). -/
def laneBytes (wide : Bool) : Nat := if wide then 4 else 2

theorem laneAt_eq : laneAt wide r i = 1024 * r + laneBytes wide * i := by
  cases wide <;> rfl

/-- The bytes of lanes in a row. -/
def lanesOf (wide : Bool) (vals : List Nat) : List Byte := vals.flatMap (leBytes (laneBytes wide))

theorem lanesOf_length : (lanesOf wide vals).length = laneBytes wide * vals.length := by
  rw [lanesOf, List.length_flatMap, List.map_congr_left fun _ _ => leBytes_length, List.map_const', List.sum_replicate,
    smul_eq_mul, Nat.mul_comm]

/-- Lanes are written in a row. -/
theorem writeLanes_eq : writeLanes m wide r vals =
    (cellsAt (1024 * r) (lanesOf wide vals)).foldl (fun m c => spSet 0 m c.1 c.2) m := by
  have hrow (k : Nat) : (vals.zipIdx k).flatMap (fun v => cellsAt (laneAt wide r v.2) (leBytes (laneBytes wide) v.1)) =
      cellsAt (1024 * r + laneBytes wide * k) (lanesOf wide vals) := by
    induction vals generalizing k with
    | nil => rfl
    | cons v vals ih =>
      have hv : lanesOf wide (v :: vals) = leBytes (laneBytes wide) v ++ lanesOf wide vals := rfl
      rw [List.zipIdx_cons, List.flatMap_cons, ih, laneAt_eq, hv, cellsAt_append, leBytes_length, Nat.mul_succ, Nat.add_assoc]
  rw [← Nat.add_zero (1024 * r), ← Nat.mul_zero (laneBytes wide), ← hrow, List.foldl_flatMap]
  rfl

/-- What lies in no lane that is written stays. -/
theorem spGet_writeLanes_of_ne (hm : Memory.wf m = true) (hn : laneBytes wide * vals.length ≤ 1024) (hx : x / 1024 ≠ r) :
    spGet 0 (writeLanes m wide r vals) x = spGet 0 m x := by
  rw [writeLanes_eq, spGet_writeRow hm, lanesOf_length, if_neg (by omega)]

/-- The bytes of one of several lanes. -/
theorem lanesOf_getD {k : Nat} (hi : i < vals.length) (hk : k < laneBytes wide) :
    (lanesOf wide vals).getD (laneBytes wide * i + k) 0 = (leBytes (laneBytes wide) (vals.getD i 0)).getD k 0 := by
  induction vals generalizing i with
  | nil => simp at hi
  | cons v vals ih =>
    rw [lanesOf, List.flatMap_cons]
    cases i with
    | zero => rw [List.getD_append _ _ _ _ (by rw [leBytes_length]; simpa using hk)]; simp
    | succ i =>
      rw [List.getD_append_right _ _ _ _ (by rw [leBytes_length, Nat.mul_succ]; omega), leBytes_length, Nat.mul_succ,
        show laneBytes wide * i + laneBytes wide + k - laneBytes wide = laneBytes wide * i + k by omega, List.getD_cons_succ]
      exact ih (by simpa using hi)

/-- A lane that is written holds as many bits of its value as it has. -/
theorem readLane_writeLanes (hm : Memory.wf m = true) (hi : i < vals.length) :
    readLane (writeLanes m wide r vals) wide r i = vals.getD i 0 % 256 ^ laneBytes wide := by
  have hbytes : (List.range (laneBytes wide)).map (fun k => spGet 0 (writeLanes m wide r vals) (laneAt wide r i + k)) =
      leBytes (laneBytes wide) (vals.getD i 0) := by
    refine List.ext_getElem (by simp [leBytes_length]) fun k hk hk' => ?_
    have hk : k < laneBytes wide := by simpa using hk
    have hle : laneBytes wide * (i + 1) ≤ laneBytes wide * vals.length := Nat.mul_le_mul_left _ hi
    rw [Nat.mul_succ] at hle
    rw [List.getElem_map, List.getElem_range, writeLanes_eq, spGet_writeRow hm, laneAt_eq, lanesOf_length,
      if_pos ⟨by omega, by omega⟩, show 1024 * r + laneBytes wide * i + k - 1024 * r = laneBytes wide * i + k by omega,
      lanesOf_getD hi hk, List.getD_eq_getElem _ _ hk']
  rw [← leNat_leBytes, ← hbytes]
  rfl

theorem laneOf_lt (hc : c < 2 ^ f.width) : laneOf f c < 256 ^ laneBytes f.wide := by
  have h8 : toCode 16 (signed 8 c) < 2 ^ 16 := by
    have := Int.emod_lt_of_pos (signed 8 c) (show (0 : Int) < 2 ^ 16 by decide)
    unfold toCode
    omega
  cases f <;> simp [laneOf, laneBytes, Fmt.wide, Fmt.width] at * <;> omega

/-- The lanes of a register (R70). -/
def laneCount (wide : Bool) : Nat := if wide then 256 else 512

theorem laneBytes_mul_le (hn : n ≤ laneCount wide) : laneBytes wide * n ≤ 1024 := by
  cases wide
  · simp only [laneBytes, laneCount, Bool.false_eq_true, if_false] at *; omega
  · simp only [laneBytes, laneCount, if_true] at *; omega

/-- A register filled with one code holds it in every lane (R212). -/
theorem readLane_fillReg (hm : Memory.wf m = true) (hc : c < 2 ^ f.width) (hi : i < laneCount f.wide) :
    readLane (fillReg m f r c) f.wide r i = laneOf f c := by
  have hi' : i < (List.replicate (laneCount f.wide) (laneOf f c)).length := by rwa [List.length_replicate]
  refine (readLane_writeLanes hm hi').trans ?_
  rw [List.getD_replicate _ hi, Nat.mod_eq_of_lt (laneOf_lt hc)]

theorem spGet_fillReg_of_ne (hm : Memory.wf m = true) (hx : x / 1024 ≠ r) :
    spGet 0 (fillReg m f r c) x = spGet 0 m x := by
  refine spGet_writeLanes_of_ne hm ?_ hx
  rw [List.length_replicate]
  exact laneBytes_mul_le le_rfl

end

end Sys2Proof.Machine

namespace Sys2Proof.Machine

/-! # What an operation of the vector engine moves and what it leaves

The vector engine writes registers and its own scratchpad, counts and draws: `State.VMoved` says so, once. -/

section

variable {s t u v : State} {h : Head} {g : Clu} {op : Op} {obs : HwObs} {srcs dsts : LW → List Arg} {W n : Nat} {c : Bool}
  {w : Waits}

/-- `v` is `u` but for the memories and the tally sets of cluster g and the draws of its vector engine. -/
structure State.VMoved (v u : State) (g : Nat) : Prop where
  own : v.clu g = { u.clu g with
    streams := (v.clu g).streams, tally := (v.clu g).tally, sp := (v.clu g).sp, vr := (v.clu g).vr }
  str : v.str g 1 = { u.str g 1 with draws := (v.str g 1).draws }
  strNe : ∀ j, j ≠ 1 → v.str g j = u.str g j
  cluNe : ∀ c, c ≠ g → v.clu c = u.clu c
  rest : { v with cl := u.cl } = u

theorem State.VMoved.refl : u.VMoved u g := ⟨rfl, rfl, fun _ _ => rfl, fun _ _ => rfl, rfl⟩

theorem State.VMoved.trans (ht : t.VMoved v g) (hv : v.VMoved u g) : t.VMoved u g where
  own := by rw [ht.own, hv.own]
  str := by rw [ht.str, hv.str]
  strNe j hj := (ht.strNe j hj).trans (hv.strNe j hj)
  cluNe c hc := (ht.cluNe c hc).trans (hv.cluNe c hc)
  rest := (congrArg (fun x : State => { x with cl := u.cl }) ht.rest).trans hv.rest

/-- A change of memories and tally sets of the own cluster. -/
theorem updClu_vmoved {f : Cluster → Cluster} (hu : u.sized)
    (hf : ∀ k, f k = { k with tally := (f k).tally, sp := (f k).sp, vr := (f k).vr }) : (u.updClu g f).VMoved u g := by
  have hg : (u.updClu g f).clu g = f (u.clu g) := clu_updClu_same u g f (cl_length hu g.isLt)
  have hstr (j : Nat) : (u.updClu g f).str g j = u.str g j := by rw [State.str, hg, hf]; rfl
  exact ⟨by rw [hg, hf], by rw [hstr], fun j _ => hstr j, fun c hc => clu_updClu_ne u g c f hc.symm, rfl⟩

theorem count_vmoved {set : Nat} {cs : List Cnt} (hu : u.sized) : (u.count g set cs).VMoved u g :=
  updClu_vmoved hu fun _ => rfl

theorem draws_vmoved {p : Nat} (hu : u.sized) : (u.draws p g 1 W n c).2.VMoved u g := by
  have hm : (u.draws p g 1 W n c).2.Moved u g 1 :=
    draws_moved (cl_length hu g.isLt) (by rw [streams_length hu g.isLt]; decide)
  have hrest : { (u.draws p g 1 W n c).2 with cl := u.cl } = u ∧ ∀ c', c' ≠ g.val → (u.draws p g 1 W n c).2.clu c' = u.clu c' := by
    unfold State.draws
    split
    · split
      · exact ⟨rfl, fun c' hc => clu_updStr_ne u g c' 1 _ hc.symm⟩
      · exact ⟨rfl, fun _ _ => rfl⟩
    · exact ⟨rfl, fun _ _ => rfl⟩
  exact ⟨by rw [hm.own], hm.str, hm.strNe, hrest.2, hrest.1⟩

theorem State.Issued.of_vmoved (ht : t.Issued v h g.val 1 w) (hv : v.VMoved u g) : t.Issued u h g.val 1 w := by
  obtain ⟨hissued, hflight, ha, hne, hreg, htok, hw, hq, hic, hcl, hpart, hparts, hrest⟩ := ht
  have hvparts : v.parts = u.parts := by
    have h := congrArg State.parts hv.rest
    exact h
  have hp (r : Nat) : v.part r = u.part r := by rw [State.part, hvparts, State.part]
  refine ⟨by rw [hissued, hv.str], by rw [hflight, hv.str]; rfl, by rw [ha, hv.str],
    fun j hj => (hne j hj).trans (hv.strNe j hj), by rw [hreg, hv.own]; rfl, by rw [htok, hv.own], by rw [hw, hv.own],
    by rw [hq, hv.own], by rw [hic, hv.own], fun c hc => by rw [hcl c hc, hv.cluNe c hc], by rw [hpart, hp],
    fun r hr => (hparts r hr).trans (hp r), ?_⟩
  have hrest' := congrArg (fun x : State => { x with
    cl := u.cl, parts := u.parts, dram := u.dram, poison := u.poison, chans := u.chans, free := u.free, undo := u.undo }) hrest
  exact hrest'.trans (congrArg (fun x : State => { x with
    parts := u.parts, dram := u.dram, poison := u.poison, chans := u.chans, free := u.free, undo := u.undo }) hv.rest)

/-! ## What passes its checks (R150) -/

/-- The state after an operation's sources are read, seen from the state at its issue. -/
theorem passesRegions_elim (hp : s.passesRegions g op obs srcs dsts = some (h, u)) :
    s.issuing g 1 op = some h ∧ u = (s.spSeen [g.val] obs).suspect h.p g obs.suspect := by
  unfold State.passesRegions at hp
  split at hp
  · cases hp
  next k hk =>
    split at hp
    · simp only [Option.some.injEq, Prod.mk.injEq] at hp
      obtain ⟨rfl, rfl⟩ := hp
      exact ⟨hk, rfl⟩
    · cases hp

theorem passesRegions_sized (hs : s.sized) (hp : s.passesRegions g op obs srcs dsts = some (h, u)) : u.sized := by
  rw [(passesRegions_elim hp).2]
  exact suspect_sized (spSeen_sized hs)

theorem passesRegions_ok (hm : s.memOk = true) (hp : s.passesRegions g op obs srcs dsts = some (h, u)) : u.mems.Ok := by
  rw [(passesRegions_elim hp).2, suspect_mems, spSeen_mems]
  exact memOk_iff.mp hm

/-- An operation of the vector engine that has moved its data issues: `v` is the state then. -/
theorem withRegions_issued {body : Head → State → State} (hop : op ≠ .sync) (hp : s.passesRegions g op obs srcs dsts = some (h, u))
    (hb : body h u = issueCommon v h g 1 .nothing) (hv : v.sized) (hm : v.VMoved u g) :
    let t := withRegions s g op obs srcs dsts body
    t.Issued u h g 1 .nothing ∧ t.dram = u.dram ∧ (∀ j, (t.clu j).sp = (v.clu j).sp) ∧ (t.clu g).vr = (v.clu g).vr := by
  intro t
  have ht : t = (issueCommon v h g 1 .nothing).remember u h.p g 1 ((dsts h.lw).map Arg.full) :=
    hb ▸ withRegions_passes s g op obs srcs dsts body h u hp
  have hissue : (issueCommon v h g 1 .nothing).Issued v h g 1 .nothing :=
    issueCommon_issued (issuing_op (passesRegions_elim hp).1 ▸ hop) (cl_length hv g.isLt)
      (by rw [streams_length hv g.isLt]; decide)
  have hmems : t.mems = v.mems := by rw [ht, remember_mems, issueCommon_mems]
  have hdram : v.dram = u.dram := by
    have hrest := congrArg State.dram hm.rest
    exact hrest
  refine ⟨?_, (dram_of_mems hmems).trans hdram, clu_sp_of_mems hmems, clu_vr_of_mems hmems g⟩
  rw [ht]
  exact (hissue.of_vmoved hm).remember

theorem clu_vr_wf (hok : t.mems.Ok) (c : Nat) : Memory.wf (t.clu c).vr = true := by
  rw [State.clu, tget]
  by_cases hc : c < t.cl.length
  · rw [List.getD_eq_getElem _ _ hc]
    exact ((ok_iff.mp hok).2.2 _ (List.getElem_mem _)).2
  · rw [List.getD_eq_default _ _ (not_lt.mp hc)]
    rfl

/-! ## CONST (R212) -/

theorem constCode_lt {x : StreamSt} {lw : LW} {f : Fmt} : constCode x lw f < 2 ^ f.width :=
  Nat.mod_lt _ (Nat.two_pow_pos _)

/-- What a CONST does to its cluster. -/
def Head.constClu (h : Head) (f : Fmt) (k : Cluster) : Cluster :=
  { k with vr := fillReg k.vr f (h.lw.f 0 31 27) (constCode (k.str 1) h.lw f) }

theorem constBody_eq {f : Fmt} (hf : Fmt.ofCode (h.lw.f 0 26 23) = some f) :
    constBody g h u = issueCommon (u.updClu g (h.constClu f)) h g 1 .nothing := by
  simp only [constBody, hf]
  rfl

/-- An operation of the vector engine that acts on its cluster at once issues. -/
theorem withRegions_updClu {body : Head → State → State} {f : Cluster → Cluster} (hop : op ≠ .sync) (hs : s.sized)
    (hp : s.passesRegions g op obs srcs dsts = some (h, u)) (hb : body h u = issueCommon (u.updClu g f) h g 1 .nothing)
    (hf : ∀ k, f k = { k with sp := (f k).sp, vr := (f k).vr }) :
    let t := withRegions s g op obs srcs dsts body
    t.Issued u h g 1 .nothing ∧ t.dram = u.dram ∧ (∀ j, j ≠ g.val → (t.clu j).sp = (u.clu j).sp) ∧
      (t.clu g).sp = (f (u.clu g)).sp ∧ (t.clu g).vr = (f (u.clu g)).vr := by
  have hu := passesRegions_sized hs hp
  have hv : (u.updClu g f).sized := updClu_sized hu fun {k} hk => by
    rw [hf]
    exact hk
  obtain ⟨hissued, hdram, hsp, hvr⟩ :=
    withRegions_issued hop hp hb hv (updClu_vmoved hu fun k => by rw [hf])
  have hg := clu_updClu_same u g f (cl_length hu g.isLt)
  exact ⟨hissued, hdram, fun j hj => (hsp j).trans (by rw [clu_updClu_ne u g j f hj.symm]), by rw [hsp, hg], by rw [hvr, hg]⟩

/-- What a CONST leaves. -/
theorem exec_const {f : Fmt} (hs : s.sized) (hm : s.memOk = true)
    (hp : s.passesRegions g .const obs (fun _ => []) (fun _ => []) = some (h, u)) (hf : Fmt.ofCode (h.lw.f 0 26 23) = some f) :
    let r := h.lw.f 0 31 27
    ∃ t, exec (.const g obs) s = .next t ∧ t.Issued u h g 1 .nothing ∧ t.dram = u.dram ∧ (∀ j, (t.clu j).sp = (u.clu j).sp) ∧
      (∀ i < laneCount f.wide, readLane (t.clu g).vr f.wide r i = laneOf f (constCode (u.str g 1) h.lw f)) ∧
      ∀ x, x / 1024 ≠ r → spGet 0 (t.clu g).vr x = spGet 0 (u.clu g).vr x := by
  intro r
  have hwf := clu_vr_wf (passesRegions_ok hm hp) g
  obtain ⟨hissued, hdram, hne, hsp, hvr⟩ :=
    withRegions_updClu (body := constBody g) (by decide) hs hp (constBody_eq hf) fun _ => rfl
  refine ⟨_, rfl, hissued, hdram, fun j => ?_, fun i hi => ?_, fun x hx => ?_⟩
  · by_cases hj : j = g.val
    · rw [hj]
      exact hsp
    · exact hne j hj
  · rw [hvr]
    exact readLane_fillReg hwf constCode_lt hi
  · rw [hvr]
    exact spGet_fillReg_of_ne hwf hx

/-! ## VMOV (R212) -/

/-- What a VMOV does to its cluster. -/
def LW.vmovClu (w : LW) (k : Cluster) : Cluster :=
  match w.f 0 31 30 with
  | 0 => { k with vr := copyBytes k.sp k.vr (w.regionAt 10 (w.f 0 20 11)) (1024 * w.f 0 29 25) 1024 }
  | 1 => { k with sp := copyBytes k.vr k.sp (1024 * w.f 0 29 25) (w.regionAt 12 (w.f 0 20 11)) 1024 }
  | _ =>
    match Fmt.ofCode (w.f 0 24 21) with
    | some f => { k with vr := fillReg k.vr f (w.f 0 29 25) ((streamEls k.sp (vmovEl w) 0 1).headD 0) }
    | none => k

theorem vmovBody_eq : vmovBody g h u = issueCommon (u.updClu g h.lw.vmovClu) h g 1 .nothing := rfl

theorem vmovClu_moves (lw : LW) (k : Cluster) : ∃ sp vr, lw.vmovClu k = { k with sp := sp, vr := vr } := by
  unfold LW.vmovClu
  split
  · exact ⟨_, _, rfl⟩
  · exact ⟨_, _, rfl⟩
  · split
    · exact ⟨_, _, rfl⟩
    · exact ⟨_, _, rfl⟩

theorem vmovClu_frame {lw : LW} (k : Cluster) : lw.vmovClu k = { k with sp := (lw.vmovClu k).sp, vr := (lw.vmovClu k).vr } := by
  obtain ⟨sp, vr, h⟩ := vmovClu_moves lw k
  rw [h]

variable {lw : LW} {k : Cluster}

theorem vmovClu_in (hmode : lw.f 0 31 30 = 0) : lw.vmovClu k =
    { k with vr := copyBytes k.sp k.vr (lw.regionAt 10 (lw.f 0 20 11)) (1024 * lw.f 0 29 25) 1024 } := by
  simp only [LW.vmovClu, hmode]

theorem vmovClu_out (hmode : lw.f 0 31 30 = 1) : lw.vmovClu k =
    { k with sp := copyBytes k.vr k.sp (1024 * lw.f 0 29 25) (lw.regionAt 12 (lw.f 0 20 11)) 1024 } := by
  simp only [LW.vmovClu, hmode]

/-- The code that a broadcasting VMOV reads. -/
def LW.vmovCode (w : LW) (sp : Mem) (f : Fmt) : Nat :=
  leNat ((List.range f.bytes).map fun k => spGet 0 sp (w.regionAt 10 (w.f 0 20 11) + w.f 0 10 0 * f.bytes + k))

theorem vmovClu_fill {f : Fmt} (hmode : 2 ≤ lw.f 0 31 30) (hf : Fmt.ofCode (lw.f 0 24 21) = some f) :
    lw.vmovClu k = { k with vr := fillReg k.vr f (lw.f 0 29 25) (lw.vmovCode k.sp f) } := by
  have hbw : (vmovEl lw).d.bw = f.bytes := by simp [vmovEl, runArg, Desc.bw, Desc.format, hf]
  have hcode : (streamEls k.sp (vmovEl lw) 0 1).headD 0 = lw.vmovCode k.sp f := by
    rw [streamEls, hbw]
    simp [LW.vmovCode, vmovEl, runArg, hf]
  unfold LW.vmovClu
  split
  next h0 => omega
  next h1 => omega
  next => simp only [hf, hcode]

theorem vmovCode_lt {sp : Mem} {f : Fmt} (hf : f ≠ .ir4) : lw.vmovCode sp f < 2 ^ f.width := by
  have hlt := leNat_lt (b := (List.range f.bytes).map fun k =>
    spGet 0 sp (lw.regionAt 10 (lw.f 0 20 11) + lw.f 0 10 0 * f.bytes + k))
  rw [List.length_map, List.length_range] at hlt
  have hw : 256 ^ f.bytes = 2 ^ f.width := by cases f <;> simp [Fmt.bytes, Fmt.width] at hf ⊢
  exact hw ▸ hlt

/-- What a VMOV leaves. -/
theorem exec_vmov (hs : s.sized) (hm : s.memOk = true) (hp : s.passesRegions g .vmov obs vmovSrcs vmovDsts = some (h, u)) :
    let r := h.lw.f 0 29 25
    let from_ := h.lw.regionAt 10 (h.lw.f 0 20 11)
    let to_ := h.lw.regionAt 12 (h.lw.f 0 20 11)
    ∃ t, exec (.vmov g obs) s = .next t ∧ t.Issued u h g 1 .nothing ∧ t.dram = u.dram ∧
      (∀ j, j ≠ g.val → (t.clu j).sp = (u.clu j).sp) ∧
      (h.lw.f 0 31 30 = 0 → (t.clu g).sp = (u.clu g).sp ∧ ∀ x, spGet 0 (t.clu g).vr x =
        if x / 1024 = r then spGet 0 (u.clu g).sp (from_ + x % 1024) else spGet 0 (u.clu g).vr x) ∧
      (h.lw.f 0 31 30 = 1 → (t.clu g).vr = (u.clu g).vr ∧ ∀ x, spGet 0 (t.clu g).sp x =
        if to_ ≤ x ∧ x < to_ + 1024 then spGet 0 (u.clu g).vr (1024 * r + (x - to_)) else spGet 0 (u.clu g).sp x) ∧
      (2 ≤ h.lw.f 0 31 30 → ∀ f, Fmt.ofCode (h.lw.f 0 24 21) = some f → f ≠ .ir4 → (t.clu g).sp = (u.clu g).sp ∧
        (∀ i < laneCount f.wide, readLane (t.clu g).vr f.wide r i = laneOf f (h.lw.vmovCode (u.clu g).sp f)) ∧
        ∀ x, x / 1024 ≠ r → spGet 0 (t.clu g).vr x = spGet 0 (u.clu g).vr x) := by
  intro r from_ to_
  have hvwf := clu_vr_wf (passesRegions_ok hm hp) g
  have hswf := clu_sp_wf (passesRegions_ok hm hp) g
  obtain ⟨hissued, hdram, hne, hsp, hvr⟩ :=
    withRegions_updClu (body := vmovBody g) (by decide) hs hp vmovBody_eq vmovClu_frame
  refine ⟨_, rfl, hissued, hdram, hne, fun hmode => ?_, fun hmode => ?_, fun hmode f hf hir => ?_⟩
  · rw [vmovClu_in hmode] at hsp hvr
    refine ⟨hsp, fun x => ?_⟩
    rw [hvr, spGet_copyBytes hvwf]
    by_cases hx : x / 1024 = r
    · rw [if_pos hx, if_pos (by omega), show x - 1024 * h.lw.f 0 29 25 = x % 1024 by omega]
    · rw [if_neg hx, if_neg (by omega)]
  · rw [vmovClu_out hmode] at hsp hvr
    refine ⟨hvr, fun x => ?_⟩
    rw [hsp, spGet_copyBytes hswf]
  · rw [vmovClu_fill hmode hf] at hsp hvr
    refine ⟨hsp, fun i hi => ?_, fun x hx => ?_⟩
    · rw [hvr]
      exact readLane_fillReg hvwf (vmovCode_lt hir) hi
    · rw [hvr]
      exact spGet_fillReg_of_ne hvwf hx

end

end Sys2Proof.Machine

namespace Sys2Proof.Machine

/-! # CHAIN (R206, R207, R210) -/

section

variable {s u v : State} {h : Head} {g : Clu} {obs : HwObs} {w n j x : Nat} {vr : Mem} {av bv : List Nat} {c : PassSt} {q : Uop}
  {f : Fmt} {lw : LW}

theorem uopOut_wide {k : Nat} : (uopOut k f).wide = f.wide := by
  unfold uopOut
  split
  · cases f <;> rfl
  · rfl

/-- A pass is no wider than the registers of its micro-operations hold lanes (R206). -/
theorem chainWidth_le (hq : q ∈ lw.uops) (hu : q.u ≠ 0x3F) (hf : Fmt.ofCode q.fmt = some f) :
    chainWidth lw ≤ laneCount f.wide := by
  cases hwide : f.wide
  · unfold chainWidth laneCount
    dsimp only
    split <;> decide
  · have hany : (lw.uops.filter fun q => q.u != 0x3F).any (fun q => ((Fmt.ofCode q.fmt).map Fmt.wide).getD false ||
        (q.u == 0x20 && ((Fmt.ofCode (q.b % 16)).map Fmt.wide).getD false)) = true :=
      List.any_eq_true.mpr ⟨q, List.mem_filter.mpr ⟨hq, bne_iff_ne.mpr hu⟩, by simp [hf, hwide]⟩
    simp [chainWidth, hany, laneCount]

/-! ## One micro-operation -/

/-- A pass as it begins. -/
def Head.pass (h : Head) (s : State) (n : Nat) : PassSt :=
  { s := s, x := h.run.actx, wr := [], cnts := List.replicate n {} }

/-- Where a pass that began at `v` stands: it has drawn, and what it is to write lies in registers that micro-operations of the
long word name. -/
structure PassSt.Fits (c : PassSt) (lw : LW) (g : Nat) (v : State) : Prop where
  sized : c.s.sized = true
  mems : c.s.mems = v.mems
  moved : c.s.VMoved v g
  wr : ∀ e ∈ c.wr, (∃ q ∈ lw.uops, q.u ≠ 0x3F ∧ q.dst = e.1) ∧ laneBytes e.2.1.wide * e.2.2.length ≤ 1024

theorem microStep_fits (hn : n ≤ chainWidth h.lw) (hq : q ∈ h.lw.uops) (hc : c.Fits h.lw g v) :
    (microStep h g w n vr av bv c q).Fits h.lw g v := by
  refine ⟨microStep_sized hc.sized, microStep_mems.trans hc.mems, ?_, ?_⟩
  · unfold microStep
    split
    · exact hc.moved
    · split
      · exact hc.moved
      · exact (draws_vmoved hc.sized).trans hc.moved
  · unfold microStep
    split
    · exact hc.wr
    next hu =>
      split
      · exact hc.wr
      next f hf =>
        refine List.forall_mem_cons.mpr ⟨⟨⟨q, hq, hu, rfl⟩, ?_⟩, hc.wr⟩
        rw [uopOut_wide, List.length_map, List.length_map, List.length_range]
        exact laneBytes_mul_le (hn.trans (chainWidth_le hq hu hf))

/-- The micro-operations of a pass. -/
theorem microSteps_fits (hs : s.sized) (hn : n ≤ chainWidth h.lw) :
    (h.lw.uops.foldl (microStep h g w n vr av bv) (h.pass s n)).Fits h.lw g s :=
  List.foldlRecOn (motive := fun c => PassSt.Fits c h.lw g s) h.lw.uops (microStep h g w n vr av bv)
    ⟨hs, rfl, .refl, fun _ he => absurd he List.not_mem_nil⟩ fun _ hc _ hq => microStep_fits hn hq hc

/-! ## One pass -/

/-- The registers after a pass. -/
def PassSt.regs (c : PassSt) (vr : Mem) : Mem := c.wr.reverse.foldl (fun m e => writeLanes m e.2.1.wide e.1 e.2.2) vr

theorem spGet_regs_of_ne (hc : c.Fits lw g v) (hm : Memory.wf vr = true) (hx : ∀ q ∈ lw.uops, q.u ≠ 0x3F → q.dst ≠ x / 1024) :
    spGet 0 (c.regs vr) x = spGet 0 vr x := by
  have hkeep : Memory.wf (c.regs vr) = true ∧ spGet 0 (c.regs vr) x = spGet 0 vr x := by
    refine List.foldlRecOn (motive := fun m => Memory.wf m = true ∧ spGet 0 m x = spGet 0 vr x) _ _ ⟨hm, rfl⟩
      fun m hm e he => ?_
    obtain ⟨⟨q, hq, hu, hdst⟩, hlen⟩ := hc.wr e (List.mem_reverse.mp he)
    exact ⟨writeLanes_wf hm.1, (spGet_writeLanes_of_ne hm.1 hlen (hdst ▸ (hx q hq hu).symm)).trans hm.2⟩
  exact hkeep.2

/-- What the conversion of a result to the scratchpad leaves: it draws, writes and counts. -/
theorem drawnCells_vmoved {p set : Nat} {b : Bool} {cs : List Cnt} {ds : List Nat} {F : Mem → Mem} (hs : s.sized)
    (hd : s.draws p g 1 w n b = (ds, v)) :
    let t := (v.updClu g fun k => { k with sp := F k.sp }).count g set cs
    t.VMoved s g ∧ (t.clu g).vr = (s.clu g).vr := by
  intro t
  obtain rfl : (s.draws p g 1 w n b).2 = v := congrArg Prod.snd hd
  have hv : (s.draws p g 1 w n b).2.sized := draws_sized hs
  have hf := updClu_vmoved (g := g) (f := fun k => { k with sp := F k.sp }) hv fun _ => rfl
  have hfs := updClu_sized (g := g) (f := fun k => { k with sp := F k.sp }) hv fun hk => hk
  refine ⟨(count_vmoved hfs).trans (hf.trans (draws_vmoved hs)), ?_⟩
  rw [clu_vr_of_mems count_mems, clu_updClu_same _ _ _ (cl_length hv g.isLt)]
  exact clu_vr_of_mems draws_mems g

/-- What a pass leaves: it writes the registers of its micro-operations, and the scratchpad if it has a destination there. -/
theorem chainPass_elim (hs : s.sized) :
    ∃ av bv,
      let n := min w (h.lw.f 0 19 0 - j * w)
      let c := h.lw.uops.foldl (microStep h g w n (s.clu g).vr av bv) (h.pass s n)
      let t := chainPass h g w s j
      t.VMoved c.s g ∧ (t.clu g).vr = c.regs (c.s.clu g).vr ∧ (h.lw.has 12 = false → (t.clu g).sp = (c.s.clu g).sp) := by
  obtain ⟨t, ht⟩ : ∃ t, t = chainPass h g w s j := ⟨_, rfl⟩
  rw [← ht]
  unfold chainPass at ht
  extract_lets lw n k els av bv c r at ht
  have hc : c.s.sized := foldl_keeps (fun c : PassSt => c.s.sized = true) _ _ _ hs fun _ _ => microStep_sized
  have hr : r.VMoved c.s g := updClu_vmoved hc fun _ => rfl
  have hrs : r.sized := updClu_sized hc fun hk => hk
  have hrg : r.clu g = { c.s.clu g with vr := c.regs (c.s.clu g).vr } := clu_updClu_same _ _ _ (cl_length hc g.isLt)
  refine ⟨av, bv, ?_⟩
  change t.VMoved c.s g ∧ (t.clu g).vr = c.regs (c.s.clu g).vr ∧ (lw.has 12 = false → (t.clu g).sp = (c.s.clu g).sp)
  clear_value r c
  split at ht
  · rw [ht]
    refine ⟨(count_vmoved hrs).trans hr, ?_, fun _ => ?_⟩
    · rw [clu_vr_of_mems count_mems, hrg]
    · rw [clu_sp_of_mems count_mems, hrg]
  next fd hfd =>
    have hsp : lw.has 12 ≠ false := fun h12 => by simp [h12] at hfd
    extract_lets sf at ht
    split at ht
    next ds r' hdraws =>
      extract_lets res cells at ht
      obtain ⟨hcells, hvr⟩ := drawnCells_vmoved (F := fun m => cells.foldl (fun m c => spSet 0 m c.1 c.2) m)
        (set := lw.tally) (cs := (c.cnts.zip res).map fun p => p.1.or p.2.cnt) hrs hdraws
      exact ht ▸ ⟨hcells.trans hr, hvr.trans (by rw [hrg]), fun h12 => absurd h12 hsp⟩

/-- What passes leave, of the state `u` before the first of them. -/
structure State.Passed (s u : State) (lw : LW) (g : Nat) : Prop where
  sized : s.sized = true
  ok : s.mems.Ok
  moved : s.VMoved u g
  sp : lw.has 12 = false → (s.clu g).sp = (u.clu g).sp
  vr : ∀ x, (∀ q ∈ lw.uops, q.u ≠ 0x3F → q.dst ≠ x / 1024) → spGet 0 (s.clu g).vr x = spGet 0 (u.clu g).vr x

theorem chainPass_passed (hw : w ≤ chainWidth h.lw) (hs : s.Passed u h.lw g) : (chainPass h g w s j).Passed u h.lw g := by
  obtain ⟨av, bv, hmoved, hvr, hsp⟩ := chainPass_elim (h := h) (g := g) (w := w) (j := j) hs.sized
  have hc : (h.lw.uops.foldl (microStep h g w _ (s.clu g).vr av bv) (h.pass s _)).Fits h.lw g s :=
    microSteps_fits hs.sized ((min_le_left w (h.lw.f 0 19 0 - j * w)).trans hw)
  exact {
    sized := chainPass_sized hs.sized
    ok := chainPass_ok hs.ok
    moved := hmoved.trans (hc.moved.trans hs.moved)
    sp := fun h12 => (hsp h12).trans ((clu_sp_of_mems hc.mems g).trans (hs.sp h12))
    vr := fun x hx => by
      rw [hvr, clu_vr_of_mems hc.mems, spGet_regs_of_ne hc (clu_vr_wf hs.ok g) hx, hs.vr x hx] }

theorem chainPasses_passed (hu : u.sized) (hok : u.mems.Ok) :
    ((List.range n).foldl (chainPass h g (chainWidth h.lw)) u).Passed u h.lw g :=
  foldl_keeps (fun s => State.Passed s u h.lw g) _ _ _ ⟨hu, hok, .refl, fun _ => rfl, fun _ _ => rfl⟩
    fun _ _ => chainPass_passed le_rfl

/-! ## A chain of one micro-operation and one pass -/

theorem draws_false {p st : Nat} : s.draws p g st w n false = (List.replicate n 0, s) := by
  unfold State.draws
  split <;> simp

/-- One micro-operation on registers: what it is to write (R207, R210). -/
theorem microStep_pass (hu : q.u ≠ 0x3F) (hf : Fmt.ofCode q.fmt = some f) (ha : q.a < 32) (hb : q.b < 32) (hc : q.c < 32)
    (hround : h.run.actx.eff.round ≠ .rsto) (hcvt : q.u ≠ 0x20) (hsel : q.u ≠ 0x0A) :
    (microStep h g w n vr av bv (h.pass s n) q).wr = [(q.dst, uopOut q.u f, (List.range n).map fun i =>
      let lane (k : Nat) := readLane vr f.wide k i % 2 ^ f.width
      laneOf (uopOut q.u f) (microOp h.run.actx q.u f f (lane q.a) (lane q.b) (lane q.c) 0).code)] := by
  have hlane {k i : Nat} (hk : k < 32) : (h.pass s n).lane vr av bv k i f.wide = readLane vr f.wide k i := by
    unfold PassSt.lane
    rw [if_neg (by omega), if_neg (by omega)]
    rfl
  have hno : ((h.pass s n).x.eff.round == .rsto && uopDraws q.u f f) = false := by
    rw [show (h.pass s n).x = h.run.actx from rfl, beq_false_of_ne hround, Bool.false_and]
  have hzero (i : Nat) : tget 0 (List.replicate n 0) i = 0 := by
    simp only [tget, List.getD_eq_getElem?_getD, List.getElem?_replicate]
    split <;> rfl
  unfold microStep
  rw [if_neg hu]
  simp only [hf, if_neg hcvt, if_neg hsel, hno, draws_false, hlane ha, hlane hb, hlane hc, hzero, List.map_map]
  rfl

theorem chainPass_single {i : Nat} (hs : s.sized) (hvr : Memory.wf (s.clu g).vr = true) (hops : h.lw.uops = [q]) (hu : q.u ≠ 0x3F)
    (hf : Fmt.ofCode q.fmt = some f) (hn : h.lw.f 0 19 0 ≤ w) (ha : q.a < 32) (hb : q.b < 32) (hc : q.c < 32)
    (hround : h.run.actx.eff.round ≠ .rsto) (hcvt : q.u ≠ 0x20) (hsel : q.u ≠ 0x0A) (hi : i < h.lw.f 0 19 0) :
    let lane (k : Nat) := readLane (s.clu g).vr f.wide k i % 2 ^ f.width
    let o := uopOut q.u f
    readLane ((chainPass h g w s 0).clu g).vr o.wide q.dst i =
      laneOf o (microOp h.run.actx q.u f f (lane q.a) (lane q.b) (lane q.c) 0).code % (if o.wide then 2 ^ 32 else 2 ^ 16) := by
  intro lane o
  obtain ⟨av, bv, -, hvr', -⟩ := chainPass_elim (h := h) (g := g) (w := w) (j := 0) hs
  rw [hvr', hops, Nat.zero_mul, Nat.sub_zero, min_eq_right hn, List.foldl_cons, List.foldl_nil, PassSt.regs,
    microStep_pass hu hf ha hb hc hround hcvt hsel, clu_vr_of_mems microStep_mems]
  have hbits : (if o.wide then 2 ^ 32 else 2 ^ 16) = 256 ^ laneBytes o.wide := by cases o.wide <;> rfl
  rw [hbits]
  refine (readLane_writeLanes hvr (by simpa using hi)).trans ?_
  simp [hi, o, lane]

/-- What a CHAIN leaves. -/
theorem exec_chain (hs : s.sized) (hm : s.memOk = true) (hp : s.passesRegions g .chain obs chainSrcs chainDsts = some (h, u)) :
    let ops := h.lw.uops
    let n := h.lw.f 0 19 0
    ∃ t, exec (.chain g obs) s = .next t ∧ t.Issued u h g 1 .nothing ∧ t.dram = u.dram ∧
      (∀ j, j ≠ g.val → (t.clu j).sp = (u.clu j).sp) ∧ (h.lw.has 12 = false → (t.clu g).sp = (u.clu g).sp) ∧
      (∀ x, (∀ q ∈ ops, q.u ≠ 0x3F → q.dst ≠ x / 1024) → spGet 0 (t.clu g).vr x = spGet 0 (u.clu g).vr x) ∧
      (∀ q f, ops = [q] → q.u ≠ 0x3F → Fmt.ofCode q.fmt = some f → n ≤ chainWidth h.lw → 1 ≤ n → q.a < 32 → q.b < 32 →
        q.c < 32 → h.run.actx.eff.round ≠ .rsto → q.u ≠ 0x20 → q.u ≠ 0x0A → ∀ i < n,
        let lane (k : Nat) := readLane (u.clu g).vr f.wide k i % 2 ^ f.width
        let o := uopOut q.u f
        readLane (t.clu g).vr o.wide q.dst i =
          laneOf o (microOp h.run.actx q.u f f (lane q.a) (lane q.b) (lane q.c) 0).code %
            (if o.wide then 2 ^ 32 else 2 ^ 16)) := by
  intro ops n
  have hu := passesRegions_sized hs hp
  have hok := passesRegions_ok hm hp
  have hpass : State.Passed _ u h.lw g := chainPasses_passed (n := ceilDiv n (chainWidth h.lw)) hu hok
  obtain ⟨hissued, hdram, hsp, hvr⟩ :=
    withRegions_issued (body := chainBody g) (by decide) hp rfl hpass.sized hpass.moved
  refine ⟨_, rfl, hissued, hdram, fun j hj => (hsp j).trans (by rw [hpass.moved.cluNe j hj]),
    fun h12 => (hsp g).trans (hpass.sp h12), fun x hx => by rw [hvr, hpass.vr x hx], ?_⟩
  intro q f hops hq hf hn hn1 ha hb hc hround hcvt hsel i hi
  have hone : ceilDiv n (chainWidth h.lw) = 1 :=
    Nat.div_eq_of_lt_le (by omega) (by omega)
  rw [hone] at hvr
  rw [hvr]
  exact chainPass_single hu (clu_vr_wf hok g) hops hq hf hn ha hb hc hround hcvt hsel hi

end

/-- Settles O47. CONST and VMOV act on their cluster in one step; a CHAIN folds its passes, each of which writes registers of its
micro-operations alone. -/
theorem vectorOperations : Obligations.VectorOperations := by
  unfold Obligations.VectorOperations
  intro s g obs h u hs hm
  exact ⟨fun f hp hf => exec_const hs hm hp hf, fun hp => exec_vmov hs hm hp, fun hp => exec_chain hs hm hp⟩

end Sys2Proof.Machine

namespace Sys2Proof.Machine

/-! # Host writes and image slot memory (R242, R244)

Image slot memory is made of whole lines (`inSlot_of_line`), and a host write that is carried out writes in the lines of its own
bytes alone: `State.SparesSlots` says that nothing of image slot memory has changed, and is kept by each of them. -/

section

variable {s t u : State} {cells : List Host.Cell} {a b line : Nat} {obs : HwObs}

/-! ## Image slot memory is made of whole lines -/

/-- Addresses of one line are in one court, at offsets of one line. -/
theorem court_of_line (h : a / 64 = b / 64) :
    a / courtBytes = b / courtBytes ∧ a % courtBytes / 64 = b % courtBytes / 64 := by
  unfold courtBytes
  omega

theorem line_of_block {k m n : Nat} (h : m / 64 = n / 64) : (k * 4096 + m) / 64 = (k * 4096 + n) / 64 := by omega

/-- Interleave keeps lines together. -/
theorem paOf_of_line {q : Partition} (h : a / 64 = b / 64) : q.paOf a / 64 = q.paOf b / 64 := by
  obtain ⟨hcourt, hoff⟩ := court_of_line h
  unfold Partition.paOf
  rw [hcourt]
  clear hcourt
  generalize (q.courts.idxOf? (b / courtBytes)).getD 0 = i
  generalize a % courtBytes = o at hoff ⊢
  generalize b % courtBytes = o' at hoff ⊢
  dsimp only
  split
  · have hblock : (o / 512 * 256 + o % 256) / 4096 = (o' / 512 * 256 + o' % 256) / 4096 := by omega
    have hch : o / 256 % 2 = o' / 256 % 2 := by omega
    have hrest : (o / 512 * 256 + o % 256) % 4096 / 64 = (o' / 512 * 256 + o' % 256) % 4096 / 64 := by omega
    rw [hblock, hch]
    exact line_of_block hrest
  · unfold courtBytes
    omega

theorem slotLo_of_line {q : Partition} (h : a / 64 = b / 64) : q.slotLo ≤ q.paOf a ↔ q.slotLo ≤ q.paOf b := by
  have hpa : q.paOf a / 64 = q.paOf b / 64 := paOf_of_line h
  unfold Partition.slotLo Partition.size courtBytes
  omega

theorem inSlot_of_line (h : a / 64 = b / 64) : s.inSlot a = s.inSlot b := by
  unfold State.inSlot
  rw [(court_of_line h).1]
  split
  · rfl
  · exact decide_eq_decide.mpr (slotLo_of_line h)

/-- Which memory is image slot memory depends on the courts of the partitions and their interleave. -/
theorem inSlot_congr (hcharter : t.charter = s.charter)
    (hmap : ∀ p, (t.part p).courts = (s.part p).courts ∧ (t.part p).il = (s.part p).il) : t.inSlot a = s.inSlot a := by
  unfold State.inSlot
  rw [owner_of_charter hcharter]
  split
  · rfl
  next p _ =>
    obtain ⟨hc, hi⟩ := hmap p
    have hlo : (t.part p).slotLo = (s.part p).slotLo := by
      unfold Partition.slotLo Partition.size
      rw [hc]
    have hpa : (t.part p).paOf a = (s.part p).paOf a := by
      unfold Partition.paOf
      rw [hc, hi]
    rw [hlo, hpa]

/-! ## What a host write may change -/

/-- A state with sound memories after which all image slot memory stands as before. -/
structure State.SparesSlots (s t : State) : Prop where
  ok : t.mems.Ok
  inSlot : ∀ a, t.inSlot a = s.inSlot a
  rdDa : ∀ a, s.inSlot a = true → t.rdDa a = s.rdDa a

theorem State.SparesSlots.trans (h : s.SparesSlots t) (h' : t.SparesSlots u) : s.SparesSlots u where
  ok := h'.ok
  inSlot a := (h'.inSlot a).trans (h.inSlot a)
  rdDa a ha := (h'.rdDa a ((h.inSlot a).trans ha)).trans (h.rdDa a ha)

theorem sparesSlots_of_mems (hok : s.mems.Ok) (hm : t.mems = s.mems) (hi : ∀ a, t.inSlot a = s.inSlot a) :
    s.SparesSlots t :=
  ⟨hm ▸ hok, hi, fun _ _ => rdDa_of_mems hm⟩

theorem State.SparesSlots.refl (hok : s.mems.Ok) : s.SparesSlots s := sparesSlots_of_mems hok rfl fun _ => rfl

theorem inSlot_of_parts (h : t.parts = s.parts) : t.inSlot a = s.inSlot a := by
  unfold State.inSlot State.owner State.part
  rw [h]

/-- A dropped write is counted (R352). -/
theorem countDrop_sparesSlots (hok : s.mems.Ok) : s.SparesSlots (s.countDrop a) := by
  refine sparesSlots_of_mems hok countDrop_mems fun b => inSlot_congr countDrop_charter fun p => ?_
  unfold State.countDrop
  split
  · exact ⟨rfl, rfl⟩
  next r _ =>
    constructor
    · exact part_updPart_keeps (·.courts) (by exact fun _ => rfl) r p
    · exact part_updPart_keeps (·.il) (by exact fun _ => rfl) r p

/-- A write of device memory leaves the lines in which none of its cells lies. -/
theorem wrDa_rdDa_of_untouched (hok : s.mems.Ok) (h : ∀ c ∈ cells, c.1 / 64 ≠ a / 64) :
    (s.wrDa cells).rdDa a = s.rdDa a :=
  ((deviceMemoryWrites s cells (memOk_iff.mpr hok)).1 a).trans (afterWrite_of_untouched h)

/-- Cells of a line outside image slot memory are written. -/
theorem wrDa_sparesSlots (hok : s.mems.Ok) (hline : s.inSlot (64 * line) = false) (hc : ∀ c ∈ cells, c.1 / 64 = line) :
    s.SparesSlots (s.wrDa cells) where
  ok := wrDa_ok hok
  inSlot a := inSlot_of_parts (by rw [wrDa_frame])
  rdDa a ha := by
    refine wrDa_rdDa_of_untouched hok fun c hm he => ?_
    have hsame : s.inSlot a = s.inSlot (64 * line) := inSlot_of_line (by have := hc c hm; omega)
    rw [hsame, hline] at ha
    exact absurd ha Bool.false_ne_true

/-- A poisoned write marks its line and stores nothing (R343). -/
theorem markHost_sparesSlots (hok : s.mems.Ok) : s.SparesSlots (s.markHost line) :=
  ⟨markHost_ok hok, fun _ => inSlot_of_parts rfl, fun _ _ => rfl⟩

theorem observe_sparesSlots {ls : List Nat} (hok : s.mems.Ok) : s.SparesSlots (s.observe obs ls) :=
  ⟨observe_ok hok, fun _ => inSlot_of_parts (by rw [observe_frame]), fun _ _ => observe_rdDa⟩

/-- Bytes of a line outside image slot memory may be written (R342, R343). -/
theorem writeIn_sparesSlots {poison : Bool} (hok : s.mems.Ok) (hline : s.inSlot (64 * line) = false)
    (hc : ∀ c ∈ cells, c.1 / 64 = line) : s.SparesSlots (s.writeIn line cells poison obs) := by
  unfold State.writeIn
  split
  · exact .refl hok
  · extract_lets u
    have hu : s.SparesSlots u := by
      unfold u
      split
      · exact .refl hok
      · exact observe_sparesSlots hok
    split
    · exact hu.trans (markHost_sparesSlots hu.ok)
    · exact hu.trans (wrDa_sparesSlots hu.ok ((hu.inSlot _).trans hline) hc)

/-! ## The three writes of the host -/

theorem div_of_mem_cellsAt {d : List Byte} {c : Host.Cell} (hd : d.length = 64) (hc : c ∈ cellsAt (64 * line) d) :
    c.1 / 64 = line := by
  obtain ⟨e, he, rfl⟩ := List.mem_map.mp hc
  have hlt : e.2 < d.length := List.snd_lt_of_mem_zipIdx he
  dsimp only
  omega

/-- A CXL.mem write stays in its line (R352). -/
theorem cxlMemWrite_sparesSlots {hpa en : Nat} {sid : Sid} {data : List Byte} {poison : Bool} (hok : s.mems.Ok) :
    s.SparesSlots (outOf s (execCxlMemWrite hpa sid data en poison obs s)) := by
  unfold execCxlMemWrite
  dsimp only
  rw [outOf_next]
  split
  · exact .refl hok
  next hopen =>
    have hlen : data.length = 64 := by simp_all
    split
    · exact sparesSlots_of_mems hok send_mems fun _ => inSlot_of_parts rfl
    next a _ =>
      split
      · exact .refl hok
      · split
        · exact countDrop_sparesSlots hok
        next hmay =>
          have hfree : s.inSlot a = false := by simp_all
          refine writeIn_sparesSlots hok ?_ fun c hc => div_of_mem_cellsAt hlen (List.mem_filter.mp hc).1
          exact (inSlot_of_line (by omega)).trans hfree

/-- The data of a back-invalidation response is written as a host write is (R244, R349). -/
theorem birsp_sparesSlots {da : Nat} {data : Option (List Byte)} (hok : s.mems.Ok) :
    s.SparesSlots (outOf s (execBirsp da data s)) := by
  unfold execBirsp
  dsimp only
  rw [outOf_next]
  split
  · exact .refl hok
  · have hv (f : HostLink → HostLink) (g : CourtSt → CourtSt) :
        s.SparesSlots ((s.updHost f).updCourt (64 * (da / 64) / courtBytes) g) :=
      sparesSlots_of_mems hok (updCourt_mems.trans updHost_mems) fun _ => inSlot_of_parts rfl
    split
    · exact hv _ _
    · split
      · exact hv _ _
      next hlen =>
        split
        · exact (hv _ _).trans (countDrop_sparesSlots (hv _ _).ok)
        next hfree =>
          exact (hv _ _).trans (wrDa_sparesSlots (hv _ _).ok (by simpa using hfree) fun c =>
            div_of_mem_cellsAt (not_not.mp hlen))

/-- Each part of a BAR4 write stays in its line (R520). -/
theorem bar4Write_sparesSlots {off : Nat} {sid : Sid} {data : List Byte} {ep : Bool} {holes : List Nat} (hok : s.mems.Ok) :
    s.SparesSlots (outOf s (execBar4Write off data sid ep obs s holes)) := by
  unfold execBar4Write
  rw [outOf_next]
  split
  · exact .refl hok
  · extract_lets u cells ps v
    have hu : s.SparesSlots u := by
      unfold u
      split
      · exact sparesSlots_of_mems hok aer_mems fun _ => inSlot_of_parts (by rw [aer_frame])
      · exact .refl hok
    have hv : s.SparesSlots v := by
      unfold v
      split
      · exact hu.trans (countDrop_sparesSlots hu.ok)
      · exact hu
    split
    · exact hu
    · split
      · exact hu.trans (countDrop_sparesSlots hu.ok)
      · refine foldl_keeps s.SparesSlots _ ps v hv fun t e ht => ?_
        split
        · exact ht
        next hfree =>
          have hline : t.inSlot (64 * (e.1 / 64)) = false := 
            (inSlot_of_line (b := e.1) (by omega)).trans (by simpa using hfree)
          refine ht.trans (writeIn_sparesSlots ht.ok hline fun c hc => ?_)
          simpa using (List.mem_filter.mp hc).2

end

/-- Settles O9: a part of a host write whose line is image slot memory is dropped, and any other writes in its own line, so none
leaves image slot memory changed (`…_sparesSlots`). -/
theorem hostWritesSpareImageSlots : Obligations.HostWritesSpareImageSlots := by
  intro s t c a hm _ hc he ha
  have hok : s.mems.Ok := memOk_iff.mp hm
  have hspares : s.SparesSlots (outOf s (exec c s)) := by
    split at hc
    · exact cxlMemWrite_sparesSlots hok
    · exact bar4Write_sparesSlots hok
    · exact birsp_sparesSlots hok
    · exact hc.elim
  rw [he] at hspares
  exact hspares.rdDa a ha

end Sys2Proof.Machine

namespace Sys2Proof.Machine

/-! # `swap` (R247) -/

section

variable {s : State} {l : LineCtx} {p : Part}

theorem exec_swap (ht : s.takes p (.swap l p) = true) (hl : s.legal p false true true true = true) :
    exec (.swap l p) s = .next (
      if ((s.part p).slot (!(s.part p).active)).st = .verified then
        (s.updPart p fun q => { q with active := !q.active }).ok p l [kv "slot" (slotName (!(s.part p).active))]
      else s.no p l "empty") := by
  have hexec : exec (.swap l p) s = .next (verbSwap l p s) := congrArg _ (atLine_takes s p _ _ ht)
  rw [hexec, verbSwap, hl, if_neg (by decide)]
  exact congrArg _ (ite_not ..)

end

/-- Settles O17: the line has its verb's effect, which asks for a slot that is VERIFIED. -/
theorem swapTakesTheOtherSlot : Obligations.SwapTakesTheOtherSlot := fun _ _ _ => exec_swap

end Sys2Proof.Machine

namespace Sys2Proof.Machine

/-! # `load` (R243, R245, R319) -/

section

variable {s : State} {l : LineCtx} {p : Part} {b : Bool} {src len : Nat} {obs : HwObs}

/-! ## The lines of a slot leave the instruction caches -/

/-- The lines of a slot leave the instruction caches of some clusters. -/
def State.dropLines (s : State) (b : Bool) (gs : List Nat) : State :=
  gs.foldl (fun s g => s.updClu g fun k => { k with icache := k.icache.filter fun e => e.1 != b }) s

theorem dropLines_frame {gs : List Nat} : s.dropLines b gs = { s with cl := (s.dropLines b gs).cl } :=
  foldl_keeps (fun t : State => t = { s with cl := t.cl }) _ gs s rfl fun t g h => by
    rw [h]
    rfl

theorem mem_icache_dropLines {gs : List Nat} {g : Nat} {e : Bool × Nat} (hg : g < s.cl.length) :
    e ∈ ((s.dropLines b gs).clu g).icache ↔ e ∈ (s.clu g).icache ∧ ¬ (g ∈ gs ∧ e.1 = b) := by
  induction gs generalizing s with
  | nil => simp [State.dropLines]
  | cons c gs ih =>
    rw [State.dropLines, List.foldl_cons]
    refine (ih (by rwa [updClu_cl, List.length_modify])).trans ?_
    by_cases hc : c = g
    · subst hc
      rw [clu_updClu_same s c _ hg]
      simp only [List.mem_filter, List.mem_cons, bne_iff_ne]
      tauto
    · rw [clu_updClu_ne s c g _ hc]
      simp [Ne.symm hc]

theorem lt_of_mem_clusters {g : Nat} (hs : s.sized = true) (hc : s.courtsOk = true) (hg : g ∈ (s.part p).clusters) :
    g < s.cl.length := by
  obtain ⟨i, hi, rfl⟩ := List.mem_map.mp hg
  exact glob_lt hs hc (by simpa [Partition.clusters] using hi)

/-! ## The line -/

/-- A `load` has begun: its slot is LOADING (R243). -/
def Partition.loading (q : Partition) (j : LoadJob) : Partition :=
  { q with slots := q.slots.set (b2n j.b) { st := .loading }, load := some j }

theorem exec_load (ht : s.takes p (.load l p b src len) = true) (hl : s.legal p true true true true = true) :
    exec (.load l p b src len) s = .next (
      if src % 64 ≠ 0 ∨ len % 64 ≠ 0 ∨ 2 ^ 25 < len ∨ (s.part p).slotLo < src + len then s.no p l "range"
      else if (s.part p).bound b ≠ 0 then s.no p l "busy"
      else ((s.updPart p (·.loading { ctx := l, b := b, src := src, len := len })).dropLines b
        (s.part p).clusters).settle p) := by
  have hexec : exec (.load l p b src len) s = .next (verbLoad l p b src len s) := congrArg _ (atLine_takes s p _ _ ht)
  rw [hexec, verbLoad, hl, if_neg (by decide)]
  rfl

theorem slots_length (hs : s.sized = true) : (s.part p).slots.length = 2 := by
  obtain ⟨-, -, -, -, -, -, -, -, hparts⟩ := sized_iff.mp hs
  have hq := hparts _ (part_mem (p := p) hs)
  simp only [Partition.sized, Bool.and_eq_true, beq_iff_eq, and_assoc] at hq
  exact hq.1

theorem b2n_lt : b2n b < 2 := by cases b <;> decide

theorem b2n_not_ne : b2n b ≠ b2n (!b) := by cases b <;> decide

/-- A partition whose settings have settled is the same but for them. -/
theorem settle_part_keeps {α : Type} (view : Partition → α)
    (h : ∀ (q : Partition) set pend, view { q with set := set, pendP := pend } = view q) (r : Nat) :
    view ((s.settle p).part r) = view (s.part r) := by
  refine part_updPart_keeps view (fun q => ?_) p r
  split
  · exact h ..
  · rfl

theorem load_begins (hs : s.sized = true) (hc : s.courtsOk = true) (j : LoadJob) :
    let t := ((s.updPart p (·.loading j)).dropLines j.b (s.part p).clusters).settle p
    (t.part p).slot j.b = { st := .loading } ∧ (t.part p).slot (!j.b) = (s.part p).slot (!j.b) ∧ (t.part p).load = some j ∧
      (∀ g ∈ (s.part p).clusters, ∀ n, (j.b, n) ∉ (t.clu g).icache ∧
        ((!j.b, n) ∈ (t.clu g).icache ↔ (!j.b, n) ∈ (s.clu g).icache)) ∧ t.dram = s.dram ∧ t.out = s.out := by
  intro t
  obtain ⟨u, hu⟩ : ∃ u, u = (s.updPart p (·.loading j)).dropLines j.b (s.part p).clusters := ⟨_, rfl⟩
  have ht : t = u.settle p := by rw [hu]
  have hpart : u.part p = (s.part p).loading j := by
    rw [hu, dropLines_frame]
    exact part_updPart_same s p _ (part_lt_length hs)
  have hslot (c : Bool) : (t.part p).slot c = ((s.part p).loading j).slot c := by
    rw [ht, ← hpart]
    exact settle_part_keeps (·.slot c) (fun _ _ _ => rfl) p
  refine ⟨?_, ?_, ?_, fun g hg n => ?_, ?_, ?_⟩
  · rw [hslot]
    exact tget_set_same (by rw [slots_length hs]; exact b2n_lt)
  · rw [hslot]
    exact tget_set_ne b2n_not_ne
  · rw [ht, settle_part_keeps (·.load) (fun _ _ _ => rfl) p, hpart]
    rfl
  · have hclu (e : Bool × Nat) :
        e ∈ (t.clu g).icache ↔ e ∈ (s.clu g).icache ∧ ¬ (g ∈ (s.part p).clusters ∧ e.1 = j.b) := by
      have hlt : g < s.cl.length := lt_of_mem_clusters hs hc hg
      rw [ht, hu]
      exact mem_icache_dropLines (s := s.updPart p _) hlt
    simp [hclu, hg]
  · rw [ht, hu, dropLines_frame]
    rfl
  · rw [ht, hu, dropLines_frame]
    rfl

/-! ## The end -/

theorem exec_loadDone {j : LoadJob} (hj : (s.part p).load = some j) (hd : s.dev.dfault = none)
    (hheld : s.snooped ((s.part p).daLines (linesOf j.src j.len) ++ (s.part p).slotLines j.b j.len) = [])
    (hclean : ∀ a ∈ (s.part p).daLines (linesOf j.src j.len),
      (s.observe obs ((s.part p).daLines (linesOf j.src j.len))).cause a = none) :
    let bytes := (List.range j.len).map fun k => s.rdPa p (j.src + k)
    let u := (s.observe obs ((s.part p).daLines (linesOf j.src j.len))).wrPa p (cellsAt ((s.part p).slotPa j.b) bytes)
    let fail := verifyImage bytes (s.part p).courts.length j.len
    let v := u.updPart p fun q =>
      { q with load := none, slots := q.slots.set (b2n j.b) (if fail.isSome then {} else slotOf bytes j.len) }
    exec (.loadDone p obs) s = .next (match fail with
      | some (a, c) => v.no p j.ctx "verify" [kv "at" a.text, kv "code" (hex2 c)]
      | none => v.ok p j.ctx) := by
  intro bytes u fail v
  have hbytes : (List.range j.len).map
      (fun k => (s.observe obs ((s.part p).daLines (linesOf j.src j.len))).rdPa p (j.src + k)) = bytes := by
    simp only [State.rdPa, observe_rdDa, observe_part, bytes]
  have hbad : ((s.part p).daLines (linesOf j.src j.len)).any
      (fun l => ((s.observe obs ((s.part p).daLines (linesOf j.src j.len))).cause l).isSome) = false :=
    List.any_eq_false.mpr fun a ha => by simp [hclean a ha]
  change execLoadDone p obs s = _
  unfold execLoadDone
  rw [hj]
  simp only [hd, hheld, hbad, hbytes]
  rfl

end

/-- Settles O16: a line that its checks let through begins as `load_begins` says, and its end reads the image once and answers
what the verifier finds (`exec_loadDone`). -/
theorem loadVerifiesAnImage : Obligations.LoadVerifiesAnImage := by
  intro s l p b src len obs hs hc
  refine ⟨fun ht hl => ⟨fun hsrc hlen hmax hend hfree => ?_, fun hbad => ?_, fun hsrc hlen hmax hend hbound => ?_⟩,
    fun j hj hd => ?_⟩
  · refine ⟨_, ?_, load_begins hs hc { ctx := l, b := b, src := src, len := len }⟩
    rw [exec_load ht hl, if_neg (by omega), if_neg (not_not.mpr hfree)]
  · rw [exec_load ht hl, if_pos hbad]
  · rw [exec_load ht hl, if_neg (by omega), if_pos hbound]
  · intro lines bytes u hheld hclean
    have hexec := exec_loadDone hj hd hheld hclean
    split
    next hv => rw [hexec, show verifyImage _ _ _ = _ from hv]; rfl
    next hv => rw [hexec, show verifyImage _ _ _ = _ from hv]; rfl

end Sys2Proof.Machine

namespace Sys2Proof.Machine

/-! # `go`, `wait` and `sig` (R253, R254, R320, R321) -/

section

variable {s : State} {l : LineCtx} {p : Part}

theorem exec_wait (hl : s.legal p false true true true = true) (ht : s.takes p (.wait l p) = true) :
    exec (.wait l p) s = .next ((s.updPart p fun q => { q with gate := true }).ok p l) := by
  have hexec : exec (.wait l p) s = .next (verbWait l p s) := congrArg _ (atLine_takes s p _ _ ht)
  rw [hexec, verbWait, hl]
  rfl

theorem exec_sig (hl : s.legal p false true true true = true) (ht : s.takes p (.sig l p) = true) :
    exec (.sig l p) s = .next (
      if (s.part p).tickets < 255 then (s.updPart p fun q => { q with tickets := q.tickets + 1 }).ok p l
      else s.no p l "full") := by
  have hexec : exec (.sig l p) s = .next (verbSig l p s) := congrArg _ (atLine_takes s p _ _ ht)
  rw [hexec, verbSig, hl, if_neg (by decide)]
  simp only [ge_iff_le, ← Nat.not_lt, ite_not]

/-- An update of a partition is what it makes of that partition as it stands. -/
theorem updPart_congr {k : Nat} {f g : Partition → Partition} (h : f (s.part k) = g (s.part k)) :
    s.updPart k f = s.updPart k g := by
  refine congrArg (fun ps => { s with parts := ps }) (List.ext_getElem? fun j => ?_)
  rw [List.getElem?_modify, List.getElem?_modify]
  by_cases hj : k = j
  · subst hj
    rw [State.part, tget, List.getD_eq_getElem?_getD] at h
    cases hk : s.parts[k]? with
    | none => rfl
    | some q => simpa [hk] using h
  · simp [hj]

/-- A `go` whose addresses, deadline and context are in range binds what it names (R254). -/
theorem exec_go {b : Bool} {args : Nat} {dl done : Option Nat} {nc : NcItems} (hl : s.legal p false true true true = true)
    (ht : s.takes p (.go l p (some b) (some args) dl nc done) = true) (halign : args % 64 = 0)
    (hargs : args < (s.part p).slotLo) (hdone : ∀ d, done = some d → d % 32 = 0 ∧ d < (s.part p).slotLo)
    (hdl : ∀ d, dl = some d → 1 ≤ d ∧ d ≤ 60000000) (hnc : ∀ v, nc.flush = some v ∨ nc.sat = some v → v ≤ 1) :
    exec (.go l p (some b) (some args) dl nc done) s = .next (
      if ((s.part p).slot b).st = .verified then
        (s.updPart p fun q => { q with
          queue := q.queue ++ [{ b := b, args := args, dl := dl.getD (q.pendP.getD q.set).dl, nc := nc, done := done,
                                 ctx := l, gated := q.gate, seq := q.seq + 1 }]
          seq := q.seq + 1, gate := false }).ok p l
      else s.no p l "empty") := by
  have hexec : exec (.go l p (some b) (some args) dl nc done) s =
      .next (verbGo l p (some b) (some args) dl nc done s) := congrArg _ (atLine_takes s p _ _ ht)
  have hdone' : (done.all fun d => d % 32 == 0 && decide (d < (s.part p).slotLo)) = true := by
    simpa [Option.all_eq_true] using hdone
  have hdl' : dlOk dl = true := by simpa [dlOk, Option.all_eq_true] using hdl
  have hnc' : ncOk nc = true := by
    simp only [ncOk, Bool.and_eq_true, Option.all_eq_true, decide_eq_true_eq]
    exact ⟨fun v hv => hnc v (.inl hv), fun v hv => hnc v (.inr hv)⟩
  rw [hexec, verbGo, hl, if_neg (by decide)]
  dsimp only [Option.getD_some]
  rw [if_neg (by simp [halign, hargs, hdone', hdl', hnc'])]
  rw [ite_not]
  refine congrArg Host.Outcome.next (if_congr Iff.rfl (congrArg (State.ok · p l) (updPart_congr ?_)) rfl)
  rfl

/-- A `go` that names no slot and no argument block takes the active slot and the block at 0 (R320). -/
theorem exec_go_default {dl done : Option Nat} {nc : NcItems} (ht : s.takes p (.go l p none none dl nc done) = true) :
    exec (.go l p none none dl nc done) s = exec (.go l p (some (s.part p).active) (some 0) dl nc done) s := by
  have ht' : s.takes p (.go l p (some (s.part p).active) (some 0) dl nc done) = true := ht
  have hexec : exec (.go l p none none dl nc done) s = .next (verbGo l p none none dl nc done s) :=
    congrArg _ (atLine_takes s p _ _ ht)
  have hexec' : exec (.go l p (some (s.part p).active) (some 0) dl nc done) s =
      .next (verbGo l p (some (s.part p).active) (some 0) dl nc done s) := congrArg _ (atLine_takes s p _ _ ht')
  rw [hexec, hexec']
  rfl
end
end Sys2Proof.Machine

namespace Sys2Proof.Machine

/-! # `halt` (R324) -/

section

variable {s t u : State} {l : LineCtx} {p : Part} {k : Nat} {obs : HwObs}

/-! ## What of partitions and clusters may change as reports are written -/

/-- What may change of a partition as its reports are written: the reports and the ring's entries, and what `Partition.Said`
names. -/
def Partition.Reported (q q' : Partition) : Prop :=
  q' = { q with reports := q'.reports, prod := q'.prod, txSeq := q'.txSeq, haltReply := q'.haltReply, set := q'.set
                pendP := q'.pendP }

/-- The reports of a partition are written: no other partition and no cluster changes. -/
structure State.Reported (p : Nat) (s t : State) : Prop where
  part : (s.part p).Reported (t.part p)
  others : ∀ r, r ≠ p → t.part r = s.part r
  cl : t.cl = s.cl

theorem Partition.Reported.trans {q q' q'' : Partition} (h : q.Reported q') (h' : q'.Reported q'') : q.Reported q'' := by
  unfold Partition.Reported at *
  rw [h', h]

theorem State.Reported.of_eq (hp : t.parts = s.parts) (hc : t.cl = s.cl) : s.Reported k t := by
  have hpart (r : Nat) : t.part r = s.part r := by rw [State.part, hp, State.part]
  exact ⟨by rw [hpart]; rfl, fun r _ => hpart r, hc⟩

theorem State.Reported.refl (s : State) : s.Reported k s := .of_eq rfl rfl

theorem State.Reported.trans (h : s.Reported k t) (h' : t.Reported k u) : s.Reported k u :=
  ⟨h.part.trans h'.part, fun r hr => (h'.others r hr).trans (h.others r hr), h'.cl.trans h.cl⟩

theorem updPart_reported {f : Partition → Partition} (hf : ∀ q : Partition, q.Reported (f q)) :
    s.Reported k (s.updPart k f) := by
  refine ⟨?_, fun r hr => part_updPart_ne s k r f hr.symm, rfl⟩
  obtain h | h := part_updPart_cases (s := s) k k f
  · rw [h]
    rfl
  · rw [h]
    exact hf _

theorem msix_reported {v : Nat} : s.Reported k (s.msix v) := .of_eq (by rw [msix_frame]) (by rw [msix_frame])

theorem emit_reported {uart : Bool} {b : List Byte} : s.Reported k (s.emit k uart b) := by
  have hcount : s.Reported k (s.countLine k) := by
    unfold State.countLine
    split
    · exact updPart_reported fun _ => rfl
    · exact .refl s
  refine hcount.trans ?_
  rw [State.emit, deliver_frame]
  exact .of_eq rfl rfl

theorem putDone_reported {r : Report} : s.Reported k (s.putDone k obs r) := by
  rw [putDone_frame]
  exact .of_eq rfl rfl

theorem leave_reported {q : Partition} {r : Report} {rest : List Report} : s.Reported k (s.leave k q r rest) := by
  have hentry : s.Reported k (s.putEntry k q r) := by
    unfold State.putEntry
    split
    · exact State.Reported.trans (t := s.send _) (.of_eq rfl rfl) (updPart_reported fun _ => rfl)
    · exact .refl s
  have hentered : s.Reported k (s.entered k q r rest) := hentry.trans (updPart_reported fun _ => rfl)
  unfold State.leave
  extract_lets t u
  have ht : s.Reported k t := hentered.trans emit_reported
  have hu : s.Reported k u := by
    unfold u
    split
    · exact ht.trans msix_reported
    · exact ht
  split
  · exact hu.trans msix_reported
  · exact hu

theorem biAsk_reported {ls : List Nat} : s.Reported k (s.biAsk ls) :=
  foldl_keeps (s.Reported k) _ ls s (.refl s) fun t l h => by
    split
    · exact h
    · exact h.trans (.of_eq rfl rfl)

theorem pumpReports_reported {n : Nat} : s.Reported k (pumpReports obs n k s) := by
  induction n generalizing s with
  | zero => exact .refl s
  | succ n ih =>
    cases hr : (s.part k).reports with
    | nil =>
      unfold pumpReports
      dsimp only
      rw [hr]
      exact .refl s
    | cons r rest =>
      rw [pumpReports_succ hr]
      extract_lets held t
      have ht : s.Reported k t := by
        unfold t
        split
        · exact .refl s
        · exact putDone_reported
      clear_value t
      split
      · exact .refl s
      · split
        · exact biAsk_reported
        · split
          · exact ht.trans (updPart_reported fun _ => rfl)
          · exact ht.trans (leave_reported.trans ih)

theorem haltDone_reported : s.Reported k (s.haltDone k) := by
  unfold State.haltDone
  split
  · split
    · exact .refl s
    · extract_lets t u
      have ht : s.Reported k t := updPart_reported fun _ => rfl
      have hu : t.Reported k u := .of_eq rfl rfl
      exact ht.trans (hu.trans emit_reported)
  · exact .refl s

theorem settle_reported : s.Reported k (s.settle k) := by
  refine updPart_reported fun q => ?_
  split
  · rfl
  · rfl

theorem pump_reported : s.Reported k (s.pump k obs) :=
  pumpReports_reported.trans (haltDone_reported.trans settle_reported)

theorem pumpFree_reported : s.Reported k (s.pumpFree k) := by
  unfold State.pumpFree
  extract_lets lines
  split
  · exact pump_reported
  · exact pump_reported.trans (.of_eq rfl rfl)

/-! ## The line -/

/-- The launch queue is empty, the gate disarmed, and no ticket is left; each queued launch is reported (R324). -/
def Partition.halted (q : Partition) (l : LineCtx) : Partition :=
  { q with
    reports := q.reports ++ q.queue.map fun la => haltReport la 0 "halt"
    queue := [], gate := false, tickets := 0, haltReply := some (l, q.queue.length) }

/-- The window waits for the last report (R324). -/
def State.halting (s : State) (p : Part) (l : LineCtx) : State :=
  (s.updPart p (·.halted l)).updWin p fun w => { w with busy := some (.halting p) }

theorem exec_halt (ht : s.takes p (.halt l p) = true) (hl : s.legal p false true true true = true) :
    exec (.halt l p) s = .next ((s.halting p l).pumpFree p) := by
  have hexec : exec (.halt l p) s = .next (verbHalt l p s) := congrArg _ (atLine_takes s p _ _ ht)
  have hhalted : s.updPart p (·.halted l) = s.updPart p fun q => { q with
      reports := q.reports ++ q.queue.map fun la => haltReport la 0 "halt"
      queue := [], gate := false, tickets := 0, haltReply := some (l, (s.part p).queue.length) } := updPart_congr rfl
  rw [hexec, verbHalt, hl, if_neg (by decide), State.halting, hhalted]

/-- With no report to write, nothing but `halt` is answered. -/
theorem pumpFree_of_nil (h : (s.part k).reports = []) : s.pumpFree k = (s.haltDone k).settle k := by
  simp [State.pumpFree, State.doneLines, State.pump, h, pumpReports]

theorem haltDone_busy {n : Nat} (hk : k < s.windows.length) (hn : (s.part k).haltReply = some (l, n))
    (hr : (s.part k).reports = []) (hb : (s.win k).busy = some (.halting k)) :
    ((s.haltDone k).win k).busy = none := by
  rw [State.haltDone, hn]
  dsimp only
  rw [hr, if_neg (by decide), ok_busy, win_updWin_same _ _ _ (by exact hk), win_updPart, hb, if_pos rfl]

theorem halt_leaves (hs : s.sized = true) :
    let t := (s.halting p l).pumpFree p
    (t.part p).queue = [] ∧ (t.part p).gate = false ∧ (t.part p).tickets = 0 ∧ (t.part p).run = (s.part p).run ∧
      (∀ r, r ≠ p.val → t.part r = s.part r) ∧ t.cl = s.cl ∧
      ((s.part p).queue = [] → (s.part p).reports = [] → (t.win p).busy = none) := by
  intro t
  have hp : (s.halting p l).part p = (s.part p).halted l := part_updPart_same s p _ (part_lt_length hs)
  obtain ⟨hpart, hothers, hcl⟩ : (s.halting p l).Reported p t := pumpFree_reported
  rw [hp] at hpart
  refine ⟨?_, ?_, ?_, ?_, fun r hr => (hothers r hr).trans (part_updPart_ne s p r _ hr.symm), hcl, fun hq hr => ?_⟩
  · rw [hpart]; rfl
  · rw [hpart]; rfl
  · rw [hpart]; rfl
  · rw [hpart]; rfl
  · have hw : p.val < s.windows.length := by
      obtain ⟨hwin, -⟩ := sized_iff.mp hs
      omega
    have hnil : ((s.halting p l).part p).reports = [] := by
      rw [hp, Partition.halted, hq, hr]
      rfl
    have hbusy : ((s.halting p l).win p).busy = some (.halting p) :=
      congrArg Window.busy (win_updWin_same (s.updPart p (·.halted l)) p _ hw)
    have ht : t = ((s.halting p l).haltDone p).settle p := pumpFree_of_nil hnil
    rw [ht]
    exact haltDone_busy (n := (s.part p).queue.length) (by simpa [State.halting] using hw) (by rw [hp]; rfl) hnil hbusy

end
end Sys2Proof.Machine

namespace Sys2Proof.Machine

/-! # `abort` (R325, R446) -/

section

variable {s t u : State} {l : LineCtx} {p : Part} {k : Nat}

/-! ## The streams that a latch stops -/

/-- A cluster in which every engine has stopped, with nothing in flight (R446). -/
def Cluster.Halted (c : Cluster) : Prop := ∀ x ∈ c.streams, x.ended = true ∧ x.flight = []

/-- Every cluster of a list has been given what an update gives. -/
theorem clu_foldl_updClu {P : Cluster → Prop} {f : Cluster → Cluster} (hf : ∀ c, P (f c)) (hnone : P {}) {gs : List Nat}
    {g : Nat} (hg : g ∈ gs) : P ((gs.foldl (fun s g => s.updClu g f) s).clu g) := by
  induction gs using List.reverseRecOn with
  | nil => cases hg
  | append_singleton gs c ih =>
    rw [List.foldl_append, List.foldl_cons, List.foldl_nil]
    generalize gs.foldl (fun s g => s.updClu g f) s = t at ih ⊢
    by_cases hc : c = g
    · subst hc
      by_cases hlt : c < t.cl.length
      · rw [clu_updClu_same t c f hlt]
        exact hf _
      · rw [State.clu, tget, List.getD_eq_default _ _ (by simpa using hlt)]
        exact hnone
    · rw [clu_updClu_ne t c g f hc]
      exact ih (by simpa [Ne.symm hc] using hg)

theorem clusters_of_courts {q r : Partition} (h : q.courts = r.courts) : q.clusters = r.clusters := by
  have hglob : q.glob = r.glob := by
    funext c
    rw [Partition.glob, Partition.glob, h]
  rw [Partition.clusters, Partition.clusters, h, hglob]

/-- The engines of a partition have stopped. -/
theorem stopEngines_halted {g : Nat} (hg : g ∈ (s.part k).clusters) : ((s.stopEngines k).clu g).Halted := by
  have hcourts : ((s.abandonAll k).part k).courts = (s.part k).courts :=
    congrArg Prod.fst (tenure_of_charter abandonAll_charter k)
  rw [State.stopEngines, clu_updPart]
  refine clu_foldl_updClu (P := Cluster.Halted) (fun c x hx => ?_) (fun x hx => ?_) (clusters_of_courts hcourts ▸ hg)
  · obtain ⟨y, -, rfl⟩ := List.mem_map.mp hx
    exact ⟨rfl, rfl⟩
  · obtain rfl := List.eq_of_mem_replicate hx
    exact ⟨rfl, rfl⟩

/-- Every stream of every cluster stands as it did. -/
def State.SameStreams (s t : State) : Prop := ∀ g, (t.clu g).streams = (s.clu g).streams

theorem State.SameStreams.trans (h : s.SameStreams t) (h' : t.SameStreams u) : s.SameStreams u :=
  fun g => (h' g).trans (h g)

theorem State.SameStreams.of_cl (h : t.cl = s.cl) : s.SameStreams t := fun g => by rw [State.clu, h, State.clu]

theorem SameButPorts.sameStreams (h : SameButPorts s t) : s.SameStreams t := .of_cl (by rw [h])

theorem foldl_sameStreams {β : Type} {f : State → β → State} {ls : List β} (hf : ∀ t b, State.SameStreams t (f t b)) :
    s.SameStreams (ls.foldl f s) :=
  foldl_keeps s.SameStreams f ls s (fun _ => rfl) fun t b h => h.trans (hf t b)

theorem suspect_sameStreams {g : Nat} {hit : Bool} : s.SameStreams (s.suspect k g hit) := by
  unfold State.suspect
  split
  · intro j
    rw [clu_updPart]
    obtain h | ⟨-, h⟩ := clu_updClu_cases (t := s) g j fun c => { c with suspect := satAdd 0xFFFFFFFF c.suspect 1 }
    · rw [h]
    · rw [h]
  · exact fun _ => rfl

theorem readRsp_sameStreams {dst tid st : Nat} : s.SameStreams (s.readRsp k dst tid st) := by
  unfold State.readRsp
  split
  · exact route_sameButPorts.sameStreams
  · exact fun _ => rfl

theorem dropRally_sameStreams : s.SameStreams (s.dropRally k) := by
  unfold State.dropRally
  extract_lets t asks u v
  have ht : s.SameStreams t := foldl_sameStreams fun _ _ => suspect_sameStreams
  have hu : t.SameStreams u := foldl_sameStreams fun w x =>
    (updPort_sameButPorts w x _).sameStreams.trans
      (foldl_sameStreams fun _ _ => (freeBuf_sameButPorts _ _ _).sameStreams)
  have hv : u.SameStreams v := foldl_sameStreams fun _ _ => readRsp_sameStreams
  exact ht.trans (hu.trans (hv.trans (.of_cl rfl)))

theorem floodAbort_sameStreams {code : Nat} : s.SameStreams (s.floodAbort k code) := by
  unfold State.floodAbort
  split
  · exact State.SameStreams.trans (t := s.updDev _) (.of_cl rfl)
      (foldl_sameStreams fun _ _ => route_sameButPorts.sameStreams)
  · exact fun _ => rfl

/-- An error that latches stops every engine of its partition (R446). -/
theorem latch_halted {e : HwErr} {g : Nat} (h : (s.part k).mayLatch e.code = true) (hg : g ∈ (s.part k).clusters) :
    ((s.latch k e).clu g).Halted := by
  obtain ⟨v, hv⟩ : ∃ v, v = (s.updPart k (·.latched e)).stopEngines k := ⟨_, rfl⟩
  have hclusters : ((s.updPart k (·.latched e)).part k).clusters = (s.part k).clusters :=
    clusters_of_courts (part_updPart_keeps (f := (·.latched e)) (·.courts) (fun _ => rfl) k k)
  have hstopped : (v.clu g).Halted := hv ▸ stopEngines_halted (hclusters ▸ hg)
  have hafter : v.SameStreams (s.latch k e) := by
    have hup : (s.part k).stat = .up := by
      simp only [Partition.mayLatch, Bool.and_eq_true, beq_iff_eq] at h
      exact h.1
    have hlatch : s.latch k e = if e.code = 0x09 then v.dropRally k else (v.dropRally k).floodAbort k e.code := by
      rw [hv]
      simp [State.latch, State.latchAll, hup, h]
      rfl
    rw [hlatch]
    split
    · exact dropRally_sameStreams
    · exact dropRally_sameStreams.trans floodAbort_sameStreams
  rw [Cluster.Halted, hafter g]
  exact hstopped

/-! ## The line -/

/-- A line that no state but RUNNING allows (R318). -/
theorem running_of_legal {r x : Bool} (h : s.legal k false false r x = true) : (s.part k).state = 3 := by
  simp only [State.legal, Bool.and_eq_true] at h
  obtain ⟨-, h⟩ := h
  split at h
  · cases h
  · cases h
  next h3 => exact h3
  · cases h

theorem exec_abort (ht : s.takes p (.abort l p) = true) (hl : s.legal p false false true true = true)
    (hr : (s.part p).run ≠ none) :
    exec (.abort l p) s = .next ((s.latch p (errOf 0x0C 0x0B 0 2)).ok p l) := by
  have hexec : exec (.abort l p) s = .next (verbAbort l p s) := congrArg _ (atLine_takes s p _ _ ht)
  rw [hexec, verbAbort, hl, if_neg (by simpa using hr)]

/-- What `abort` leaves of a RUNNING partition (R325). -/
theorem abort_leaves (hs : s.sized = true) (hstate : (s.part p).state = 3) :
    let t := (s.latch p (errOf 0x0C 0x0B 0 2)).ok p l
    (t.part p).state = 4 ∧ (t.part p).ffCode = 0x0C ∧ (∀ g ∈ (s.part p).clusters, (t.clu g).Halted) ∧
      (∀ r, r ≠ p.val → t.part r = s.part r) ∧ (s.memOk = true → t.Abandoned s (s.inFlight p)) := by
  intro t
  have hp : p.val < s.parts.length := part_lt_length hs
  have hmay : (s.part p).mayLatch 0x0C = true := by simp [Partition.mayLatch, stat_of_running hstate, hstate]
  obtain ⟨h4, hcode, hothers, -⟩ := latch_of_running (e := errOf 0x0C 0x0B 0 2) hp hstate (by decide)
  obtain ⟨hpart, hcl, -⟩ : (s.latch p (errOf 0x0C 0x0B 0 2)).Said p t := emit_said
  have hsaid : (s.latch p (errOf 0x0C 0x0B 0 2)).Reported p t := emit_reported
  refine ⟨?_, ?_, fun g hg => ?_, fun r hr => (hsaid.others r hr).trans (hothers r hr), fun hm => ?_⟩
  · rw [hpart]
    exact h4
  · rw [hpart]
    exact hcode
  · rw [State.clu, hcl]
    exact latch_halted hmay hg
  · exact (latch_abandoned hp (memOk_iff.mp hm) hmay).of_mems ok_mems

end

/-- Settles O18: each line has its verb's effect; the reports of `halt` are written as `pumpReports_reported` says, and `abort`
latches as any error of a RUNNING partition does (`abort_leaves`). -/
theorem launchQueueGateHaltAndAbort : Obligations.LaunchQueueGateHaltAndAbort := by
  refine ⟨fun s l p b args dl done nc hl => ⟨exec_wait hl, exec_sig hl, exec_go hl, exec_go_default⟩,
    fun s l p hs => ⟨fun ht hl => ⟨_, exec_halt ht hl, halt_leaves hs⟩, fun ht hl hr _ => ⟨_, exec_abort ht hl hr, ?_⟩⟩⟩
  exact abort_leaves hs (running_of_legal hl)

end Sys2Proof.Machine

namespace Sys2Proof.Machine

/-! # Debug verbs (R261 to R265, R336, R337) -/

section

variable {s : State} {l : LineCtx} {p : Part} {legal : Bool} {body : State → State}

/-! ## When a debug verb is carried out -/

/-- A debug verb has been carried out on a partition (R417). -/
def State.debugged (s : State) (p : Nat) : State := s.updPart p fun q => { q with dbgUsed := true }

theorem debugVerb_permitted (hl : legal = true) (hd : s.debugPermitted p = true) :
    debugVerb l p legal s body = body (s.debugged p) := by
  rw [debugVerb, hl, hd]
  rfl

/-- STATE comes before DEBUG (R284). -/
theorem debugVerb_ignored : (legal = false → debugVerb l p legal s body = s.ignore p l .state) ∧
    (legal = true → s.debugPermitted p = false → debugVerb l p legal s body = s.ignore p l .debug) := by
  refine ⟨fun hl => ?_, fun hl hd => ?_⟩
  · rw [debugVerb, hl]
    rfl
  · rw [debugVerb, hl, hd]
    rfl

/-! ## break, step, cont -/

theorem armBreak_ok {b : Brk} {ok : Bool} (hl : s.legal p true true true true = true) (hd : s.debugPermitted p = true)
    (hok : ok = true) : armBreak l p ok b s =
      if (s.part p).breaks.length < 4 then ((s.debugged p).updPart p fun q => { q with breaks := q.breaks ++ [b] }).ok p l
      else s.no p l "full" := by
  rw [armBreak, debugVerb_permitted hl hd, hok, if_neg (by decide)]
  simp only [ge_iff_le, ← Nat.not_lt, ite_not]

theorem exec_breakCount {cl st n : Nat} (hd : s.debugPermitted p = true) (hl : s.legal p true true true true = true)
    (ht : s.takes p (.breakCount l p cl st n) = true) (hc : s.clOk p cl st = true) (hn : 1 ≤ n) (hn' : n < 2 ^ 32) :
    exec (.breakCount l p cl st n) s = .next (
      if (s.part p).breaks.length < 4 then
        ((s.debugged p).updPart p fun q => { q with breaks := q.breaks ++ [.count cl st n] }).ok p l
      else s.no p l "full") := by
  have hexec : exec (.breakCount l p cl st n) s = .next (verbBreakCount l p cl st n s) :=
    congrArg _ (atLine_takes s p _ _ ht)
  rw [hexec, verbBreakCount, armBreak_ok hl hd (by simp [hc, hn, show n < 4294967296 from hn'])]

theorem exec_breakTag {tag : Nat} (hd : s.debugPermitted p = true) (hl : s.legal p true true true true = true)
    (ht : s.takes p (.breakTag l p tag) = true) (htag : tag ≤ 65535) :
    exec (.breakTag l p tag) s = .next (
      if (s.part p).breaks.length < 4 then
        ((s.debugged p).updPart p fun q => { q with breaks := q.breaks ++ [.tag tag] }).ok p l
      else s.no p l "full") := by
  have hexec : exec (.breakTag l p tag) s = .next (verbBreakTag l p tag s) := congrArg _ (atLine_takes s p _ _ ht)
  rw [hexec, verbBreakTag, armBreak_ok hl hd (decide_eq_true htag)]

theorem exec_breakDrop (hd : s.debugPermitted p = true) (hl : s.legal p true true true true = true)
    (ht : s.takes p (.breakDrop l p) = true) :
    exec (.breakDrop l p) s = .next (((s.debugged p).updPart p fun q => { q with breaks := [] }).ok p l) := by
  have hexec : exec (.breakDrop l p) s = .next (verbBreakDrop l p s) := congrArg _ (atLine_takes s p _ _ ht)
  rw [hexec, verbBreakDrop, debugVerb_permitted hl hd]

theorem exec_breakStopped {r : Running} {c : List (Nat × Nat)} {o : Bool} (hr : (s.part p).run = some r)
    (hstop : r.stop = .stopping c o) (hup : (s.part p).stat = .up) :
    exec (.breakStopped p) s =
      .next ((s.setStop p (.stopped none)).emit p r.la.ctx.uart (evLine r.la.ctx [asc "break"])) := by
  have hstopping : r.stopping = true := by rw [Running.stopping, hstop]
  change execBreakStopped p s = _
  rw [execBreakStopped, hr]
  dsimp only
  rw [if_pos ⟨hstopping, hup⟩]
  rfl

theorem exec_step {cl st n : Nat} (hd : s.debugPermitted p = true) (hl : s.legal p false false false true = true)
    (ht : s.takes p (.step l p cl st n) = true) (hc : s.clOk p cl st = true) (hn : 1 ≤ n) (hn' : n ≤ 65535) :
    exec (.step l p cl st n) s = .next (((s.debugged p).setStop p (.stopped (some (cl, st, n)))).ok p l) := by
  have hexec : exec (.step l p cl st n) s = .next (verbStep l p cl st n s) := congrArg _ (atLine_takes s p _ _ ht)
  rw [hexec, verbStep, debugVerb_permitted hl hd, if_neg (by simp [hc, hn, hn'])]

theorem exec_cont (hd : s.debugPermitted p = true) (hl : s.legal p false false false true = true)
    (ht : s.takes p (.cont l p) = true) : exec (.cont l p) s = .next (((s.debugged p).setStop p .running).ok p l) := by
  have hexec : exec (.cont l p) s = .next (verbCont l p s) := congrArg _ (atLine_takes s p _ _ ht)
  rw [hexec, verbCont, debugVerb_permitted hl hd]

/-! ## peek and poke -/

variable {what : DbgTarget} {cl r v : Nat} {st : Option Nat}

/-- The state that a `peek` reads: time may have passed where a launch runs. -/
def State.peeked (s : State) (p g : Nat) : State :=
  if (s.part p).run = none then s.debugged p else (s.debugged p).passTime g

/-- Time moves timers and event counters alone (R169, R170). -/
theorem clu_peeked (hs : s.sized = true) (g : Clu) : (s.peeked p g).clu g =
    { s.clu g with w := ((s.peeked p g).clu g).w, e := ((s.peeked p g).clu g).e } := by
  unfold State.peeked
  split
  · rfl
  · exact passTime_clu (s := s.debugged p) (updPart_sized hs id)

theorem dbgRange_of_lt {reg : Nat} (hcl : cl < 12 * (s.part p).courts.length) (hst : st.getD 0 ≤ 4)
    (hr : reg < (dbgSize what).1) : s.dbgRange p cl what st (some reg) none = true := by
  simp [State.dbgRange, State.clOk, hcl, hst, hr]

/-- A `peek` of registers and regions shows what stands there, though time has passed. -/
theorem peekLines_peeked {reg a n k : Nat} (hs : s.sized = true) (g : Clu)
    (hwhat : what ∈ [DbgTarget.a, .l, .t, .region]) :
    peekLines ((s.peeked p g).clu g) what k reg a n = peekLines (s.clu g) what k reg a n := by
  rw [clu_peeked hs g]
  simp only [List.mem_cons, List.not_mem_nil, or_false] at hwhat
  obtain rfl | rfl | rfl | rfl := hwhat
  · rfl
  · rfl
  · rfl
  · rfl

/-- The cluster that a debug line names is one of the device (R10). -/
theorem glob_lt_clusters (hs : s.sized = true) (hc : s.courtsOk = true) (hcl : cl < 12 * (s.part p).courts.length) :
    (s.part p).glob cl < 96 := by
  obtain ⟨-, -, -, h96, -⟩ := sized_iff.mp hs
  rw [← h96]
  exact glob_lt hs hc (by simpa [Partition.clusters] using hcl)

/-- `peek` of a register or a region (R337). -/
theorem exec_peek (hs : s.sized = true) (hc : s.courtsOk = true) (hd : s.debugPermitted p = true)
    (hl : s.peekState p = true) (hcl : cl < 12 * (s.part p).courts.length) (hst : st.getD 0 ≤ 4)
    (hwhat : what ∈ [DbgTarget.a, .l, .t, .region]) (hmiss : dbgMissing what st (some r) none = false)
    (ht : s.takes p (.peek l p cl what st (some r) none none) = true) (hr : r < (dbgSize what).1) :
    exec (.peek l p cl what st (some r) none none) s = .next ((s.peeked p ((s.part p).glob cl)).replies p l
      (peekLines (s.clu ((s.part p).glob cl)) what (st.getD 0) r 0 64) []) := by
  have hexec : exec (.peek l p cl what st (some r) none none) s = .next (verbPeek l p cl what st (some r) none none s) :=
    congrArg _ (atLine_takes s p _ _ ht)
  have hrun : (if (s.part p).run.isSome = true then (s.debugged p).passTime ((s.part p).glob cl) else s.debugged p) =
      s.peeked p ((s.part p).glob cl) := by
    rw [State.peeked]
    cases (s.part p).run <;> rfl
  have hsp : what ≠ .sp := by rintro rfl; simp at hwhat
  have hlines := peekLines_peeked (p := p) (k := st.getD 0) (reg := r) (a := 0) (n := 64) hs
    ⟨(s.part p).glob cl, glob_lt_clusters hs hc hcl⟩ hwhat
  rw [hexec, verbPeek, hmiss, if_neg (by decide), debugVerb_permitted hl hd, ← hlines]
  simp [dbgRange_of_lt hcl hst hr, hsp, hrun]

/-- `poke` of a register with a number, its value in range or not (R265). -/
theorem exec_poke (hd : s.debugPermitted p = true) (hl : s.peekState p = true)
    (ht : s.takes p (.poke l p cl what st (some r) none (some v) none) = true) (hcl : cl < 12 * (s.part p).courts.length)
    (hst : st.getD 0 ≤ 4) (hr : r < (dbgSize what).1) (hwhat : what ∈ [DbgTarget.a, .t, .e])
    (hmiss : dbgMissing what st (some r) none = false) :
    exec (.poke l p cl what st (some r) none (some v) none) s = .next (
      if v < 2 ^ (dbgSize what).2 ∧ (what = .e → pokeModeOk v = true) then
        ((s.debugged p).updClu ((s.part p).glob cl) fun k => pokeCluster k what (st.getD 0) r 0 v none).ok p l
      else s.no p l "range") := by
  have hexec : exec (.poke l p cl what st (some r) none (some v) none) s =
      .next (verbPoke l p cl what st (some r) none (some v) none s) := congrArg _ (atLine_takes s p _ _ ht)
  have hne : what ≠ .sp ∧ what ≠ .region ∧ what ≠ .q ∧ what ≠ .l := by
    cases what <;> simp_all
  obtain ⟨hsp, hregion, hq, hlc⟩ := hne
  rw [hexec, verbPoke, hmiss]
  simp only [debugVerb_permitted hl hd, dbgRange_of_lt hcl hst hr]
  by_cases hok : v < 2 ^ (dbgSize what).2 ∧ (what = .e → pokeModeOk v = true)
  · rw [if_pos hok]
    obtain ⟨hlt, hmode⟩ := hok
    have hmode' : (what != .e || pokeModeOk v) = true := by simpa [imp_iff_not_or] using hmode
    simp [hsp, hregion, hq, hlc, hlt, hmode']
  · rw [if_neg hok]
    have hbad : (decide (v < 2 ^ (dbgSize what).2) && (what != .e || pokeModeOk v)) = false := by
      simpa [imp_iff_not_or] using hok
    simp [hsp, hregion, hq, hbad]

/-! ## Each debug verb -/

theorem armBreak_debugVerb {ok : Bool} {b : Brk} :
    ∃ body, armBreak l p ok b s = debugVerb l p (s.legal p true true true true) s body := ⟨_, rfl⟩

theorem verbPeek_debugVerb (hmiss : dbgMissing what st (some r) none = false) :
    ∃ body, verbPeek l p cl what st (some r) none none s = debugVerb l p (s.peekState p) s body := by
  unfold verbPeek
  rw [hmiss]
  exact ⟨_, if_neg (by decide)⟩

theorem verbPoke_debugVerb (hwhat : (what == .region || what == .q) = false)
    (hmiss : dbgMissing what st (some r) none = false) :
    ∃ body, verbPoke l p cl what st (some r) none (some v) none s = debugVerb l p (s.peekState p) s body := by
  unfold verbPoke
  rw [hmiss, hwhat]
  exact ⟨_, (if_neg Bool.false_ne_true).trans ((if_neg Bool.false_ne_true).trans (if_neg Bool.false_ne_true))⟩

/-- A line of a debug verb that takes effect. -/
theorem line_debugVerb {c : Instr} {verb : State → State} (hc : exec c s = .next (s.atLine p c verb))
    (ht : s.takes p c = true) (h : ∃ body, verb s = debugVerb l p legal s body) :
    ∃ body, exec c s = .next (debugVerb l p legal s body) := by
  obtain ⟨body, hbody⟩ := h
  exact ⟨body, by rw [hc, atLine_takes s p c verb ht, hbody]⟩

/-- Each of the debug verbs is carried out where the state of its partition allows it. -/
theorem exec_debugVerb {st n tag : Nat} {c : Instr} (ht : s.takes p c = true)
    (hc : (legal = s.legal p true true true true ∧ c ∈ [.breakCount l p cl st n, .breakTag l p tag, .breakDrop l p]) ∨
      (legal = s.legal p false false false true ∧ c ∈ [.step l p cl st n, .cont l p]) ∨
      (legal = s.peekState p ∧ c ∈
        [.peek l p cl .a (some st) (some r) none none, .peek l p cl .l (some st) (some r) none none,
         .peek l p cl .t none (some r) none none, .peek l p cl .region none (some r) none none,
         .poke l p cl .a (some st) (some r) none (some v) none, .poke l p cl .t none (some r) none (some v) none,
         .poke l p cl .e none (some r) none (some v) none])) :
    ∃ body, exec c s = .next (debugVerb l p legal s body) := by
  simp only [List.mem_cons, List.not_mem_nil, or_false] at hc
  obtain ⟨rfl, rfl | rfl | rfl⟩ | ⟨rfl, rfl | rfl⟩ | ⟨rfl, rfl | rfl | rfl | rfl | rfl | rfl | rfl⟩ := hc
  · exact line_debugVerb rfl ht armBreak_debugVerb
  · exact line_debugVerb rfl ht armBreak_debugVerb
  · exact line_debugVerb rfl ht ⟨_, rfl⟩
  · exact line_debugVerb rfl ht ⟨_, rfl⟩
  · exact line_debugVerb rfl ht ⟨_, rfl⟩
  · exact line_debugVerb rfl ht (verbPeek_debugVerb rfl)
  · exact line_debugVerb rfl ht (verbPeek_debugVerb rfl)
  · exact line_debugVerb rfl ht (verbPeek_debugVerb rfl)
  · exact line_debugVerb rfl ht (verbPeek_debugVerb rfl)
  · exact line_debugVerb rfl ht (verbPoke_debugVerb rfl rfl)
  · exact line_debugVerb rfl ht (verbPoke_debugVerb rfl rfl)
  · exact line_debugVerb rfl ht (verbPoke_debugVerb rfl rfl)

end

/-- Settles O23: each line has its verb's effect, a debug verb once its partition is in a state that allows it and debug verbs
are permitted there (`debugVerb_permitted`, `debugVerb_ignored`). -/
theorem debugVerbs : Obligations.DebugVerbs := by
  refine ⟨fun s l p cl st n tag hd => ⟨fun hl => ⟨exec_breakCount hd hl, exec_breakTag hd hl, exec_breakDrop hd hl⟩,
    fun r c o => exec_breakStopped, fun hl => ⟨exec_step hd hl, exec_cont hd hl⟩⟩,
    fun s l p cl st r v hs hc hl hcl hst => ?_, fun s l p cl st n tag r v c legal hc ht => ?_⟩
  · intro g used later hd
    have hst' : (some st).getD 0 ≤ 4 := hst
    have hst0 : (none : Option Nat).getD 0 ≤ 4 := Nat.zero_le 4
    refine ⟨exec_peek hs hc hd hl hcl hst' (by decide) rfl, exec_peek hs hc hd hl hcl hst0 (by decide) rfl,
      exec_peek hs hc hd hl hcl hst' (by decide) rfl, exec_peek hs hc hd hl hcl hst0 (by decide) rfl,
      fun ht hr hv => ?_, fun ht hr hv => ?_, fun ht hr hv hm => ?_, fun ht hr hv => ?_⟩
    · exact (exec_poke hd hl ht hcl hst' hr (by decide) rfl).trans (congrArg _ (if_pos ⟨hv, nofun⟩))
    · exact (exec_poke hd hl ht hcl hst0 hr (by decide) rfl).trans (congrArg _ (if_pos ⟨hv, nofun⟩))
    · exact (exec_poke hd hl ht hcl hst0 hr (by decide) rfl).trans (congrArg _ (if_pos ⟨hv, fun _ => hm⟩))
    · exact (exec_poke hd hl ht hcl hst' hr (by decide) rfl).trans (congrArg _ (if_neg fun h => Nat.not_lt.mpr hv h.1))
  · obtain ⟨body, hexec⟩ := exec_debugVerb ht hc
    rw [hexec]
    exact ⟨fun hl => congrArg _ (debugVerb_ignored.1 hl), fun hl hd => congrArg _ (debugVerb_ignored.2 hl hd)⟩

end Sys2Proof.Machine

namespace Sys2Proof.Machine

/-! # The queue and the device window's reports -/

section

variable {s : State} {l : LineCtx}

/-- A write of the flash and a poisoned line in a court cache are all that goes on by itself. -/
theorem tick_of_nothing_pending (hf : s.dev.fw = none) (hp : ∀ e ∈ s.poison, e.2 ≠ some .held) : s.tick = s :=
  tick_idle s hf (List.all_eq_true.mpr fun e he => bne_iff_ne.mpr (hp e he))

end

/-- Settles O1: `step` by the two cases of the queue; where nothing is under way, `tick` changes nothing. -/
theorem stepRunsTheFrontCommand : Obligations.StepRunsTheFrontCommand := by
  refine ⟨fun c s rest => rfl, fun s hq => ?_⟩
  have hstep : step s = .next s.tick := by
    unfold step
    rw [hq]
  exact ⟨hstep, fun hf hp => by rw [hstep, tick_of_nothing_pending hf hp]⟩

end Sys2Proof.Machine

namespace Sys2Proof.Machine

/-! # The device window's reports, `echo` and `reset` (R302, R313 to R317) -/

section

variable {s : State} {l : LineCtx}

/-! ## hello and the change of rate (R271, R302) -/

/-- The keys of the reply to `hello`. -/
def State.helloKeys (s : State) : List (List Byte) :=
  [kv "part" s.partName, asc "step=a1", kv "fw" (versionText s.running), kv "rack" (rackText s.dev.rack),
    kb "ready" s.dev.ready, kv "df" (hex2 (s.dev.dfault.getD 0))]

theorem baudOk_iff {b : Nat} : baudOk b = true ↔ b ∈ [115200, 921600, 3000000, 6000000, 12000000] := List.contains_iff_mem

theorem exec_hello (ht : s.takes 8 (.hello l none) = true) : exec (.hello l none) s = .next (s.ok 8 l s.helloKeys) :=
  congrArg _ (atLine_takes s 8 _ _ ht)

theorem exec_hello_baud {b : Nat} (ht : s.takes 8 (.hello l (some b)) = true) :
    exec (.hello l (some b)) s = .next (
      if b ∈ [115200, 921600, 3000000, 6000000, 12000000] then
        (s.ok 8 l s.helloKeys).updUart fun u => { u with newBaud := some b }
      else s.no 8 l "range") := by
  have hexec : exec (.hello l (some b)) s = .next (verbHello l (some b) s) := congrArg _ (atLine_takes s 8 _ _ ht)
  rw [hexec, verbHello, Option.any_some]
  by_cases hb : baudOk b = true
  · rw [if_pos (baudOk_iff.mp hb), hb]
    rfl
  · rw [if_neg (baudOk_iff.not.mp hb), Bool.eq_false_iff.mpr hb]
    rfl

/-- The rate changes once nothing waits to be transmitted. -/
theorem exec_uartBaudSwitch {b : Nat} (hb : s.uart.newBaud = some b) (htx : s.uart.tx = []) :
    exec .uartBaudSwitch s = .next (s.updUart fun u => { u with baud := b, newBaud := none }) := by
  change Host.Outcome.next _ = _
  rw [hb, htx]
  rfl

theorem exec_uartBaudSwitch_waits (htx : s.uart.tx ≠ []) : exec .uartBaudSwitch s = .next s := by
  have hne : s.uart.tx.isEmpty = false := List.isEmpty_eq_false_iff.mpr htx
  change Host.Outcome.next _ = _
  rw [hne]
  cases s.uart.newBaud <;> rfl

/-! ## stat and temp (R313, R314) -/

/-- What `stat what=parts` reports of a partition. -/
def State.partKeys (s : State) (p : Nat) : List (List Byte) :=
  [nameN "p" p, kv "courts" (courtList (s.part p).courts), kv "state" (s.part p).stateName, kb "lock" (s.part p).locked,
    kn "mhz" (s.part p).mhz]

/-- FREE partitions have no line. -/
theorem filterMap_partKeys {ps : List Nat} :
    ps.filterMap (fun p => if (s.part p).stat = .free then none else some (s.partKeys p)) =
      (ps.filter fun p => (s.part p).stat != .free).map s.partKeys := by
  rw [← List.filterMap_eq_map, List.filterMap_filter]
  refine List.filterMap_congr fun p _ => ?_
  by_cases h : (s.part p).stat = .free <;> simp [h]

theorem exec_statParts (ht : s.takes 8 (.statParts l) = true) :
    exec (.statParts l) s = .next (s.replies 8 l
      (([0, 1, 2, 3, 4, 5, 6, 7].filter fun p => (s.part p).stat != .free).map s.partKeys) []) := by
  have hexec : exec (.statParts l) s = .next (verbStatParts l s) := congrArg _ (atLine_takes s 8 _ _ ht)
  rw [hexec, ← filterMap_partKeys]
  rfl

/-- During boot without a device fault `temp` and `reset` are ignored. -/
theorem ready_or_fault (h : s.dev.ready = true ∨ s.dev.dfault ≠ none) : (s.dev.ready || s.dev.dfault.isSome) = true := by
  simpa [Option.isSome_iff_ne_none] using h

theorem exec_temp (ht : s.takes 8 (.temp l) = true) (h : s.dev.ready = true ∨ s.dev.dfault ≠ none) :
    exec (.temp l) s = .next (s.ok 8 l
      ([kv "max" (decI s.tempMax)] ++
        ([0, 1, 2, 3, 4, 5, 6, 7].map fun c => nameN "c" c ++ asc "=" ++ decI ((tget none s.dev.temps c).getD 0)) ++
        [kv "mgmt" (decI ((tget none s.dev.temps 8).getD 0)), asc "trip=110"])) := by
  have hexec : exec (.temp l) s = .next (verbTemp l s) := congrArg _ (atLine_takes s 8 _ _ ht)
  rw [hexec, verbTemp, ready_or_fault h]
  rfl

/-! ## echo and reset (R285, R315, R317) -/

theorem exec_echo {on : Bool} (ht : s.takes 8 (.echo l on) = true) (hr : s.isReady = true) :
    exec (.echo l on) s =
      .next ((s.updUart fun u => { u with echo := on, lines := if on then 0 else u.lines }).ok 8 l) := by
  have hexec : exec (.echo l on) s = .next (verbEcho l on s) := congrArg _ (atLine_takes s 8 _ _ ht)
  rw [hexec, verbEcho, hr]
  rfl

theorem exec_resetCommand (ht : s.takes 8 (.resetCommand l) = true) (h : s.dev.ready = true ∨ s.dev.dfault ≠ none) :
    exec (.resetCommand l) s = .next ((s.ok 8 l).updDev fun d => { d with
      resetIn := d.resetIn ++
        [(l.uart, if s.held8 l.uart < (s.ok 8 l).held8 l.uart then (s.ok 8 l).held8 l.uart else 0)] }) := by
  have hexec : exec (.resetCommand l) s = .next (verbReset l s) := congrArg _ (atLine_takes s 8 _ _ ht)
  rw [hexec, verbReset, ready_or_fault h]
  rfl

/-- A `reset` whose reply has left resets the device. -/
theorem exec_resetCommandFire {on : Bool} (hm : (on, 0) ∈ s.dev.resetIn) :
    exec .resetCommandFire s = .next (s.assert .resetN) :=
  congrArg _ (if_pos (List.any_eq_true.mpr ⟨_, hm, rfl⟩))

theorem exec_resetCommandFire_waits (hm : ∀ r ∈ s.dev.resetIn, r.2 ≠ 0) : exec .resetCommandFire s = .next s :=
  congrArg _ (if_neg fun h => by
    obtain ⟨r, hr, h0⟩ := List.any_eq_true.mp h
    exact hm r hr (beq_iff_eq.mp h0))

/-! ## What leaves a transport (R269, R274, R317) -/

/-- The replies to `reset` of one transport lose what has left it, those of the other stay. -/
theorem mem_replyLeft {d : Device} {on uart : Bool} {n k : Nat} (hm : (on, n) ∈ d.resetIn) :
    (on, if on = uart then n - k else n) ∈ (d.replyLeft uart k).resetIn := by
  refine List.mem_map.mpr ⟨_, hm, ?_⟩
  by_cases h : on = uart <;> simp [h]

/-- CMD_RTS_N asserted sends what waits, none of it under EXTEST. -/
theorem exec_cmdRtsN_sends (htx : s.uart.tx ≠ []) :
    exec (.cmdRtsN true) s =
      .next ((((if s.extest then s else s.send (.uart s.uart.tx)).updUart fun u => { u with rts := true, tx := [] })).updDev
        (·.replyLeft true s.uart.tx.length)) := by
  have hne : s.uart.tx.isEmpty = false := List.isEmpty_eq_false_iff.mpr htx
  have htxd : (s.updUart fun u => { u with rts := true }).txd s.uart.tx =
      (if s.extest then s else s.send (.uart s.uart.tx)).updUart fun u => { u with rts := true } := by
    unfold State.txd
    change (if s.extest = true then _ else _) = _
    split <;> rfl
  change Host.Outcome.next (if (true && !s.uart.tx.isEmpty) = true then
    (((s.updUart fun u => { u with rts := true }).txd s.uart.tx).updUart fun u => { u with tx := [] }).updDev
      (·.replyLeft true s.uart.tx.length) else _) = _
  rw [hne, htxd]
  rfl

theorem exec_cmdRtsN_quiet {on : Bool} (htx : s.uart.tx = []) :
    exec (.cmdRtsN on) s = .next (s.updUart fun u => { u with rts := on }) := by
  refine congrArg _ (if_neg ?_)
  change ¬ (on && !s.uart.tx.isEmpty) = true
  simp [htx]

/-- A read of REPLYOUT that w8's page serves takes bytes of its reply buffer. -/
theorem exec_replyoutRead_w8 {sid : Sid} {n : Nat} (hd : s.host.dlUp = true) (ho : s.pageOpen 8 sid = true) (h1 : 1 ≤ n)
    (h64 : n ≤ 64) :
    exec (.replyoutRead 8 sid 0x40 n) s = .next ((((s.updDev (·.replyLeft false n)).updWin 8 fun q =>
      { q with reply := q.reply.drop n }).send
        (.data ((s.win 8).reply.take n ++ List.replicate (n - ((s.win 8).reply.take n).length) 0) false))) := by
  refine congrArg _ ((if_neg ?_).trans (if_neg ?_))
  · simp [hd]
    omega
  · simpa using ho

end

/-- Settles O11: each line has its verb's effect; the bytes that a reply to `reset` waits for become fewer as they leave
(`mem_replyLeft`). -/
theorem deviceWindowReports : Obligations.DeviceWindowReports := by
  refine ⟨fun s l b => ⟨exec_hello, fun ht hb => ?_, fun ht hb => ?_, exec_uartBaudSwitch, exec_uartBaudSwitch_waits⟩,
    fun s l => ⟨fun ht => congrArg _ (atLine_takes s 8 _ _ ht), exec_statParts,
      fun ht => congrArg _ (atLine_takes s 8 _ _ ht), fun ht => congrArg _ (atLine_takes s 8 _ _ ht), exec_temp⟩,
    fun s l on sid n k => ⟨exec_echo, exec_resetCommand, fun hm => ⟨?_, fun htx => ?_, fun hd ho h1 h64 => ?_⟩,
      exec_resetCommandFire_waits⟩⟩
  · exact (exec_hello_baud ht).trans (congrArg _ (if_pos hb))
  · exact (exec_hello_baud ht).trans (congrArg _ (if_neg hb))
  · rintro rfl
    exact exec_resetCommandFire hm
  · refine ⟨_, exec_cmdRtsN_sends htx, ?_⟩
    have hdev : (((if s.extest then s else s.send (.uart s.uart.tx)).updUart fun u => { u with rts := true, tx := [] })).dev =
        s.dev := by
      split <;> rfl
    rw [updDev_dev, hdev]
    exact mem_replyLeft hm
  · refine ⟨_, exec_replyoutRead_w8 hd ho h1 h64, ?_⟩
    have hleft := mem_replyLeft (uart := false) (k := k) hm
    cases on <;> exact hleft

end Sys2Proof.Machine

namespace Sys2Proof.Machine

/-! # The UART (R272 to R274) -/

section

variable {s : State} {b : Byte} {text : List Byte}

/-! ## A byte arrives -/

theorem stage_ne_zero_of_not_mute (hm : s.mute = false) : s.dev.stage ≠ 0 := by
  simp only [State.mute, Bool.or_eq_false_iff, beq_eq_false_iff_ne] at hm
  exact hm.1

/-- The UART with one more byte: without echo it enters the FIFO, or marks its line. -/
def Uart.received (u : Uart) (b : Byte) : Uart :=
  if fifoCount u.rx ≥ 1024 then { u with rx := u.rx ++ [.overrun] }
  else (Uart.assemble { u with rx := u.rx ++ [FifoItem.byte b] }).flow

theorem exec_uartByteReceive (hm : s.mute = false) (he : s.uart.echo = false) :
    exec (.uartByteReceive b) s = .next (s.updUart (·.received b)) := by
  refine congrArg _ ((if_neg (stage_ne_zero_of_not_mute hm)).trans ?_)
  rw [he]
  rfl

theorem assemble_cts {u : Uart} : u.assemble.cts = u.cts := by
  unfold Uart.assemble
  split <;> rfl

theorem received_cts {u : Uart} (h : fifoCount u.rx < 1024) :
    (u.received b).cts =
      if fifoCount (u.received b).rx ≥ 768 then false else if fifoCount (u.received b).rx < 256 then true else u.cts := by
  rw [Uart.received, if_neg (Nat.not_le.mpr h), Uart.flow]
  dsimp only
  rw [assemble_cts]

/-- Bytes come out of a FIFO as they went in, but for CR. -/
theorem fifoBytes_map_byte (h : ∀ b ∈ text, b ≠ 13) : fifoBytes (text.map .byte) = text := by
  rw [fifoBytes, List.filterMap_map]
  refine (List.filterMap_congr fun b hb => ?_).trans List.filterMap_some
  exact if_neg (h b hb)

/-- An assembler that is at leisure takes a byte within a line at once. -/
theorem received_asm {u : Uart} (hrx : u.rx = []) (hf : u.full = false) (h10 : b ≠ 10) (h13 : b ≠ 13) :
    (u.received b).asm = u.asm ++ [b] ∧ (u.received b).rx = [] := by
  have hfull : ({ u with rx := [FifoItem.byte b] } : Uart).full = false := hf
  have hlf : (FifoItem.byte b != .byte 10#8) = true := by simpa using h10
  have hbytes : fifoBytes [FifoItem.byte b] = [b] := fifoBytes_map_byte (text := [b]) (by simpa using h13)
  have hcount : ¬ fifoCount u.rx ≥ 1024 := by
    rw [hrx]
    decide
  rw [Uart.received, if_neg hcount, hrx, List.nil_append, Uart.assemble, if_neg (Bool.eq_false_iff.mp hfull)]
  simp [hlf, hbytes, Uart.flow]

/-! ## A line is complete -/

/-- The UART once its line, the next by number, has been handed over. -/
def Uart.handedOver (u : Uart) : Uart := ({ u with asm := [], asmOver := false, lines := u.lines + 1 } : Uart).assemble.flow

/-- Without bytes in the receive FIFO the assembler is then empty. -/
theorem handedOver_asm {u : Uart} (hrx : u.rx = []) : u.handedOver.asm = [] := by
  have hfull : ({ u with asm := [], asmOver := false, lines := u.lines + 1 } : Uart).full = false := rfl
  rw [Uart.handedOver, Uart.assemble, if_neg (Bool.eq_false_iff.mp hfull), hrx]
  rfl

theorem handedOver_lines {u : Uart} : u.handedOver.lines = u.lines + 1 := by
  unfold Uart.handedOver Uart.assemble
  split <;> rfl

theorem full_of_asm {u : Uart} (ha : u.asm = text ++ [10]) : u.full = true := by
  rw [Uart.full, ha, List.getLast?_concat]
  rfl

/-- A complete line whose window stands at a line boundary goes there (R273). -/
theorem exec_uartLineHandoff {w : Nat} {line : List Byte} (hm : s.mute = false) (ha : s.uart.asm = text ++ [10])
    (ho : s.uart.asmOver = false) (ht : uartTarget text = some (w, line)) (hb : s.boundary w = true) :
    exec .uartLineHandoff s = .next ((s.updUart (·.handedOver)).updWin w fun q =>
      { q with uline := some { bytes := line, uart := true, num := s.uart.lines + 1 } }) := by
  change Host.Outcome.next (if (!s.uart.full || s.mute) = true then _ else _) = _
  rw [full_of_asm ha, hm, ho, ha, List.dropLast_concat, ht]
  exact congrArg _ (if_pos hb)

/-- A line that names no window in front of its colon, and has nothing else wrong with its bytes, is ignored in w8 (R272). -/
theorem exec_uartLineHandoff_prefix (hm : s.mute = false) (ha : s.uart.asm = text ++ [10]) (ho : s.uart.asmOver = false)
    (ht : uartTarget text = none) (hlen : text.length < 200) (hbad : hasBadChar text = false)
    (hmac : (splitMac text).2 = none) :
    exec .uartLineHandoff s =
      .next ((s.updUart (·.handedOver)).ignore 8 { uart := true, num := s.uart.lines + 1 } .pfx) := by
  have hbreaks : RawLine.breaks { bytes := text, uart := true } = [] := by
    simp [RawLine.breaks, hbad, Nat.not_le.mpr hlen]
  change Host.Outcome.next (if (!s.uart.full || s.mute) = true then _ else _) = _
  rw [full_of_asm ha, hm, ho, ha, List.dropLast_concat, ht]
  dsimp only
  rw [hmac, hbreaks]
  rfl

/-! ## Where a line goes (R272) -/

/-- A digit 0 to 7 before the colon names a window, another byte names none. -/
theorem uartTarget_colon {d : Byte} {r : List Byte} :
    uartTarget (112 :: d :: 58 :: r) =
      if 48 ≤ d.toNat ∧ d.toNat ≤ 55 then some (d.toNat - 48, r.dropWhile isSpace) else none := rfl

theorem uartTarget_prefix {w : Fin 8} (h : text.take 3 = [112, byteOf (48 + w), 58]) :
    uartTarget text = some (w.val, (text.drop 3).dropWhile isSpace) := by
  have hd : (byteOf (48 + w)).toNat = 48 + w := by
    rw [BitVec.toNat_ofNat]
    omega
  obtain ⟨r, rfl⟩ : ∃ r, text = 112 :: byteOf (48 + w) :: 58 :: r :=
    ⟨text.drop 3, by rw [← List.take_append_drop 3 text, h]; rfl⟩
  have hw : 48 ≤ (byteOf (48 + w)).toNat ∧ (byteOf (48 + w)).toNat ≤ 55 := by omega
  rw [uartTarget_colon, if_pos hw, hd, Nat.add_sub_cancel_left]
  rfl

theorem uartTarget_plain (h : ∀ a r, text ≠ 112 :: a :: 58 :: r) : uartTarget text = some (8, text) := by
  unfold uartTarget
  split
  case h_1 a d c r =>
    refine if_neg ?_
    rintro ⟨rfl, rfl⟩
    exact h d r rfl
  case h_2 => rfl

theorem uartTarget_other {d : Byte} {r : List Byte} (hd : d.toNat < 48 ∨ 55 < d.toNat) :
    uartTarget (112 :: d :: 58 :: r) = none :=
  uartTarget_colon.trans (if_neg (by omega))

/-- An ignored line is counted by its window, with its reason. -/
theorem win_ignore {w : Nat} {l : LineCtx} {why : Why} (hw : w < s.windows.length) :
    (s.ignore w l why).win w =
      { s.win w with ign := satAdd 0xFFFFFFFF (s.win w).ign 1, ignWhy := why.code } := by
  rw [ignore_frame]
  exact tget_modify_same _ _ _ _ hw

end

/-- Settles O27: a byte goes through `Uart.received`, a complete line where `uartTarget` says, what waits is sent as
`exec_cmdRtsN_sends` says. -/
theorem uartReceivesAndRoutes : Obligations.UartReceivesAndRoutes := by
  intro s b d text on hs hm
  have hwin : s.windows.length = 9 := (sized_iff.mp hs).1
  refine ⟨fun he => ⟨_, exec_uartByteReceive hm he, rfl, rfl, fun hfull => if_pos hfull, received_cts,
    received_asm⟩, fun ha ho hrx => ⟨fun w ht hb => ?_, fun ht hb => ?_, fun r ht hd hlen hbad hmac => ?_⟩,
    exec_cmdRtsN_quiet, exec_cmdRtsN_sends, fun u n => ?_⟩
  · refine ⟨_, exec_uartLineHandoff hm ha ho (uartTarget_prefix ht) hb, handedOver_asm hrx, handedOver_lines, ?_⟩
    rw [win_updWin_same _ _ _ (by rw [updUart_windows, hwin]; omega)]
  · refine ⟨_, exec_uartLineHandoff hm ha ho (uartTarget_plain ht) hb, handedOver_asm hrx, ?_⟩
    rw [win_updWin_same _ _ _ (by rw [updUart_windows, hwin]; omega)]
  · subst ht
    refine ⟨_, exec_uartLineHandoff_prefix hm ha ho (uartTarget_other hd) hlen hbad hmac, ?_⟩
    rw [win_ignore (by rw [updUart_windows, hwin]; omega)]
    exact ⟨rfl, rfl⟩
  · simp [Device.replyLeft]

end Sys2Proof.Machine

namespace Sys2Proof.Machine

/-! # Settings (R290 to R292, R326 to R328) -/

section

variable {s : State} {l : LineCtx} {p : Part} {idx : Nat}

theorem exec_set {nc : NcItems} {dl : Nat} (hl : s.legal p true true true true = true)
    (ht : s.takes p (.set l p (some nc) (some dl)) = true) (h1 : 1 ≤ dl) (h60 : dl ≤ 60000000)
    (hnc : ∀ v, nc.flush = some v ∨ nc.sat = some v → v ≤ 1) :
    exec (.set l p (some nc) (some dl)) s = .next ((s.updPart p fun q =>
      { q with stageP := { q.stageP with ctx := q.stageP.ctx.with nc, dl := dl } }).ok p l) := by
  have hexec : exec (.set l p (some nc) (some dl)) s = .next (verbSet l p (some nc) (some dl) s) :=
    congrArg _ (atLine_takes s p _ _ ht)
  have hdl : dlOk (some dl) = true := by simp [dlOk, h1, h60]
  have hok : ncOk nc = true := by
    simp only [ncOk, Bool.and_eq_true, Option.all_eq_true, decide_eq_true_eq]
    exact ⟨fun v hv => hnc v (.inl hv), fun v hv => hnc v (.inr hv)⟩
  rw [hexec, verbSet, hl, hdl, Option.all_some, hok]
  rfl

theorem exec_shard {g pp c ds : List Nat} {dev : List (Nat × Nat)} (hl : s.legal p true true true true = true)
    (ht : s.takes p (.shard l p idx g pp c dev) = true) (hd : expandRanges dev = some ds) (hidx : idx ≤ 255)
    (hg : ∀ v ∈ g, 1 ≤ v ∧ v < 2 ^ 32) (hpp : ∀ v ∈ pp, 1 ≤ v ∧ v ≤ 64) (hc : ∀ v ∈ c, v ≤ 63) (hds : ds.length ≤ 64) :
    exec (.shard l p idx g pp c dev) s = .next (
      if g.length = pp.length ∧ g.length = c.length ∧ g.length ≤ 5 then
        (s.stageShard p idx (some { rank := g.length, g := g, p := pp, c := c, dev := ds })).ok p l
      else s.no p l "rank") := by
  have hexec : exec (.shard l p idx g pp c dev) s = .next (verbShard l p idx g pp c dev s) :=
    congrArg _ (atLine_takes s p _ _ ht)
  rw [hexec]
  unfold verbShard
  extract_lets inRange
  have hrange : inRange 1 0xFFFFFFFF g = true ∧ inRange 1 64 pp = true ∧ inRange 0 63 c = true := by
    simp only [inRange, List.all_eq_true, Bool.and_eq_true, decide_eq_true_eq]
    exact ⟨fun v hv => ⟨(hg v hv).1, Nat.le_of_lt_succ (hg v hv).2⟩, hpp, fun v hv => ⟨Nat.zero_le v, hc v hv⟩⟩
  obtain ⟨hgr, hpr, hcr⟩ := hrange
  have hin : ¬ (255 < idx ∨ (!inRange 1 0xFFFFFFFF g) = true ∨ (!inRange 1 64 pp) = true ∨
      (!inRange 0 63 c) = true ∨ 64 < ds.length) := by
    simp [hgr, hpr, hcr, hidx, hds]
  rw [hl, if_neg (by decide), hd]
  dsimp only
  rw [if_neg hin]
  by_cases h : g.length = pp.length ∧ g.length = c.length ∧ g.length ≤ 5
  · rw [if_pos h, if_neg (by omega)]
  · rw [if_neg h, if_pos (by omega)]

theorem exec_shardDrop (hl : s.legal p true true true true = true) (ht : s.takes p (.shardDrop l p idx) = true)
    (hidx : idx ≤ 255) : exec (.shardDrop l p idx) s = .next ((s.stageShard p idx none).ok p l) := by
  have hexec : exec (.shardDrop l p idx) s = .next (verbShardDrop l p idx s) := congrArg _ (atLine_takes s p _ _ ht)
  rw [hexec, verbShardDrop, hl, if_neg (by decide), if_neg (Nat.not_lt.mpr hidx)]

theorem exec_commit (hl : s.legal p true true true true = true) (ht : s.takes p (.commit l p) = true) :
    exec (.commit l p) s = .next (
      match commitError s.dev.rack (s.part p) with
      | some (why, keys) => s.no p l why keys
      | none => ((s.updPart p (·.committed)).settle p).ok p l) := by
  have hexec : exec (.commit l p) s = .next (verbCommit l p s) := congrArg _ (atLine_takes s p _ _ ht)
  rw [hexec, verbCommit, hl]
  exact congrArg _ (if_neg (by decide))

theorem exec_rallySetApply {r : RSettings} (hp : (s.part p).pendR = some r) (hn : (s.part p).run = none)
    (hi : s.rallyIdle p = true) : exec (.rallySetApply p) s = .next (s.updPart p fun q => q.applyRally r) := by
  have hexec : exec (.rallySetApply p) s = .next (s.rallySettle p) := rfl
  rw [hexec, State.rallySettle, hp]
  exact congrArg _ (if_pos ⟨by rw [hn]; rfl, hi⟩)

end

/-- Settles O19: each line has its verb's effect, and pending rally settings take effect where nothing is in their way. -/
theorem settingsAreStagedAndCommitted : Obligations.SettingsAreStagedAndCommitted :=
  fun _ _ _ _ _ _ _ _ _ _ _ hl => ⟨exec_set hl, exec_shard hl, exec_shardDrop hl, fun _ => rfl, exec_commit hl,
    fun _ => exec_rallySetApply⟩

end Sys2Proof.Machine

namespace Sys2Proof.Machine

/-! # Lines (R275 to R277, R284 to R288, R294, R295) -/

/-! ## A window changes -/

section

variable {s : State} {w : Nat} {f g : Window → Window}

/-- An update of a window is what it makes of that window as it stands. -/
theorem updWin_congr (h : f (s.win w) = g (s.win w)) : s.updWin w f = s.updWin w g := by
  refine congrArg (fun ws => { s with windows := ws }) (List.ext_getElem? fun j => ?_)
  rw [List.getElem?_modify, List.getElem?_modify]
  by_cases hj : w = j
  · subst hj
    rw [State.win, tget, List.getD_eq_getElem?_getD] at h
    cases hk : s.windows[w]? with
    | none => rfl
    | some q => simpa [hk] using h
  · simp [hj]

/-- What holds of the empty window and of every changed one holds of a window that has changed, whether it is there or not. -/
theorem win_updWin_of_forall {P : Window → Prop} (h0 : P {}) (h : ∀ q, P (f q)) : P ((s.updWin w f).win w) := by
  by_cases hw : w < s.windows.length
  · rw [win_updWin_same s w f hw]
    exact h _
  · have hnone : (s.updWin w f).win w = {} :=
      List.getD_eq_default _ _ (by rw [updWin_windows, List.length_modify]; omega)
    rwa [hnone]

/-- What a change of a window keeps of every window, it keeps of that one. -/
theorem win_updWin_keeps {α : Type} (view : Window → α) (h : ∀ q, view (f q) = view q) :
    view ((s.updWin w f).win w) = view (s.win w) := by
  by_cases hw : w < s.windows.length
  · rw [win_updWin_same s w f hw, h]
  · have hwin : s.updWin w f = s := by
      rw [State.updWin, List.modify_eq_self (by omega)]
    rw [hwin]

/-- What stops a parser is not touched by what it consumes. -/
theorem stopped_updWin (hb : ∀ q, (f q).busy = q.busy) (hr : ∀ q, (f q).reply = q.reply) :
    (s.updWin w f).stopped w = s.stopped w := by
  rw [State.stopped, State.stopped, win_updWin_keeps (·.busy) hb, win_updWin_keeps (·.reply) hr]
  rfl

end

section

variable {s : State} {w : Win} {i : Instr} {e : Bool}

/-! ## Every verb of the grammar is a command -/

/-- What a line spells, `exec` carries out as the parser does. -/
def Instr.isVerb (i : Instr) : Prop := ∀ s : State, exec i s = .next (runVerb i s)

/-- The grammar spells verbs only. -/
theorem buildVerb_isVerb (v : Verb) (l : LineCtx) (p : Fin 8) (tn : Option Nat) (k : Vals) :
    Instr.isVerb (buildVerb v l p tn k) := by
  intro s
  cases v
  case fw | shard | statD | statP =>
    dsimp only [buildVerb]
    split <;> rfl
  case link | brk =>
    dsimp only [buildVerb]
    split
    · rfl
    · split <;> rfl
  all_goals rfl

/-- A line that the grammar accepts spells a verb of its window. -/
theorem parseBody_ok {w num : Nat} {uart : Bool} {body : List Byte} (h : parseBody w uart num body = .ok i) :
    ∃ v l tn k, i = buildVerb v l (Fin.ofNat 8 w) tn k := by
  unfold parseBody at h
  split at h
  case h_1 => cases h
  case h_2 =>
    dsimp only at h
    split at h
    · cases h
    · split at h
      · cases h
      · cases h
      · split at h <;> cases h
  case h_3 =>
    split at h
    · cases h
    · split at h
      · cases h
      · exact ⟨_, _, _, _, (Except.ok.inj h).symm⟩

theorem scrubbing_false : scrubbing false i = i := by
  cases i
  case part l p cs il e => exact congrArg _ (Bool.or_false e)
  case free l p e => exact congrArg _ (Bool.or_false e)
  all_goals rfl

end

/-! ## The next line of a window (R273, R276, R286) -/

section

variable {s : State} {w : Win} {r : RawLine} {e : Bool} {text : List Byte} {rest : List FifoItem}

theorem nextRaw_uart (hu : (s.win w).uline = some r) :
    s.nextRaw w = (some r, s.updWin w fun q => { q with uline := none }) := by
  rw [State.nextRaw, hu]

/-- The parser takes what its assembler holds and the bytes of the FIFO up to the first LF. -/
theorem nextRaw_fifo (hu : (s.win w).uline = none) (hf : (s.win w).fifo = text.map .byte ++ .byte 10 :: rest)
    (ht : ∀ b ∈ text, b ≠ 10 ∧ b ≠ 13) :
    s.nextRaw w = (some { bytes := (s.win w).asm ++ text, ovf := (s.win w).asmOver },
      s.updWin w fun q => { q with fifo := rest, asm := [], asmOver := false }) := by
  have hhead : (s.win w).fifo.takeWhile (· != .byte 10#8) = text.map .byte := by
    rw [hf, List.takeWhile_append_of_pos (by simpa using fun b hb => (ht b hb).1)]
    simp
  have hrest : (s.win w).fifo.drop (text.map FifoItem.byte).length = .byte 10 :: rest := by
    rw [hf, List.drop_left]
  have hlost : (text.map FifoItem.byte).any isOverrun = false := by simp [isOverrun]
  rw [State.nextRaw, hu]
  dsimp only
  rw [hhead, hrest, hlost, fifoBytes_map_byte fun b hb => (ht b hb).2, Bool.or_false]

/-- Without an LF all that the FIFO holds goes to the assembler. -/
theorem nextRaw_partial (hu : (s.win w).uline = none) (hf : ∀ i ∈ (s.win w).fifo, i ≠ .byte 10) :
    s.nextRaw w = (none, s.updWin w fun q =>
      { q with fifo := [], asm := (s.win w).asm ++ fifoBytes (s.win w).fifo
               asmOver := (s.win w).asmOver || (s.win w).fifo.any isOverrun }) := by
  have hhead : (s.win w).fifo.takeWhile (· != .byte 10#8) = (s.win w).fifo :=
    List.takeWhile_eq_self_iff.mpr fun i hi => bne_iff_ne.mpr (hf i hi)
  rw [State.nextRaw, hu]
  dsimp only
  rw [hhead, List.drop_length]

/-- What stops a parser is not touched by what it takes. -/
theorem nextRaw_stopped : (s.nextRaw w).2.stopped w = s.stopped w := by
  unfold State.nextRaw
  dsimp only
  split
  · exact stopped_updWin (fun _ => rfl) fun _ => rfl
  · split
    · exact stopped_updWin (fun _ => rfl) fun _ => rfl
    · exact stopped_updWin (fun _ => rfl) fun _ => rfl

/-- A parser that nothing stops takes the next line. -/
theorem exec_lineParse {t : State} (hh : (s.win w).held = none) (hm : s.mute = false) (hst : s.stopped w = false)
    (hn : s.nextRaw w = (some r, t)) : exec (.lineParse w e) s = .next (t.takeLine w r e) := by
  have ht : t.stopped w = false := by
    have hkeep := nextRaw_stopped (s := s) (w := w)
    rw [hn] at hkeep
    exact hkeep.trans hst
  refine congrArg _ ((if_neg ?_).trans ?_)
  · simp [hh, hm]
  · rw [hn]
    exact if_neg (by rw [ht]; decide)

theorem exec_lineParse_partial {t : State} (hh : (s.win w).held = none) (hm : s.mute = false)
    (hn : s.nextRaw w = (none, t)) : exec (.lineParse w e) s = .next t := by
  refine congrArg _ ((if_neg ?_).trans ?_)
  · simp [hh, hm]
  · rw [hn]

/-! ## A line once its MAC is settled (R277, R284, R295) -/

theorem judge_ovf {w : Nat} {body : List Byte} {mac locked : Bool} (ho : r.ovf = true) :
    s.judge w r body mac locked e = s.ignore w { uart := r.uart, num := r.num } .overrun := if_pos ho

/-- A line whose bytes are in order is what the grammar makes of it. -/
theorem judge_of_breaks_nil {w : Nat} {body : List Byte} {mac locked : Bool} (ho : r.ovf = false)
    (hmac : (mac && !locked) = false) (hn : r.null body mac = false) (hb : r.breaks = []) :
    s.judge w r body mac locked e = match parseBody w r.uart r.num (lineText body) with
      | .error why => s.ignore w { uart := r.uart, num := r.num } why
      | .ok i => runVerb (scrubbing e i) s := by
  rw [State.judge, ho, hmac, hn, hb] <;> rfl

theorem takeLine_unlocked {w : Nat} (hk : s.winKey w = none) :
    s.takeLine w r e = s.judge w r (splitMac r.bytes).1 (splitMac r.bytes).2.isSome false e := by
  rw [State.takeLine]
  dsimp only
  rw [hk]

/-- The MAC that a line of a locked window must carry (R295). -/
def State.lineMac (s : State) (p : Nat) (k : Session) (body : List Byte) : List Byte :=
  (hmac384 k.kIn (leBytes 8 (s.part p).rxSeq ++ body)).take 8

theorem takeLine_locked {p : Part} {k : Session} (hk : (s.part p).session = some k) :
    s.takeLine p r e =
      if r.null (splitMac r.bytes).1 (splitMac r.bytes).2.isSome = true then s
      else if (splitMac r.bytes).2 = some (s.lineMac p k (splitMac r.bytes).1) then
        (s.updPart p fun q => { q with rxSeq := q.rxSeq + 1 }).judge p r (splitMac r.bytes).1 true true e
      else s.ignore p { uart := r.uart, num := r.num } .badMac := by
  have hkey : s.winKey p = some k := (if_pos p.isLt).trans hk
  rw [State.takeLine]
  dsimp only
  rw [hkey]
  simp only [beq_iff_eq]
  rfl

theorem null_of_mac {body : List Byte} : r.null body true = false := rfl

theorem ignore_parts {w : Nat} {l : LineCtx} {why : Why} : (s.ignore w l why).parts = s.parts := by rw [ignore_frame]

end

/-- Settles O25: what the parser takes is `nextRaw_…`; `takeLine_locked` tests the MAC first, and `judge` sees the line only when
it has verified. -/
theorem lockedWindowChecksMacs : Obligations.LockedWindowChecksMacs := by
  intro s p r k hk body mac good next l
  refine ⟨fun hnull => (takeLine_locked hk).trans (if_pos hnull), fun hnull hbad => ?_, fun hgood => ?_,
    fun hh hm hst e => ⟨fun hu => ?_, fun text rest hu hf ht => ?_, fun hu hf => ?_⟩⟩
  · have htake : s.takeLine p r = s.ignore p l .badMac :=
      (takeLine_locked hk).trans ((if_neg (Bool.eq_false_iff.mp hnull)).trans (if_neg hbad))
    exact ⟨htake, by rw [htake, ignore_parts]⟩
  · have hmac : mac.isSome = true := Option.isSome_iff_exists.mpr ⟨_, hgood⟩
    have hnull : ¬ r.null body mac.isSome = true := by rw [hmac, null_of_mac]; decide
    have htake : s.takeLine p r = next.judge p r body true true :=
      (takeLine_locked hk).trans ((if_neg hnull).trans (if_pos hgood))
    refine ⟨htake, fun ho => htake.trans (judge_ovf ho), fun ho hb => ?_⟩
    rw [htake, judge_of_breaks_nil ho rfl null_of_mac hb]
    simp only [scrubbing_false] <;> rfl
  · exact exec_lineParse hh hm hst (nextRaw_uart hu)
  · exact exec_lineParse hh hm hst (nextRaw_fifo hu hf ht)
  · exact ⟨_, exec_lineParse_partial hh hm (nextRaw_partial hu hf), win_updWin_of_forall (P := (·.fifo = [])) rfl fun _ => rfl,
      rfl, rfl⟩

section

variable {s : State} {w : Win} {i : Instr} {e : Bool} {text : List Byte} {rest : List FifoItem}

/-- A text in which nothing is decided before the grammar looks at it: no byte outside R275 and no comment, no MAC, no window named
in front of it, not too long and not null. -/
structure PlainText (text : List Byte) : Prop where
  chars : ∀ b ∈ text, 32 ≤ b.toNat ∧ b.toNat ≤ 126 ∧ b.toNat ≠ 35
  short : text.length < 200
  noMac : splitMac text = (text, none)
  noPrefix : hasPrefix text = false
  notNull : text.all isSpace = false

theorem PlainText.no_lf_cr (h : PlainText text) : ∀ b ∈ text, b ≠ 10 ∧ b ≠ 13 := by
  intro b hb
  obtain ⟨hlow, -⟩ := h.chars b hb
  exact ⟨by rintro rfl; exact absurd hlow (by decide), by rintro rfl; exact absurd hlow (by decide)⟩

theorem PlainText.lineText (h : PlainText text) : lineText text = text :=
  List.takeWhile_eq_self_iff.mpr fun b hb => bne_iff_ne.mpr (by rintro rfl; exact (h.chars _ hb).2.2 rfl)

theorem PlainText.breaks (h : PlainText text) : RawLine.breaks { bytes := text } = [] := by
  have hbad : hasBadChar text = false := by
    refine List.any_eq_false.mpr fun b hb => ?_
    obtain ⟨hlow, hhigh, -⟩ := h.chars b hb
    simp [hlow, hhigh]
  simp [RawLine.breaks, hbad, h.noPrefix, Nat.not_le.mpr h.short]

/-- A plain text is carried out as what it spells, or ignored with the reason of the grammar. -/
theorem takeLine_plain (h : PlainText text) (hk : s.winKey w = none) :
    s.takeLine w { bytes := text } e = match parseBody w false 0 text with
      | .error why => s.ignore w {} why
      | .ok i => runVerb (scrubbing e i) s := by
  have hnull : RawLine.null { bytes := text } text false = false := by simp [RawLine.null, h.lineText, h.notNull]
  rw [takeLine_unlocked hk, h.noMac]
  refine (judge_of_breaks_nil rfl rfl hnull h.breaks).trans ?_
  rw [h.lineText]

/-- A window that holds no part of a line takes a plain text from its FIFO as it stands there. -/
theorem nextRaw_plain (h : PlainText text) (hf : (s.win w).fifo = text.map .byte ++ .byte 10 :: rest)
    (hu : (s.win w).uline = none) (hasm : (s.win w).asm = []) (ho : (s.win w).asmOver = false) :
    s.nextRaw w = (some { bytes := text }, s.updWin w fun q => { q with fifo := rest }) := by
  rw [nextRaw_fifo hu hf h.no_lf_cr, hasm, ho, List.nil_append]
  exact congrArg _ (updWin_congr (by simp [hasm, ho]))

/-- A line that a stopped parser has kept takes effect once nothing stops it. -/
theorem exec_parserResume (hm : s.mute = false) (hst : s.stopped w = false) (hh : (s.win w).held = some (.cmd i))
    (hw : s.waitsFor i = false) :
    exec (.parserResume w e) s = .next (runVerb (scrubbing e i) (s.updWin w fun q => { q with held := none })) := by
  refine congrArg _ ((if_neg (by simp [hst, hm])).trans ?_)
  rw [hh]
  exact if_neg (by simp [hw])

end

/-- Settles O24: what the grammar accepts is a verb (`parseBody_ok`), which `exec` carries out as the parser does
(`buildVerb_isVerb`); a line comes to it as `nextRaw_plain` and `takeLine_plain` say, a kept one by `exec_parserResume`. -/
theorem linesAreCommands : Obligations.LinesAreCommands := by
  refine ⟨fun w uart num body i s h => ?_, fun s w text rest i e _ hm hst hk => ⟨?_, exec_parserResume hm hst⟩,
    fun i l p cs il => ⟨scrubbing_false, rfl, rfl⟩⟩
  · obtain ⟨v, l, tn, k, rfl⟩ := parseBody_ok h
    exact buildVerb_isVerb v l _ tn k s
  · intro hf hu hh hasm ho hc hlen hmac hp hsp
    have hplain : PlainText text := ⟨hc, hlen, hmac, hp, hsp⟩
    have hexec := exec_lineParse (e := e) hh hm hst (nextRaw_plain hplain hf hu hasm ho)
    have htake := takeLine_plain (s := s.updWin w fun q => { q with fifo := rest }) (e := e) hplain hk
    rw [hexec, htake]
    exact ⟨fun hok => by rw [hok], fun why herr => by rw [herr]⟩

end Sys2Proof.Machine

namespace Sys2Proof.Machine

/-! # Device resets (R467) -/

/-- A device whose reset is asserted stands at stage 0 and takes no lines. -/
theorem assert_mute {s : State} {r : RstSource} : (s.assert r).mute = true := rfl

theorem exec_resetN {s : State} {ns : Nat} (h : 1000 ≤ ns) : exec (.resetN ns) s = .next (s.assert .resetN) :=
  congrArg _ (if_pos h)

/-- Refutes O58: it has the device take lines (`t.mute = false`) right after a reset. RESET_N, low for 1 µs from the state after
reset, leaves the device at stage 0, where `State.mute` holds (R467). -/
theorem not_deviceResets : ¬ Obligations.DeviceResets := by
  unfold Obligations.DeviceResets
  intro h
  obtain ⟨hreset, -⟩ := h State.reset
  obtain ⟨t, hexec, -, -, -, hmute, -⟩ := hreset (.resetN 1000) .resetN 1000 false false (.inl ⟨rfl, Nat.le_refl _, rfl⟩)
  have ht : State.reset.assert .resetN = t := Host.Outcome.next.inj ((exec_resetN (Nat.le_refl _)).symm.trans hexec)
  rw [← ht, assert_mute] at hmute
  exact absurd hmute (by decide)

end Sys2Proof.Machine

namespace Sys2Proof.Machine

/-! # The reports of a partition window (R329 to R331, R450) -/

section

variable {s : State} {l : LineCtx} {p : Part} {idx n : Nat}

theorem exec_statShard (ht : s.takes p (.statShard l p idx) = true) :
    exec (.statShard l p idx) s = .next (
      if idx ≤ 255 then
        match spGet none (s.part p).set.shards idx with
        | some e => s.replies p l [[kn "idx" idx, kv "g" (commaList (e.g.map dec)), kv "p" (commaList (e.p.map dec)),
            kv "c" (commaList (e.c.map dec)), kv "dev" (commaList (e.dev.map dec))]] []
        | none => s.no p l "none"
      else s.no p l "range") := by
  have hexec : exec (.statShard l p idx) s = .next (verbStatShard l p idx s) := congrArg _ (atLine_takes s p _ _ ht)
  rw [hexec, verbStatShard]
  refine congrArg Host.Outcome.next ?_
  by_cases h : idx ≤ 255
  · refine (if_neg (Nat.not_lt.mpr h)).trans (Eq.trans ?_ (if_pos h).symm)
    cases spGet none (s.part p).set.shards idx <;> rfl
  · rw [if_neg h, if_pos (Nat.lt_of_not_le h)]

/-- The one set that `tally set=` shows. -/
theorem filter_range_beq {m k : Nat} (h : k < m) : ((List.range m).filter fun i => k == i) = [k] := by
  have hcount : (List.range m).count k = 1 := List.count_eq_one_of_mem List.nodup_range (List.mem_range.mpr h)
  simp only [BEq.comm (a := k), List.filter_beq, hcount]
  rfl

/-- `tally` with a set reports that set of the copy (R331). -/
theorem exec_tally_set (ht : s.takes p (.tally l p (some n)) = true) (hr : s.isReady = true)
    (hs : (s.part p).stat ≠ .free) (hf : s.freeing p = false) (hn : n ≤ 15) :
    exec (.tally l p (some n)) s = .next (match (s.part p).copy with
      | none => s.no p l "none"
      | some c => s.replies p l
          [[kn "set" n, kv "name" (if (tget [] c.name n).isEmpty then asc "-" else tget [] c.name n),
            kn "sat" (tget {} c.sets n).sat, kn "flush" (tget {} c.sets n).flush, kn "nan" (tget {} c.sets n).nan]]
          [kv "tag" (match c.tag with | some t => dec t | none => asc "-"), kn "sum" c.sum]) := by
  have hexec : exec (.tally l p (some n)) s = .next (verbTally l p (some n) s) := congrArg _ (atLine_takes s p _ _ ht)
  have hlegal : (!s.isReady || (s.part p).stat == .free || s.freeing p) = false := by simp [hr, hs, hf]
  have hrange : (some n).any (fun n => decide (n > 15)) = false := by simpa using hn
  rw [hexec, verbTally, hlegal, hrange]
  dsimp only
  cases (s.part p).copy with
  | none => rfl
  | some c =>
    simp only [filter_range_beq (Nat.lt_succ_of_le hn)]
    rfl

end

/-- Settles O20: each line has its verb's effect; of sixteen sets `tally` shows the one it names (`exec_tally_set`). -/
theorem partitionReports : Obligations.PartitionReports := fun s _ p _ _ =>
  ⟨fun ht => congrArg _ (atLine_takes s p _ _ ht), fun ht => congrArg _ (atLine_takes s p _ _ ht),
    fun ht => congrArg _ (atLine_takes s p _ _ ht), fun ht => congrArg _ (atLine_takes s p _ _ ht), exec_statShard,
    fun ht => congrArg _ (atLine_takes s p _ _ ht), exec_tally_set⟩

end Sys2Proof.Machine

namespace Sys2Proof.Machine

/-! # `key`, `unkey` and `lock` (R332, R333, R339, R421, R424, R429, R430) -/

section

variable {s : State} {l : LineCtx} {p : Part}

/-! ## Key slots -/

theorem keys_length (hs : s.sized = true) : (s.part p).keys.length = 8 := by
  obtain ⟨-, -, -, -, -, -, -, -, hparts⟩ := sized_iff.mp hs
  have hq := hparts _ (part_mem (p := p) hs)
  simp only [Partition.sized, Bool.and_eq_true, beq_iff_eq, and_assoc] at hq
  obtain ⟨-, hkeys, -⟩ := hq
  exact hkeys

theorem exec_key {k : Nat} {wrap : List Byte} {z : Session} (hl : s.legal p true true true true = true)
    (hz : (s.part p).session = some z) (hk : k ≤ 7) (ht : s.takes p (.key l p k wrap) = true) (hw : wrap.length = 40) :
    exec (.key l p k wrap) s = .next (
      match keyUnwrap z.kWrap wrap with
      | none => s.no p l "unwrap"
      | some b => (s.updPart p fun q => { q with
          keys := q.keys.modify k fun e => { e with key := some b, ctr := 0, gen := e.gen + 1 } }).ok p l [kn "slot" k]) := by
  have hexec : exec (.key l p k wrap) s = .next (verbKey l p k wrap s) := congrArg _ (atLine_takes s p _ _ ht)
  rw [hexec]
  unfold verbKey
  rw [hl, if_pos rfl, hz]
  dsimp only
  refine congrArg Host.Outcome.next ((if_neg (by omega)).trans ?_)
  cases keyUnwrap z.kWrap wrap <;> rfl

/-- A slot loses its key; a job that holds the key keeps its number, for it to be erased later (R333, R430). -/
def KeySlot.emptied (e : KeySlot) (k : Nat) (jobs : List Job) : KeySlot :=
  match e.key with
  | none => e
  | some _ =>
    let held := jobs.any fun j => match j.latch with | some (a, g, _) => a == k && g == e.gen | none => false
    { e with key := none, erase := if held then e.erase ++ [e.gen] else e.erase }

theorem emptied_key {e : KeySlot} {k : Nat} {jobs : List Job} : (e.emptied k jobs).key = none := by
  unfold KeySlot.emptied
  split
  next h => exact h
  next => rfl

theorem emptied_erase_of_no_jobs {e : KeySlot} {k : Nat} : (e.emptied k []).erase = e.erase := by
  unfold KeySlot.emptied
  split
  · rfl
  · rfl

theorem exec_unkey {k : Nat} {z : Session} (hl : s.legal p true true true true = true)
    (hz : (s.part p).session = some z) (hk : k ≤ 7) (ht : s.takes p (.unkey l p k) = true) :
    exec (.unkey l p k) s = .next ((s.updPart p fun q =>
      { q with keys := q.keys.modify k (·.emptied k q.jobs) }).ok p l [kn "slot" k]) := by
  have hexec : exec (.unkey l p k) s = .next (verbUnkey l p k s) := congrArg _ (atLine_takes s p _ _ ht)
  have hlocked : (s.part p).locked = true := by rw [Partition.locked, hz]; rfl
  rw [hexec, verbUnkey, hl, hlocked, if_neg (by decide), if_neg (by omega)]
  rfl

theorem unkey_leaves {k : Nat} {keys : List (List Byte)} (hs : s.sized = true) (hk : k ≤ 7) :
    let t := (s.updPart p fun q => { q with keys := q.keys.modify k (·.emptied k q.jobs) }).ok p l keys
    (tget {} (t.part p).keys k).key = none ∧
      ((s.part p).jobs = [] → (tget {} (t.part p).keys k).erase = (tget {} (s.part p).keys k).erase) ∧
      (∀ j, j ≠ k → tget {} (t.part p).keys j = tget {} (s.part p).keys j) ∧ (t.part p).jobs = (s.part p).jobs := by
  intro t
  obtain ⟨u, hu⟩ : ∃ u, u = s.updPart p fun q => { q with keys := q.keys.modify k (·.emptied k q.jobs) } := ⟨_, rfl⟩
  have hpart : u.part p = { s.part p with keys := (s.part p).keys.modify k (·.emptied k (s.part p).jobs) } := by
    rw [hu]
    exact part_updPart_same s p _ (part_lt_length hs)
  have hsaid : (u.part p).Said (t.part p) := by
    rw [hu]
    exact emit_said.part
  have hkeys : (t.part p).keys = (s.part p).keys.modify k (·.emptied k (s.part p).jobs) := by rw [hsaid, hpart]
  have hlt : k < (s.part p).keys.length := by rw [keys_length hs]; omega
  rw [hkeys, tget_modify_same _ _ _ _ hlt]
  refine ⟨emptied_key, fun hj => ?_, fun j hj => tget_modify_ne _ _ _ _ _ hj.symm, by rw [hsaid, hpart]⟩
  rw [hj]
  exact emptied_erase_of_no_jobs

/-! ## lock -/

/-- The partition of a window that is locked (R339). -/
def Partition.locking (q : Partition) (k : Session) : Partition :=
  { q with session := some { k with kLock := [] }, pending := none, rxSeq := 0, txSeq := 0, breaks := [] }

/-- The stream slot of a window that is locked: the derived keys of generation 0, not in the secure state (R424). -/
def IdeSlot.locking (e : IdeSlot) (k : Session) (p : Nat) : IdeSlot :=
  { e with secure := false, cur := false, keys := [] }.derived k.prk p 0 false

theorem exec_lock {proof : List Byte} {k : Session} (ht : s.takes p (.lock l p proof) = true)
    (hl : s.legal p true true false false = true) (hses : (s.part p).session = none)
    (hpend : (s.part p).pending = some k) :
    exec (.lock l p proof) s = .next (
      if proof = lockProof k p then ((s.updPart p (·.locking k)).updIde p (·.locking k p)).ok p l
      else (s.updPart p fun q => { q with pending := none }).no p l "proof") := by
  have hexec : exec (.lock l p proof) s = .next (verbLock l p proof s) := congrArg _ (atLine_takes s p _ _ ht)
  have hlocked : (s.part p).locked = false := by rw [Partition.locked, hses]; rfl
  rw [hexec]
  unfold verbLock
  rw [hl, hlocked, if_pos (by decide), hpend]
  rfl

/-- The derived keys of a generation stand in their places of the slot. -/
theorem mem_derived {e : IdeSlot} {prk : List Byte} {k gen u : Nat} {set d : Bool} (hu : u < 3) :
    (ideAt set d u, ideKey prk k gen (b2n d) u) ∈ (e.derived prk k gen set).keys := by
  refine List.mem_append_right _ (List.mem_flatMap.mpr ⟨d, by cases d <;> decide, ?_⟩)
  exact List.mem_map.mpr ⟨u, List.mem_range.mpr hu, rfl⟩

theorem ide_ok {w k : Nat} {ks : List (List Byte)} : (s.ok w l ks).ideSlot k = s.ideSlot k := by
  rw [ok_eq, emit_frame]
  rfl

theorem ideSlots_length (hs : s.sized = true) : s.ide.length = 9 := by
  obtain ⟨-, -, -, -, -, -, hide, -⟩ := sized_iff.mp hs
  exact hide

theorem lock_leaves {k : Session} (hs : s.sized = true) :
    let t := ((s.updPart p (·.locking k)).updIde p (·.locking k p)).ok p l
    (t.part p).session = some { k with kLock := [] } ∧ (t.part p).pending = none ∧ (t.part p).rxSeq = 0 ∧
      (t.part p).breaks = [] ∧ (t.ideSlot p).secure = false ∧ (t.ideSlot p).gen = 0 ∧
      (∀ d u, u < 3 → (ideAt false d u, ideKey k.prk p 0 (b2n d) u) ∈ (t.ideSlot p).keys) ∧
      ∀ r, r ≠ p.val → t.part r = s.part r := by
  intro t
  obtain ⟨u, hu⟩ : ∃ u, u = (s.updPart p (·.locking k)).updIde p (·.locking k p) := ⟨_, rfl⟩
  have ht : t = u.ok p l := by rw [hu]
  have hpart : u.part p = (s.part p).locking k := by
    rw [hu]
    exact part_updPart_same s p _ (part_lt_length hs)
  have hsaid : ((s.part p).locking k).Said (t.part p) := by
    rw [← hpart, ht]
    exact emit_said.part
  have hide : t.ideSlot p = (s.ideSlot p).locking k p := by
    rw [ht, ide_ok, hu]
    refine ideSlot_updIde_same (s.updPart p _) p _ ?_
    rw [updPart_ide, ideSlots_length hs]
    omega
  rw [hsaid, hide]
  refine ⟨rfl, rfl, rfl, rfl, rfl, rfl, fun d v hv => mem_derived hv, fun r hr => ?_⟩
  have hothers : t.part r = u.part r := by
    rw [ht]
    exact emit_reported.others r hr
  rw [hothers, hu]
  exact part_updPart_ne s p r _ hr.symm

end

/-- Settles O21: `unkey_leaves` and `lock_leaves` say what the lines leave that are carried out. -/
theorem keySlotsAndLock : Obligations.KeySlotsAndLock := by
  refine ⟨fun s l p k wrap z hl hz hk => ⟨exec_key hl hz hk, fun ht hs => ?_⟩, fun s l p proof k hs ht hl hses hpend => ?_⟩
  · exact ⟨_, exec_unkey hl hz hk ht, unkey_leaves hs hk⟩
  · have hexec := exec_lock ht hl hses hpend
    refine ⟨fun hp => ?_, fun hp => ?_⟩
    · rw [if_pos (show proof = lockProof k p from hp)] at hexec
      exact ⟨_, hexec, lock_leaves hs⟩
    · rwa [if_neg (show proof ≠ lockProof k p from hp)] at hexec

end Sys2Proof.Machine

namespace Sys2Proof.Machine

/-! # Attestation, sessions and firmware (R310 to R312, R416, R419, R420, R478, R479) -/

section

variable {s t : State} {l : LineCtx} {p : Part}

theorem replies_w8_sameButTalk {data : List (List (List Byte))} {last : List (List Byte)} :
    SameButTalk s (s.replies 8 l data last) :=
  (foldl_keeps (SameButTalk s) _ data s rfl fun _ _ h => h.trans emit_w8_sameButTalk).trans ok_w8_sameButTalk

theorem SameButTalk.dev (h : SameButTalk s t) : t.dev = s.dev := by rw [h]
theorem SameButTalk.free (h : SameButTalk s t) : t.free = s.free := by rw [h]

/-! ## attest -/

theorem exec_attest {nonce : List Byte} (ht : s.takes 8 (.attest l nonce) = true) (hr : s.isReady = true)
    (hn : nonce.length = 32) :
    exec (.attest l nonce) s =
      .next (s.updDev fun d => { d with attests := d.attests ++ [{ ctx := l, nonce := nonce }] }) := by
  have hexec : exec (.attest l nonce) s = .next (verbAttest l nonce s) := congrArg _ (atLine_takes s 8 _ _ ht)
  rw [hexec, verbAttest, hr, if_neg (by decide), if_neg (not_not.mpr hn)]

/-- The report of an `attest` line: its body with the public half of a fresh key, and the signature (R416, R419). -/
def State.attestReport (s : State) (j : AttestJob) (rest : List AttestJob) : List Byte :=
  let body := (s.updDev fun v => { v with reports := v.reports + 1, attests := rest }).reportBody j.nonce
    (ecCompress (ecPublic (s.secret 0)))
  body ++ ecdsaSign Config.cohortKey (s.secret 1) (sha384 body)

/-- The device has built the report of its oldest `attest` line: it is counted, and its key is the one unused (R416, R419). -/
def State.attested (s : State) (j : AttestJob) (rest : List AttestJob) : State :=
  { s.updDev fun v => { v with
      reports := v.reports + 1, attests := rest, ephem := some (s.secret 0, sha384 (s.attestReport j rest)) } with
    free := s.free + 2 }

theorem exec_attestReportDone {j : AttestJob} {rest : List AttestJob} (hj : s.dev.attests = j :: rest)
    (hd : s.dev.dfault = none) :
    exec .attestReportDone s =
      .next ((s.attested j rest).replies 8 j.ctx (reportLines (s.attestReport j rest)) [kn "len" 1344]) := by
  change execAttestReportDone s = _
  unfold execAttestReportDone
  rw [hj]
  dsimp only
  rw [hd, if_neg (by decide)]
  rfl

/-! ## session -/

theorem session_legal (hr : s.isReady = true) (hst : (s.part p).state ∈ [1, 2]) (hl : (s.part p).locked = false) :
    (s.isReady && ((s.part p).state == 1 || (s.part p).state == 2) && !(s.part p).locked) = true := by
  simpa [hr, hl] using hst

theorem exec_session {pub : List Byte} (ht : s.takes 8 (.session l p pub) = true) (hr : s.isReady = true)
    (hst : (s.part p).state ∈ [1, 2]) (hl : (s.part p).locked = false) (hpub : pub.length = 49) :
    exec (.session l p pub) s = .next (
      match s.dev.ephem with
      | none => s.no 8 l "stale"
      | some (d, salt) =>
        match (ecDecompress pub).bind (ecdh d) with
        | none => s.no 8 l "range"
        | some z => ((s.updDev fun v => { v with ephem := none }).updPart p fun q =>
            { q with pending := some (sessionOf z salt p) }).ok 8 l [nameN "p" p]) := by
  have hexec : exec (.session l p pub) s = .next (verbSession l p pub s) := congrArg _ (atLine_takes s 8 _ _ ht)
  rw [hexec, verbSession, session_legal hr hst hl, if_neg (by decide), if_neg (not_not.mpr hpub)]
  cases s.dev.ephem with
  | none => rfl
  | some e => cases (ecDecompress pub).bind (ecdh e.1) <;> rfl

/-! ## fw stat -/

theorem exec_fwStat (ht : s.takes 8 (.fwStat l) = true) (hr : s.isReady = true) :
    exec (.fwStat l) s = .next (s.replies 8 l ([false, true].map fun b =>
      [kv "bank" (slotName b), kv "ver" (versionText (s.bankOf b)),
        kv "state" (asc (if (s.bankOf b).valid then "valid" else "empty")), kb "next" (s.bankOf b).next,
        kb "run" (s.dev.bank == b)]) []) := by
  have hexec : exec (.fwStat l) s = .next (verbFwStat l s) := congrArg _ (atLine_takes s 8 _ _ ht)
  rw [hexec, verbFwStat, hr]
  rfl

/-! ## fw write: what is checked -/

/-- The courts that a range of addresses meets are those that its addresses lie in (R312). -/
theorem srcTaken_iff {src len : Nat} : s.srcTaken src len = true ↔
    ∃ a, src ≤ a ∧ a < src + len ∧ a / courtBytes < 8 ∧ s.owner (a / courtBytes) ≠ none := by
  have hb : courtBytes = 3221225472 := rfl
  simp only [State.srcTaken, List.any_eq_true, List.mem_range, Bool.and_eq_true, decide_eq_true_eq,
    Option.isSome_iff_ne_none, hb]
  constructor
  · rintro ⟨c, hc, ⟨⟨ho, hlen⟩, hlo⟩, hhi⟩
    have hin : max src (c * 3221225472) / 3221225472 = c := by omega
    exact ⟨max src (c * 3221225472), by omega, by omega, by omega, by rwa [hin]⟩
  · rintro ⟨a, hlo, hhi, hc, ho⟩
    exact ⟨a / 3221225472, hc, ⟨⟨ho, by omega⟩, by omega⟩, by omega⟩

theorem fwRangeOk_iff {src len : Nat} : fwRangeOk src len = true ↔
    src % 64 = 0 ∧ len % 64 = 0 ∧ len ≤ 2 ^ 23 ∧ src + len ≤ 8 * courtBytes := by
  simp [fwRangeOk, and_assoc]

theorem windows_length (hs : s.sized = true) : s.windows.length = 9 := by
  obtain ⟨hwin, -⟩ := sized_iff.mp hs
  exact hwin

/-- What the management core's reads of a source change (R341, R342). -/
theorem coreRead_frame {ls : List Nat} : s.coreRead ls = { s with
    poison := (s.coreRead ls).poison, chans := (s.coreRead ls).chans, courts := (s.coreRead ls).courts
    free := (s.coreRead ls).free } := by
  unfold State.coreRead
  rw [observe_frame]
  rfl

/-- The bytes of a source. -/
def State.source (s : State) (src len : Nat) : List Byte := (List.range len).map fun k => s.rdDa (src + k)

/-- The management core, which has read the source as `r` says, can use it: it has bytes, none of them poisoned, and they
are a bundle that verifies (R312, R472). -/
def State.sourceOk (s r : State) (src len : Nat) : Prop :=
  0 < len ∧ (∀ a ∈ linesOf src len, r.cause a = none) ∧ s.bundleOk (s.source src len) = true

theorem exec_fwWrite {src len : Nat} (ht : s.takes 8 (.fwWrite l src len) = true) (hr : s.isReady = true) :
    exec (.fwWrite l src len) s = .next (
      if s.srcTaken src len then s.ignore 8 l .conflict
      else if !fwRangeOk src len then s.no 8 l "range"
      else
        let r := s.coreRead (linesOf src len)
        if (s.source src len).isEmpty || (linesOf src len).any (fun a => (r.cause a).isSome) ||
          !s.bundleOk (s.source src len) then r.no 8 l "verify"
        else r.startFlash l (s.source src len)) := by
  have hexec : exec (.fwWrite l src len) s = .next (verbFwWrite l src len s) := congrArg _ (atLine_takes s 8 _ _ ht)
  have hsrc : ((List.range len).map fun k => (s.coreRead (linesOf src len)).rdDa (src + k)) = s.source src len := by
    rw [coreRead_frame]
    rfl
  have hok : (s.coreRead (linesOf src len)).bundleOk = s.bundleOk := by
    rw [coreRead_frame]
    rfl
  rw [hexec, verbFwWrite, hr, if_neg (by decide)]
  dsimp only
  rw [hsrc, hok]
  rfl

theorem sourceOk_iff {r : State} {src len : Nat} : s.sourceOk r src len ↔
    ((s.source src len).isEmpty || (linesOf src len).any (fun a => (r.cause a).isSome) ||
      !s.bundleOk (s.source src len)) = false := by
  have hne : (s.source src len).isEmpty = false ↔ 0 < len := by
    cases len <;> simp [State.source]
  rw [Bool.or_eq_false_iff, Bool.or_eq_false_iff, hne, List.any_eq_false]
  simp [State.sourceOk, and_assoc]

/-! ## fw write: the flash -/

theorem bankOf_congr {b : Bool} (h : t.flash = s.flash) : t.bankOf b = s.bankOf b := by
  rw [State.bankOf, h, State.bankOf]

theorem bankOf_startFlash {bytes : List Byte} {b : Bool} : (s.startFlash l bytes).bankOf b =
    if b == !s.dev.bank then { s.bankOf b with valid := false, next := false, bundle := bytes }
    else { s.bankOf b with next := true } := by
  cases b <;> rfl

/-- R478, R479: the write begins in the bank that is not running, and the running bank is the next. -/
theorem startFlash_leaves {bytes : List Byte} (hs : s.sized = true) {ls : List Nat} :
    let t := (s.coreRead ls).startFlash l bytes
    t.fuses = s.fuses ∧ t.running = s.running ∧ t.dram = s.dram ∧ t.parts = s.parts ∧ (t.win 8).busy = some .flashing ∧
      t.dev = { s.dev with fw := some { ctx := l, bank := !s.dev.bank, bundle := bytes } } ∧
      t.bankOf (!s.dev.bank) = { s.bankOf (!s.dev.bank) with valid := false, next := false, bundle := bytes } ∧
      t.bankOf s.dev.bank = { s.bankOf s.dev.bank with next := true } := by
  have hwin : 8 < s.windows.length := by rw [windows_length hs]; decide
  dsimp only
  rw [coreRead_frame]
  refine ⟨rfl, rfl, rfl, rfl, congrArg Window.busy (win_updWin_same s 8 _ hwin), rfl, ?_, ?_⟩
  · rw [bankOf_startFlash, if_pos (beq_self_eq_true _)]
    rfl
  · rw [bankOf_startFlash, if_neg (by simp)]
    rfl

/-- A write of the flash has ended: its bank is valid, the next to boot, and no boot has failed from it (R478). -/
def State.flashed (s : State) (j : FwJob) : State :=
  { (s.updDev fun d => { d with fw := none }).updWin 8 fun w => { w with busy := none } with
    flash := [false, true].map fun k =>
      if k == j.bank then { s.bankOf k with valid := true, next := true, attempts := 0 }
      else { s.bankOf k with next := false } }

theorem bankOf_flashed {j : FwJob} {b : Bool} : (s.flashed j).bankOf b =
    if b == j.bank then { s.bankOf b with valid := true, next := true, attempts := 0 }
    else { s.bankOf b with next := false } := by
  cases b <;> rfl

theorem flashDone_of_verified {j : FwJob} (hj : s.dev.fw = some j)
    (hok : s.bundleOk (s.bankOf j.bank).bundle = true) : s.flashDone = (s.flashed j).ok 8 j.ctx := by
  have hn : (!s.bundleOk (s.bankOf j.bank).bundle) = false := by rw [hok]; rfl
  unfold State.flashDone
  rw [hj]
  exact if_neg (ne_true_of_eq_false hn)

/-- What the evictions of court caches change (R438). -/
theorem evictPoison_frame : s.evictPoison = { s with
    poison := s.evictPoison.poison, chans := s.evictPoison.chans, free := s.evictPoison.free } := by
  unfold State.evictPoison
  split
  · rfl
  · have hfresh (t : State) (h : t = { s with poison := t.poison, chans := t.chans }) :
        t.fresh = { s with poison := t.fresh.poison, chans := t.fresh.chans, free := t.fresh.free } := by
      rw [h]
      rfl
    refine hfresh _ (foldl_keeps (fun t : State => t = { s with poison := t.poison, chans := t.chans }) _ s.poison s rfl
      fun t e h => ?_)
    split
    · rw [h]
      rfl
    · exact h

theorem flashDone_leaves {j : FwJob} (hs : s.sized = true) :
    let t := ((s.flashed j).ok 8 j.ctx).evictPoison
    t.fuses = s.fuses ∧ t.dram = s.dram ∧ t.parts = s.parts ∧ t.dev = { s.dev with fw := none } ∧
      (t.win 8).busy = none ∧ t.bankOf j.bank = { s.bankOf j.bank with valid := true, next := true, attempts := 0 } ∧
      t.bankOf (!j.bank) = { s.bankOf (!j.bank) with next := false } := by
  have hwin : 8 < s.windows.length := by rw [windows_length hs]; decide
  have hbusy : (((s.flashed j).ok 8 j.ctx).win 8).busy = none :=
    ok_busy.trans (congrArg Window.busy (win_updWin_same s 8 _ hwin))
  dsimp only
  rw [evictPoison_frame]
  have hsaid : SameButTalk (s.flashed j) ((s.flashed j).ok 8 j.ctx) := ok_w8_sameButTalk
  have hflash : ((s.flashed j).ok 8 j.ctx).flash = (s.flashed j).flash := by rw [hsaid]
  refine ⟨by rw [hsaid]; rfl, by rw [hsaid]; rfl, hsaid.parts, hsaid.dev, hbusy, ?_, ?_⟩
  · exact (bankOf_congr hflash).trans (bankOf_flashed.trans (if_pos (beq_self_eq_true _)))
  · exact (bankOf_congr hflash).trans (bankOf_flashed.trans (if_neg (by simp)))

end

/-- Settles O14: `exec_fwWrite` says what a `fw write` checks, `startFlash_leaves` what its beginning leaves, and
`flashDone_leaves` what its end leaves. -/
theorem attestationSessionsAndFirmware : Obligations.AttestationSessionsAndFirmware := by
  refine ⟨fun s l p nonce pub => ⟨exec_attest, fun j rest hj hd => ⟨_, exec_attestReportDone hj hd, ?_⟩,
    fun d salt key z ht hr hst hl hpub he hk hz => ?_, fun ht hr hst hl hpub he => ?_⟩,
    fun s l src len hr hs => ?_⟩
  · have hsaid := replies_w8_sameButTalk (s := s.attested j rest) (l := j.ctx)
      (data := reportLines (s.attestReport j rest)) (last := [kn "len" 1344])
    exact ⟨hsaid.dev, hsaid.parts, hsaid.free⟩
  · rw [exec_session ht hr hst hl hpub, he]
    simp only [hk, Option.bind_some, hz]
  · rw [exec_session ht hr hst hl hpub, he]
  · intro r bytes ok taken inRange
    refine ⟨fun ht => exec_fwStat ht hr, fun ht => ?_, fun j hj hq hok => ?_⟩
    · have hexec := exec_fwWrite ht hr
      have htaken : s.srcTaken src len = true ↔ taken := srcTaken_iff
      have hrange : fwRangeOk src len = true ↔ inRange := fwRangeOk_iff
      have hread : ok ↔ _ := sourceOk_iff
      rw [← htaken, ← hrange, hread]
      refine ⟨fun h1 => ?_, fun h1 h2 => ?_, fun h1 h2 h3 => ?_,
        fun h1 h2 h3 => ⟨_, ?_, startFlash_leaves hs (ls := linesOf src len)⟩⟩
      · rw [hexec, if_pos h1]
      · rw [hexec, if_neg h1, if_pos (by simpa using h2)]
      · rw [hexec, if_neg h1, if_neg (by simpa using h2)]
        exact congrArg _ (if_pos (eq_true_of_ne_false h3))
      · rw [hexec, if_neg h1, if_neg (by simpa using h2)]
        exact congrArg _ (if_neg (ne_true_of_eq_false h3))
    · refine ⟨_, ?_, flashDone_leaves hs⟩
      rw [step, hq]
      exact congrArg (fun t : State => Host.Outcome.next t.evictPoison) (flashDone_of_verified hj hok)

end Sys2Proof.Machine

namespace Sys2Proof.Machine

/-! # Drills (R316, R338, R457 to R461) -/

section

variable {s t : State} {c j k : Nat} {cs : List Nat}

/-! ## Passes begin -/

/-- Passes begin on some courts. -/
def State.startPasses (s : State) (cs : List Nat) : State := cs.foldl (fun s c => s.startPass c) s

theorem startPasses_cons : s.startPasses (c :: cs) = (s.startPass c).startPasses cs := by
  rw [State.startPasses, List.foldl_cons, State.startPasses]

theorem startPass_frame : s.startPass c = { s with courts := (s.startPass c).courts, cl := (s.startPass c).cl } := by
  unfold State.startPass
  exact foldl_keeps (fun t : State => t = { s with courts := t.courts, cl := t.cl }) _ (List.range 12) _ rfl fun t k h => by
    rw [h]
    rfl

theorem startPasses_frame :
    s.startPasses cs = { s with courts := (s.startPasses cs).courts, cl := (s.startPasses cs).cl } :=
  foldl_keeps (fun t : State => t = { s with courts := t.courts, cl := t.cl }) _ cs s rfl fun t k h => by
    rw [startPass_frame, h]

/-- Of the clusters from 12c, those of some offsets restart. -/
theorem clu_restart {ks : List Nat} :
    (ks.foldl (fun s k => s.updClu (12 * c + k) fun e => { e with drillK := 0 }) s).clu j =
      if j < s.cl.length ∧ ∃ k ∈ ks, 12 * c + k = j then { s.clu j with drillK := 0 } else s.clu j := by
  induction ks generalizing s with
  | nil => simp
  | cons k ks ih =>
    rw [List.foldl_cons, ih, updClu_cl, List.length_modify]
    by_cases hk : 12 * c + k = j
    · by_cases hj : j < s.cl.length
      · subst hk
        simp [hj, clu_updClu_same]
      · simp [hj, State.clu, tget, State.updClu, List.getD_eq_getElem?_getD]
    · simp [hk, clu_updClu_ne]

/-- A pass begins with the first kernel on each cluster of its court, and changes no other (R457). -/
theorem clu_startPass : (s.startPass c).clu j =
    if j < s.cl.length ∧ j / 12 = c then { s.clu j with drillK := 0 } else s.clu j := by
  have hmem : (∃ k ∈ List.range 12, 12 * c + k = j) ↔ j / 12 = c :=
    ⟨fun ⟨k, hk, he⟩ => by have := List.mem_range.mp hk; omega,
      fun h => ⟨j % 12, List.mem_range.mpr (Nat.mod_lt _ (by decide)), by omega⟩⟩
  unfold State.startPass
  dsimp only
  rw [clu_restart]
  simp only [hmem]
  rfl

theorem cl_length_startPass : (s.startPass c).cl.length = s.cl.length := by
  unfold State.startPass
  exact foldl_keeps (fun t : State => t.cl.length = s.cl.length) _ (List.range 12) _ rfl fun t k h => by simpa using h

theorem courts_startPass : (s.startPass c).courts = s.courts.modify c fun k => { k with drill := true } := by
  unfold State.startPass
  exact foldl_keeps (fun t : State => t.courts = s.courts.modify c fun k => { k with drill := true }) _ (List.range 12) _
    rfl fun _ _ h => h

theorem court_startPass_same (h : c < s.courts.length) : ((s.startPass c).court c).drill = true := by
  rw [State.court, courts_startPass, tget_modify_same _ _ _ _ h]

theorem court_startPass_ne (h : c ≠ k) : (s.startPass c).court k = s.court k := by
  rw [State.court, courts_startPass, tget_modify_ne _ _ _ _ _ h, State.court]

/-- Every court of some on which passes begin drills. -/
theorem court_startPasses (hk : k < s.courts.length) (h : (s.court k).drill = true ∨ k ∈ cs) :
    ((s.startPasses cs).court k).drill = true := by
  induction cs generalizing s with
  | nil => exact h.resolve_right List.not_mem_nil
  | cons c cs ih =>
    rw [startPasses_cons]
    refine ih (by rwa [courts_startPass, List.length_modify]) ?_
    obtain rfl | hck := eq_or_ne c k
    · exact .inl (court_startPass_same hk)
    · rw [court_startPass_ne hck]
      exact h.imp_right fun hm => (List.mem_cons.mp hm).resolve_left hck.symm

/-- Every cluster of a court on which a pass begins starts with the first kernel. -/
theorem drillK_startPasses (hj : j < s.cl.length) (h : (s.clu j).drillK = 0 ∨ j / 12 ∈ cs) :
    ((s.startPasses cs).clu j).drillK = 0 := by
  induction cs generalizing s with
  | nil => exact h.resolve_right List.not_mem_nil
  | cons c cs ih =>
    rw [startPasses_cons]
    refine ih (by rwa [cl_length_startPass]) ?_
    rw [clu_startPass]
    by_cases hc : j / 12 = c
    · exact .inl (by rw [if_pos ⟨hj, hc⟩])
    · rw [if_neg fun h => hc h.2]
      exact h.imp_right fun hm => (List.mem_cons.mp hm).resolve_left hc

/-! ## Lines that wait for a pass -/

theorem updDev_startPass {f : Device → Device} : (s.updDev f).startPass c = (s.startPass c).updDev f := by
  unfold State.startPass
  exact List.foldl_hom (fun s : State => s.updDev f) (init := s.updCourt c fun k => { k with drill := true }) fun _ _ => rfl

theorem updDev_startPasses {f : Device → Device} : (s.updDev f).startPasses cs = (s.startPasses cs).updDev f :=
  List.foldl_hom (fun s : State => s.updDev f) fun _ _ => updDev_startPass

/-- A court on which no line waits for a pass begins none (R316). -/
theorem nextPass_of_none (h : ∀ d ∈ s.dev.drills, c ∉ d.wait) : s.nextPass c = s := by
  have hnone : s.dev.drills.findIdx? (fun j => j.wait.contains c) = none :=
    List.findIdx?_eq_none_iff.mpr fun d hd => by simpa using h d hd
  unfold State.nextPass
  rw [hnone]
  exact ite_self s

/-- The pass of a line that waits for a court begins once the court does not drill (R316). -/
theorem nextPass_of_some (hd : (s.court c).drill = false) (h : ∃ d ∈ s.dev.drills, c ∈ d.wait) :
    ∃ f : Device → Device, s.nextPass c = (s.startPass c).updDev f := by
  obtain ⟨i, hi⟩ : ∃ i, s.dev.drills.findIdx? (fun j => j.wait.contains c) = some i := by
    rw [← Option.isSome_iff_exists, List.findIdx?_isSome]
    simpa using h
  unfold State.nextPass
  rw [hd, hi]
  exact ⟨fun d => { d with drills := d.drills.modify i fun j => j.begin c }, rfl⟩

theorem modify_length_append {α : Type} {l : List α} {a : α} {f : α → α} :
    (l ++ [a]).modify l.length f = l ++ [f a] := by
  induction l with
  | nil => rfl
  | cons b l ih => rw [List.cons_append, List.length_cons, List.modify_succ_cons, ih, List.cons_append]

/-- The last line waits for a court alone: its pass begins. -/
theorem nextPass_of_last {ds : List DrillJob} {j : DrillJob} (hd : (s.court c).drill = false)
    (hdrills : s.dev.drills = ds ++ [j]) (hds : ∀ d ∈ ds, c ∉ d.wait) (hj : c ∈ j.wait) :
    s.nextPass c = (s.startPass c).updDev fun d => { d with drills := ds ++ [j.begin c] } := by
  have hidx : s.dev.drills.findIdx? (fun j => j.wait.contains c) = some ds.length := by
    have hnone : ds.findIdx? (fun j => j.wait.contains c) = none :=
      List.findIdx?_eq_none_iff.mpr fun d hd => by simpa using hds d hd
    rw [hdrills, List.findIdx?_append, hnone]
    simp [List.findIdx?_cons, hj]
  have hdev : (s.startPass c).dev = s.dev := by rw [startPass_frame]
  unfold State.nextPass
  rw [hd, hidx]
  simp [State.updDev, hdev, hdrills, modify_length_append]

/-- Lines of which the last alone waits, for courts that do not drill: the pass of each begins. -/
theorem foldl_nextPass {ds : List DrillJob} {j : DrillJob} (hn : cs.Nodup) (hidle : ∀ c ∈ cs, (s.court c).drill = false)
    (hds : ∀ c ∈ cs, ∀ d ∈ ds, c ∉ d.wait) (hd : s.dev.drills = ds ++ [{ j with wait := cs }]) :
    cs.foldl (fun s c => s.nextPass c) s = (s.startPasses cs).updDev fun d =>
      { d with drills := ds ++ [{ j with wait := [], on := j.on ++ cs }] } := by
  induction cs generalizing s j with
  | nil => simp [State.startPasses, State.updDev, ← hd]
  | cons c cs ih =>
    obtain ⟨hc, hn⟩ := List.nodup_cons.mp hn
    obtain ⟨hidlec, hidle⟩ := List.forall_mem_cons.mp hidle
    obtain ⟨hdsc, hds⟩ := List.forall_mem_cons.mp hds
    have hfilter : (c :: cs).filter (· != c) = cs := by
      rw [List.filter_cons_of_neg (by simp), List.filter_eq_self]
      exact fun k hk => bne_iff_ne.mpr fun h => hc (h ▸ hk)
    rw [List.foldl_cons, nextPass_of_last hidlec hd hdsc List.mem_cons_self]
    rw [ih (j := { j with on := j.on ++ [c] }) hn ?_ hds ?_]
    · rw [updDev_startPasses, startPasses_cons]
      simp [State.updDev]
    · intro k hk
      have hck : c ≠ k := fun h => hc (h ▸ hk)
      rw [court_updDev, court_startPass_ne hck]
      exact hidle k hk
    · simp [DrillJob.begin, hfilter]

end

section

variable {s t : State} {l : LineCtx} {p : Part} {c : Court} {cs : List Court}

/-! ## drill -/

theorem nodup_eraseDups {l : List Nat} : l.eraseDups.Nodup := by
  induction hn : l.length using Nat.strong_induction_on generalizing l with
  | _ n ih =>
    cases l with
    | nil => exact List.nodup_nil
    | cons a r =>
      have hlt : (r.filter fun b => !b == a).length < n := by
        rw [← hn, List.length_cons]
        exact Nat.lt_succ_of_le (List.length_filter_le ..)
      rw [List.eraseDups_cons, List.nodup_cons]
      exact ⟨by simp, ih _ hlt rfl⟩

/-- A `drill` line of w8 whose pass has begun on none of its courts. -/
def drillLine (l : LineCtx) (ks : List Nat) : DrillJob :=
  { ctx := l, courts := ks, res := ks.map fun k => (k, 0, 0), wait := ks, on := [] }

/-- The courts of a `drill` line, each once. -/
def drillSet (cs : List Court) : List Nat := (cs.map (·.val)).eraseDups

theorem mem_drillSet {k : Nat} : k ∈ drillSet cs ↔ ∃ c ∈ cs, c.val = k := by
  rw [drillSet, List.mem_eraseDups, List.mem_map]

theorem exec_drillCourts (ht : s.takes 8 (.drillCourts l cs) = true) (hr : s.isReady = true)
    (ho : ∀ k ∈ cs, s.owner k.val = none) :
    exec (.drillCourts l cs) s = .next ((drillSet cs).foldl (fun s c => s.nextPass c)
      (s.updDev fun d => { d with drills := d.drills ++ [drillLine l (drillSet cs)] })) := by
  have hexec : exec (.drillCourts l cs) s = .next (verbDrillCourts l cs s) := congrArg _ (atLine_takes s 8 _ _ ht)
  have hfree : ((drillSet cs).any fun c => (s.owner c).isSome) = false := by
    refine List.any_eq_false.mpr fun k hk => ?_
    obtain ⟨c, hc, rfl⟩ := mem_drillSet.mp hk
    rw [ho c hc]
    decide
  rw [hexec, verbDrillCourts, hr, if_neg (by decide)]
  exact congrArg _ (if_neg (ne_true_of_eq_false hfree))

theorem drillCourts_begins (hs : s.sized = true)
    (hf : ∀ k ∈ cs, (s.court k).drill = false ∧ ∀ d ∈ s.dev.drills, k.val ∉ d.wait) :
    let t := (drillSet cs).foldl (fun s c => s.nextPass c)
      (s.updDev fun d => { d with drills := d.drills ++ [drillLine l (drillSet cs)] })
    t.parts = s.parts ∧ t.out = s.out ∧ t.windows = s.windows ∧
      (∀ k ∈ cs, (t.court k).drill = true ∧ ∀ i < 12, (t.clu (12 * k + i)).drillK = 0) ∧
      t.dev.drills = s.dev.drills ++ [{ drillLine l (drillSet cs) with wait := [], on := drillSet cs }] := by
  intro t
  obtain ⟨-, -, hcourts, hcl, -⟩ := sized_iff.mp hs
  have ht : t = ((s.startPasses (drillSet cs)).updDev fun d =>
      { d with drills := d.drills ++ [drillLine l (drillSet cs)] }).updDev fun d =>
      { d with drills := s.dev.drills ++ [{ drillLine l (drillSet cs) with wait := [], on := drillSet cs }] } := by
    have hfold := foldl_nextPass (j := drillLine l (drillSet cs)) (ds := s.dev.drills) (cs := drillSet cs)
      (s := s.updDev fun d => { d with drills := d.drills ++ [drillLine l (drillSet cs)] }) nodup_eraseDups
      (fun k hk => ?_) (fun k hk => ?_) rfl
    · rw [updDev_startPasses] at hfold
      exact hfold
    · obtain ⟨c, hc, rfl⟩ := mem_drillSet.mp hk
      exact (hf c hc).1
    · obtain ⟨c, hc, rfl⟩ := mem_drillSet.mp hk
      exact (hf c hc).2
  have hparts : (s.startPasses (drillSet cs)).parts = s.parts := by rw [startPasses_frame]
  have hout : (s.startPasses (drillSet cs)).out = s.out := by rw [startPasses_frame]
  have hwins : (s.startPasses (drillSet cs)).windows = s.windows := by rw [startPasses_frame]
  rw [ht]
  refine ⟨hparts, hout, hwins, fun k hk => ⟨?_, fun i hi => ?_⟩, rfl⟩
  · exact court_startPasses (by omega) (.inr (mem_drillSet.mpr ⟨k, hk, rfl⟩))
  · exact drillK_startPasses (by omega) (.inr (mem_drillSet.mpr ⟨k, hk, by omega⟩))

theorem drillCourts_waits (hd : ∀ k ∈ cs, (s.court k).drill = true) {f : Device → Device} :
    (drillSet cs).foldl (fun s c => s.nextPass c) (s.updDev f) = s.updDev f := by
  refine foldl_fixed fun k hk => if_pos ?_
  obtain ⟨c, hc, rfl⟩ := mem_drillSet.mp hk
  exact hd c hc

theorem exec_drillPartition (ht : s.takes p (.drillPartition l p) = true)
    (hl : s.legal p true true false false = true) (ho : (s.part p).outstanding = false) :
    exec (.drillPartition l p) s = .next ((s.startPasses (s.part p).courts).updPart p fun q => { q with
      drill := some { drillLine l q.courts with wait := [], on := q.courts } }) := by
  have hexec : exec (.drillPartition l p) s = .next (verbDrillPartition l p s) := congrArg _ (atLine_takes s p _ _ ht)
  rw [hexec, verbDrillPartition, hl, ho]
  exact congrArg _ (if_neg (by decide))

theorem drillPartition_begins (hs : s.sized = true) (hc : s.courtsOk = true) :
    let t := (s.startPasses (s.part p).courts).updPart p fun q => { q with
      drill := some { drillLine l q.courts with wait := [], on := q.courts } }
    t.out = s.out ∧ t.dram = s.dram ∧ (∀ k ∈ (s.part p).courts, (t.court k).drill = true) ∧
      (t.part p).drill = some { drillLine l (s.part p).courts with wait := [], on := (s.part p).courts } := by
  intro t
  obtain ⟨-, -, hcourts, -⟩ := sized_iff.mp hs
  have hparts : (s.startPasses (s.part p).courts).parts = s.parts := by rw [startPasses_frame]
  have hout : (s.startPasses (s.part p).courts).out = s.out := by rw [startPasses_frame]
  have hdram : (s.startPasses (s.part p).courts).dram = s.dram := by rw [startPasses_frame]
  refine ⟨hout, hdram, fun k hk => ?_, ?_⟩
  · have hk8 : k < 8 := courts_lt hs hc hk
    exact court_startPasses (by omega) (.inr hk)
  · have hpart : (s.startPasses (s.part p).courts).part p = s.part p := by rw [State.part, hparts, State.part]
    have hlt : p.val < (s.startPasses (s.part p).courts).parts.length := by
      rw [hparts]
      exact part_lt_length hs
    rw [part_updPart_same _ _ _ hlt, hpart]

theorem exec_drillSchedule (hr : s.isReady = true) (ho : s.owner c = none) (hd : (s.court c).drill = false) :
    exec (.drillSchedule c) s = .next (s.startPass c) :=
  congrArg _ (if_pos ⟨hr, by rw [ho]; rfl, by rw [hd]; rfl⟩)

/-! ## The reply -/

theorem exec_drillPassDone {w : Win} {j : DrillJob} (hw : w.val ≠ 8) (hj : (s.part w).drill = some j)
    (hwait : j.wait = []) (hon : j.on = []) (hd : s.dev.dfault = none) :
    exec (.drillPassDone w) s = .next ((s.updPart w fun q => { q with drill := none }).ok w j.ctx
      [kn "pass" ((j.res.map (·.2.1)).foldl (· + ·) 0), kn "fail" ((j.res.map (·.2.2)).foldl (· + ·) 0)]) := by
  have hended : (j.wait.isEmpty && j.on.isEmpty) = true := by rw [hwait, hon]; rfl
  change execDrillPassDone w s = _
  unfold execDrillPassDone
  dsimp only
  rw [hd, if_neg (by decide), if_neg hw, hj]
  exact congrArg _ (if_pos hended)

theorem exec_drillPassDone_w8 {j : DrillJob} (hj : s.dev.drills = [j]) (hwait : j.wait = []) (hon : j.on = [])
    (hd : s.dev.dfault = none) :
    exec (.drillPassDone 8) s = .next ((s.updDev fun d => { d with drills := [] }).replies 8 j.ctx
      (j.res.map fun r => [nameN "c" r.1, kn "pass" r.2.1, kn "fail" r.2.2]) []) := by
  have hended : (j.wait.isEmpty && j.on.isEmpty) = true := by rw [hwait, hon]; rfl
  have hidx : s.dev.drills.findIdx? (fun j => j.wait.isEmpty && j.on.isEmpty) = some 0 := by
    rw [hj, List.findIdx?_cons, hended]
    rfl
  have hget : s.dev.drills[0]? = some j := by rw [hj]; rfl
  have hrest : (s.updDev fun d => { d with drills := d.drills.eraseIdx 0 }) = s.updDev fun d => { d with drills := [] } := by
    simp [State.updDev, hj]
  change execDrillPassDone 8 s = _
  unfold execDrillPassDone
  dsimp only
  rw [hd, if_neg (by decide), if_pos (by decide), hidx]
  dsimp only
  rw [hget]
  dsimp only
  rw [hrest]

end

section

variable {s t u : State} {g : Clu} {pass owned : Bool} {obs : HwObs} {c j : Nat}

/-! ## A kernel ends -/

/-- A cluster on which a kernel of a pass has ended (R459 to R461). -/
def Cluster.ranKernel (k : Cluster) (owned : Bool) (free kernel : Nat) (pass : Bool) : Cluster :=
  let k := if owned then k.afterRun kernel free else k
  { k with
    dRuns := k.dRuns + 1, drillK := kernel + 1
    dFails := if pass then k.dFails else satAdd 0xFFFFFFFF k.dFails 1
    dLast := if pass then k.dLast else kernel
    dValid := k.dValid || !pass }

/-- What a run leaves of the counters of R461 and of E4 to E7. -/
theorem ranKernel_counts {k : Cluster} {free kernel : Nat} :
    (k.ranKernel owned free kernel pass).dRuns = k.dRuns + 1 ∧
      (k.ranKernel owned free kernel pass).dFails = (if pass then k.dFails else min 0xFFFFFFFF (k.dFails + 1)) ∧
      (k.ranKernel owned free kernel pass).dLast = (if pass then k.dLast else kernel) ∧
      (k.ranKernel owned free kernel pass).e.drop 4 = k.e.drop 4 := by
  cases owned with
  | false => exact ⟨rfl, rfl, rfl, rfl⟩
  | true => exact ⟨rfl, rfl, rfl, List.drop_left' (by simp)⟩

/-- Errors corrected in scratchpads are counted (R463). -/
def State.countCorrected (s : State) (is : List Nat) : State :=
  is.foldl (fun s i => s.updClu i fun k => { k with spce := satAdd 0xFFFFFFFF k.spce 1 }) s

/-- A run is counted for the line that it belongs to; the failure of one on a FREE court is an event (R459, R461). -/
def State.countRun (s : State) (g : Clu) (own : Option Nat) (kernel : Nat) (pass : Bool) : State :=
  match own with
  | some p => s.updPart p fun q => { q with drill := q.drill.map fun j => j.add (g.val / 12) pass }
  | none =>
    let s := s.updDev fun d => { d with drills := d.drills.map fun j => j.add (g.val / 12) pass }
    if pass then s
    else s.event (evLine {} [asc "drill", nameN "c" (g.val / 12), kn "cl" (g.val % 12), kn "kernel" kernel])

/-- The state in which a kernel has ended and been counted. -/
def State.ranKernel (s : State) (g : Clu) (pass : Bool) (obs : HwObs) : State :=
  ((s.updClu g (·.ranKernel (s.ownerG g).isSome s.free (s.clu g).drillK (drillPassed pass obs))).fresh.countCorrected
    (obs.spCe.filter fun i => i / 12 == g.val / 12)).countRun g (s.ownerG g) (s.clu g).drillK (drillPassed pass obs)

/-- Every cluster of a court has run all twelve kernels. -/
def State.passEnds (s : State) (c : Nat) : Bool := (List.range 12).all fun k => decide ((s.clu (12 * c + k)).drillK ≥ 12)

/-- The state after the end of a kernel: where it was the last of its court's pass, the pass is over, and the next begins. -/
def State.kernelEnded (s : State) (g : Clu) (pass : Bool) (obs : HwObs) : State :=
  if (s.ranKernel g pass obs).passEnds (g.val / 12) then
    ((s.ranKernel g pass obs).passOver (g.val / 12)).nextPass (g.val / 12)
  else s.ranKernel g pass obs

theorem exec_drillKernelEnd (hdrill : (s.court (g.val / 12)).drill = true) (hk : (s.clu g).drillK < 12)
    (hd : s.dev.dfault = none) : exec (.drillKernelEnd g pass obs) s = .next (s.kernelEnded g pass obs) := by
  change execDrillKernelEnd g pass s obs = _
  unfold execDrillKernelEnd
  dsimp only
  rw [if_neg (by simp [hdrill, hk, hd])]
  rfl

/-! ## What the end of a kernel leaves -/

/-- Which lines wait for a pass on a court. -/
def State.drillWaits (s : State) : List (List Nat) := s.dev.drills.map (·.wait)

/-- Memory, courts and the lines that wait stand as they were. -/
structure State.SameDrills (s t : State) : Prop where
  dram : t.dram = s.dram
  courts : t.courts = s.courts
  drillWaits : t.drillWaits = s.drillWaits

theorem SameButTalk.sameDrills (h : SameButTalk s t) : s.SameDrills t :=
  ⟨by rw [h], by rw [h], by rw [h]; rfl⟩

theorem State.SameDrills.trans (h : s.SameDrills t) (h' : t.SameDrills u) : s.SameDrills u :=
  ⟨h'.dram.trans h.dram, h'.courts.trans h.courts, h'.drillWaits.trans h.drillWaits⟩

theorem add_wait {j : DrillJob} : (j.add c pass).wait = j.wait := by
  unfold DrillJob.add
  split
  · rfl
  · rfl

theorem updDrills_drillWaits {f : DrillJob → DrillJob} (hf : ∀ j, (f j).wait = j.wait) :
    (s.updDev fun d => { d with drills := d.drills.map f }).drillWaits = s.drillWaits := by
  simp [State.drillWaits, State.updDev, hf]

theorem countRun_sameDrills {own : Option Nat} {kernel : Nat} : s.SameDrills (s.countRun g own kernel pass) := by
  unfold State.countRun
  split
  · exact ⟨rfl, rfl, rfl⟩
  · extract_lets t
    have ht : s.SameDrills t := ⟨rfl, rfl, updDrills_drillWaits fun _ => add_wait⟩
    split
    · exact ht
    · exact ht.trans event_sameButTalk.sameDrills

theorem countRun_cl {own : Option Nat} {kernel : Nat} : (s.countRun g own kernel pass).cl = s.cl := by
  unfold State.countRun
  split
  · rfl
  · dsimp only
    split
    · rfl
    · rw [event_sameButTalk]
      rfl

theorem countCorrected_frame {is : List Nat} : s.countCorrected is = { s with cl := (s.countCorrected is).cl } :=
  foldl_keeps (fun t : State => t = { s with cl := t.cl }) _ is s rfl fun t i h => by
    rw [h]
    rfl

/-- Corrected errors are counted up to the end of the counter, and nothing else of a cluster changes (R463). -/
theorem clu_countCorrected {is : List Nat} (hj : j ∈ is → j < s.cl.length) (hmax : (s.clu j).spce ≤ 0xFFFFFFFF) :
    (s.countCorrected is).clu j = { s.clu j with spce := min 0xFFFFFFFF ((s.clu j).spce + is.count j) } := by
  induction is generalizing s with
  | nil => simp [State.countCorrected, hmax]
  | cons i is ih =>
    have hcons : s.countCorrected (i :: is) =
        (s.updClu i fun k => { k with spce := satAdd 0xFFFFFFFF k.spce 1 }).countCorrected is := List.foldl_cons ..
    have hlt : j ∈ is → j < (s.updClu i fun k => { k with spce := satAdd 0xFFFFFFFF k.spce 1 }).cl.length := fun h => by
      rw [updClu_cl, List.length_modify]
      exact hj (List.mem_cons_of_mem i h)
    rw [hcons]
    obtain rfl | hij := eq_or_ne i j
    · have hclu := clu_updClu_same s i (fun k => { k with spce := satAdd 0xFFFFFFFF k.spce 1 }) (hj List.mem_cons_self)
      have hsum : min 0xFFFFFFFF (satAdd 0xFFFFFFFF (s.clu i).spce 1 + is.count i) =
          min 0xFFFFFFFF ((s.clu i).spce + (i :: is).count i) := by
        rw [List.count_cons_self, satAdd]
        omega
      rw [ih hlt (by rw [hclu]; exact Nat.min_le_left ..), hclu, ← hsum]
    · have hclu := clu_updClu_ne s i j (fun k => { k with spce := satAdd 0xFFFFFFFF k.spce 1 }) hij
      rw [ih hlt (by rwa [hclu]), hclu, List.count_cons_of_ne hij]

theorem clu_countCorrected_keeps {is : List Nat} :
    (s.countCorrected is).clu j = { s.clu j with spce := ((s.countCorrected is).clu j).spce } := by
  refine foldl_keeps (fun t : State => t.clu j = { s.clu j with spce := (t.clu j).spce }) _ is s rfl fun t i h => ?_
  obtain hsame | ⟨-, hnew⟩ := clu_updClu_cases (t := t) i j fun k => { k with spce := satAdd 0xFFFFFFFF k.spce 1 }
  · rwa [hsame]
  · rw [hnew, h]

/-- The clusters when a kernel of one has ended: beside that one, corrected errors alone (R459 to R461, R463). -/
theorem clu_ranKernel_keeps : (s.ranKernel g pass obs).clu j =
    { (s.updClu g (·.ranKernel (s.ownerG g).isSome s.free (s.clu g).drillK (drillPassed pass obs))).clu j with
      spce := ((s.ranKernel g pass obs).clu j).spce } := by
  rw [State.clu, State.ranKernel, countRun_cl]
  exact clu_countCorrected_keeps

theorem clu_ranKernel_same (hs : s.sized = true) : (s.ranKernel g pass obs).clu g =
    { (s.clu g).ranKernel (s.ownerG g).isSome s.free (s.clu g).drillK (drillPassed pass obs) with
      spce := ((s.ranKernel g pass obs).clu g).spce } := by
  obtain ⟨-, -, -, hcl, -⟩ := sized_iff.mp hs
  have hclu := clu_ranKernel_keeps (s := s) (g := g) (pass := pass) (obs := obs) (j := g)
  rwa [clu_updClu_same s g _ (by omega)] at hclu

theorem drillK_ranKernel_ne (hj : j ≠ g) : ((s.ranKernel g pass obs).clu j).drillK = (s.clu j).drillK := by
  have hclu := clu_ranKernel_keeps (s := s) (g := g) (pass := pass) (obs := obs) (j := j)
  rw [clu_updClu_ne s g j _ hj.symm] at hclu
  rw [hclu]

/-- Errors corrected in the scratchpads of the court are counted, others are not (R463). -/
theorem clu_ranKernel_ne (hs : s.sized = true) (hj : j ≠ g) (hmax : (s.clu j).spce ≤ 0xFFFFFFFF) :
    (s.ranKernel g pass obs).clu j = { s.clu j with
      spce := min 0xFFFFFFFF ((s.clu j).spce + (obs.spCe.filter fun i => i = j ∧ i / 12 = g.val / 12).length) } := by
  obtain ⟨-, -, -, hcl, -⟩ := sized_iff.mp hs
  have hne := clu_updClu_ne s g j
    (·.ranKernel (s.ownerG g).isSome s.free (s.clu g).drillK (drillPassed pass obs)) hj.symm
  have hcount : (obs.spCe.filter fun i => i / 12 == g.val / 12).count j =
      (obs.spCe.filter fun i => i = j ∧ i / 12 = g.val / 12).length := by
    rw [List.count, List.countP_filter, List.countP_eq_length_filter]
    congr 2
    funext i
    rw [Bool.decide_and]
    rfl
  rw [State.clu, State.ranKernel, countRun_cl, ← State.clu, clu_countCorrected, clu_fresh, hne, hcount]
  · intro hm
    have hc : j / 12 = g.val / 12 := by simpa using (List.mem_filter.mp hm).2
    rw [fresh_cl, updClu_cl, List.length_modify]
    omega
  · rwa [clu_fresh, hne]

theorem ranKernel_cl_length : (s.ranKernel g pass obs).cl.length = s.cl.length := by
  rw [State.ranKernel, countRun_cl]
  exact foldl_keeps (fun t : State => t.cl.length = s.cl.length) _ _ _ (List.length_modify ..) fun t i h => by simpa using h

theorem ranKernel_sameDrills : s.SameDrills (s.ranKernel g pass obs) := by
  refine State.SameDrills.trans ?_ countRun_sameDrills
  rw [countCorrected_frame]
  exact ⟨rfl, rfl, rfl⟩

/-- The kernel that ends is the last of its court's pass: of all other clusters, every one has ended (R457). -/
def State.lastKernel (s : State) (g : Clu) : Prop :=
  (s.clu g).drillK = 11 ∧ ∀ i < 12, 12 * (g.val / 12) + i ≠ g.val → (s.clu (12 * (g.val / 12) + i)).drillK ≥ 12

theorem passEnds_ranKernel (hs : s.sized = true) (hk : (s.clu g).drillK < 12) :
    (s.ranKernel g pass obs).passEnds (g.val / 12) = true ↔ s.lastKernel g := by
  have hsame : ((s.ranKernel g pass obs).clu g).drillK = (s.clu g).drillK + 1 := by
    rw [clu_ranKernel_same hs]
    rfl
  simp only [State.passEnds, List.all_eq_true, List.mem_range, decide_eq_true_eq]
  constructor
  · refine fun h => ⟨?_, fun i hi hne => ?_⟩
    · have hg := h (g.val % 12) (Nat.mod_lt _ (by decide))
      rw [Nat.div_add_mod, hsame] at hg
      omega
    · rw [← drillK_ranKernel_ne hne]
      exact h i hi
  · rintro ⟨h11, hothers⟩ i hi
    by_cases hg : 12 * (g.val / 12) + i = g.val
    · rw [hg, hsame, h11]
    · rw [drillK_ranKernel_ne hg]
      exact hothers i hi hg

/-! ## A pass ends -/

theorem passOver_cl : (s.passOver c).cl = s.cl := by
  unfold State.passOver
  dsimp only
  split
  · rfl
  · rfl

theorem passOver_courts_length : (s.passOver c).courts.length = s.courts.length := by
  unfold State.passOver
  dsimp only
  split
  · exact List.length_modify ..
  · exact List.length_modify ..

theorem passOver_dram : (s.passOver c).dram = s.dram := by
  unfold State.passOver
  dsimp only
  split
  · rfl
  · rfl

theorem passOver_drillWaits : (s.passOver c).drillWaits = s.drillWaits := by
  have hends (t : State) : (t.updDev fun d => { d with drills := d.drills.map fun j =>
      { j with on := j.on.filter (· != c) } }).drillWaits = t.drillWaits := updDrills_drillWaits fun _ => rfl
  unfold State.passOver
  dsimp only
  split
  · exact hends _
  · exact hends _

/-- A court whose pass is over does not drill. -/
theorem court_passOver (hc : c < s.courts.length) : ((s.passOver c).court c).drill = false := by
  have hcourt := congrArg CourtSt.drill (court_updCourt_same s c (fun k => { k with drill := false }) hc)
  unfold State.passOver
  dsimp only
  split
  · exact hcourt
  · exact hcourt

theorem exists_waits_iff : (∃ d ∈ s.dev.drills, c ∈ d.wait) ↔ ∃ w ∈ s.drillWaits, c ∈ w := by
  simp [State.drillWaits]

theorem clu_nextPass : (s.nextPass c).clu j = { s.clu j with drillK := ((s.nextPass c).clu j).drillK } := by
  by_cases hd : (s.court c).drill = true
  · rw [show s.nextPass c = s from if_pos hd]
  · by_cases hw : ∃ d ∈ s.dev.drills, c ∈ d.wait
    · obtain ⟨f, hf⟩ := nextPass_of_some (eq_false_of_ne_true hd) hw
      rw [hf, clu_updDev, clu_startPass]
      split
      · rfl
      · rfl
    · rw [nextPass_of_none (by simpa using hw)]

/-! ## What the end of a kernel leaves, in all -/

theorem kernelEnded_dram : (s.kernelEnded g pass obs).dram = s.dram := by
  unfold State.kernelEnded
  split
  · have hnext (t : State) : (t.nextPass (g.val / 12)).dram = t.dram := congrArg Mems.dram nextPass_mems
    rw [hnext, passOver_dram, ranKernel_sameDrills.dram]
  · exact ranKernel_sameDrills.dram

/-- A pass that begins at the end of a kernel changes of a cluster the kernel that is next alone. -/
theorem clu_kernelEnded : (s.kernelEnded g pass obs).clu j =
    { (s.ranKernel g pass obs).clu j with drillK := ((s.kernelEnded g pass obs).clu j).drillK } := by
  unfold State.kernelEnded
  split
  · rw [clu_nextPass, State.clu, passOver_cl]
    rfl
  · rfl

/-- Where no pass begins, the clusters are as the kernel has left them, and the court drills on but after the last. -/
theorem kernelEnded_of_no_pass (hs : s.sized = true) (hdrill : (s.court (g.val / 12)).drill = true)
    (hk : (s.clu g).drillK < 12) (h : ¬ s.lastKernel g ∨ ∀ d ∈ s.dev.drills, g.val / 12 ∉ d.wait) :
    (s.kernelEnded g pass obs).cl = (s.ranKernel g pass obs).cl ∧
      (((s.kernelEnded g pass obs).court (g.val / 12)).drill = true ↔ ¬ s.lastKernel g) := by
  have hcourts : (s.ranKernel g pass obs).courts = s.courts := ranKernel_sameDrills.courts
  have hends := passEnds_ranKernel (pass := pass) (obs := obs) hs hk
  unfold State.kernelEnded
  by_cases hlast : s.lastKernel g
  · have hwait := h.resolve_left (not_not.mpr hlast)
    obtain ⟨-, -, hlen, -⟩ := sized_iff.mp hs
    have hnone : ∀ d ∈ ((s.ranKernel g pass obs).passOver (g.val / 12)).dev.drills, g.val / 12 ∉ d.wait := by
      have hwaits := exists_waits_iff.not.mp (by simpa using hwait)
      rw [← ranKernel_sameDrills.drillWaits, ← passOver_drillWaits (c := g.val / 12)] at hwaits
      simpa using exists_waits_iff.not.mpr hwaits
    rw [if_pos (hends.mpr hlast), nextPass_of_none hnone, passOver_cl, court_passOver (by rw [hcourts]; omega)]
    simp [hlast]
  · rw [if_neg (mt hends.mp hlast), State.court, hcourts, ← State.court, hdrill]
    simp [hlast]

/-- After the last kernel, the pass of a line that waits begins (R316). -/
theorem kernelEnded_of_pass (hs : s.sized = true) (hk : (s.clu g).drillK < 12) (hlast : s.lastKernel g)
    (h : ∃ d ∈ s.dev.drills, g.val / 12 ∈ d.wait) :
    ((s.kernelEnded g pass obs).court (g.val / 12)).drill = true ∧
      ∀ i < 12, ((s.kernelEnded g pass obs).clu (12 * (g.val / 12) + i)).drillK = 0 := by
  obtain ⟨-, -, hlen, hcl, -⟩ := sized_iff.mp hs
  have hcourts : (s.ranKernel g pass obs).courts = s.courts := ranKernel_sameDrills.courts
  have hlen' : ((s.ranKernel g pass obs).passOver (g.val / 12)).courts.length = 8 := by
    rw [passOver_courts_length, hcourts, hlen]
  have hcl' : ((s.ranKernel g pass obs).passOver (g.val / 12)).cl.length = 96 := by
    rw [passOver_cl, ranKernel_cl_length, hcl]
  have hwait : ∃ d ∈ ((s.ranKernel g pass obs).passOver (g.val / 12)).dev.drills, g.val / 12 ∈ d.wait := by
    rw [exists_waits_iff, passOver_drillWaits, ranKernel_sameDrills.drillWaits]
    exact exists_waits_iff.mp h
  obtain ⟨f, hf⟩ := nextPass_of_some (court_passOver (by rw [hcourts]; omega)) hwait
  rw [State.kernelEnded, if_pos ((passEnds_ranKernel hs hk).mpr hlast), hf]
  refine ⟨?_, fun i hi => ?_⟩
  · rw [court_updDev, court_startPass_same (by omega)]
  · rw [clu_updDev, clu_startPass, if_pos ⟨by omega, by omega⟩]

end

/-- Settles O15: passes begin as `drillCourts_begins` and `drillPartition_begins` say; what the end of a kernel leaves of its
cluster is `Cluster.ranKernel`, and whether a pass begins then are the two cases of `kernelEnded`. -/
theorem drills : Obligations.Drills := by
  intro s l cs c p g pass obs hs
  refine ⟨fun ht hr ho => ?_, fun ht hl ho hc => ⟨_, exec_drillPartition ht hl ho, drillPartition_begins hs hc⟩,
    exec_drillSchedule, fun hdrill hk hd => ?_, fun j hj hwait hon hd => ?_, fun j => exec_drillPassDone_w8⟩
  · have hexec := exec_drillCourts ht hr ho
    refine ⟨fun hf => ⟨_, hexec, drillCourts_begins hs hf⟩, fun hf => ?_⟩
    rw [drillCourts_waits hf] at hexec
    exact hexec
  · intro ok last
    have hclu := clu_kernelEnded (s := s) (g := g) (pass := pass) (obs := obs) (j := g)
    rw [clu_ranKernel_same hs] at hclu
    obtain ⟨hruns, hfails, hlastFail, he⟩ := ranKernel_counts (k := s.clu g) (owned := (s.ownerG g).isSome)
      (free := s.free) (kernel := (s.clu g).drillK) (pass := drillPassed pass obs)
    refine ⟨_, exec_drillKernelEnd hdrill hk hd, kernelEnded_dram, ?_, ?_, ?_, ?_, fun h => ?_, kernelEnded_of_pass hs hk⟩
    · rwa [hclu]
    · rwa [hclu]
    · rwa [hclu]
    · rwa [hclu]
    · obtain ⟨hcl, hcourt⟩ := kernelEnded_of_no_pass hs hdrill hk h
      refine ⟨?_, hcourt, fun j hj hmax => ?_⟩
      · rw [State.clu, hcl, ← State.clu, clu_ranKernel_same hs]
        rfl
      · rw [State.clu, hcl]
        exact clu_ranKernel_ne hs hj hmax
  · exact exec_drillPassDone (w := ⟨p, by omega⟩) (by simp; omega) hj hwait hon hd

end Sys2Proof.Machine

namespace Sys2Proof.Machine

/-! # Court-mover jobs (R362) -/

section

variable {s : State} {p : Part} {id off : Nat} {d : List Byte} {j : Job}

/-- A line that the mover of court c asked for is written: it is counted (R362, R367). -/
def Job.lineMoved (j : Job) (c l : Nat) : Job := { j.last c with lines := l :: j.lines, moved := j.moved + 64 }

/-- 64 bytes from the host that a job without a key asked for next are written at their place, and the line of that job is
entered for every job that bears its number (R362). -/
theorem exec_hostReadCompletion_plain (hj : s.jobOf p id = some j) (hkind : j.kind = 0) (hkey : j.key = none)
    (halign : off % 64 = 0) (hlen : off + 64 ≤ j.len) (hd : d.length = 64)
    (hmoves : j.moves (j.courtAt (s.part p) off) = true) (hnext : j.nextOf (s.part p) ((j.pa + off) / 64) = true)
    (hheld : s.snooped ((s.part p).daLines [(j.pa + off) / 64]) = []) :
    exec (.hostReadCompletion p id off (some d)) s =
      .next ((s.wrPa p (cellsAt (64 * ((j.pa + off) / 64)) d)).updJob p id
        (·.lineMoved (j.courtAt (s.part p) off) ((j.pa + off) / 64))) := by
  have hhost : ¬ j.hostLen < off + 64 := by
    rw [Job.hostLen, hkey]
    exact Nat.not_lt.mpr hlen
  change execHostReadCompletion p id off (some d) s = _
  unfold execHostReadCompletion
  rw [hj]
  simp only [hkey, Option.isSome_none, Bool.false_eq_true, if_false, hkind, halign, hhost, hmoves, hnext,
    hd, hheld, Bool.not_true, List.isEmpty_nil, ne_eq, not_true_eq_false, or_self]
  rfl

theorem jobs_updJob {f : Job → Job} (hp : p.val < s.parts.length) :
    ((s.updJob p id f).part p).jobs = (s.part p).jobs.map fun j => if j.id = id then f j else j := by
  rw [State.updJob, part_updPart_same s p _ hp]

theorem wrPa_parts {cells : List Host.Cell} : (s.wrPa p cells).parts = s.parts := by
  rw [State.wrPa, wrDa_frame]

/-- The lines of the jobs of number `id`, once one of them has changed. -/
theorem lines_updJob_wrPa {cells : List Host.Cell} {f : Job → Job} (hp : p.val < s.parts.length) :
    (((s.wrPa p cells).updJob p id f).part p).jobs.map (·.lines) =
      (s.part p).jobs.map fun j => (if j.id = id then f j else j).lines := by
  rw [jobs_updJob (by rwa [wrPa_parts]), State.part, wrPa_parts, List.map_map]
  rfl

end

/-- A job that reads one line of the host's memory to a partition address. -/
def lineJob (pa : Nat) : Job :=
  { id := 0, ctx := {}, kind := 0, key := none, pa := pa, host := 0, len := 64, val := 0, latch := none, ctr := 0
    chunks := [], lines := [], got := [], moved := 0, status := none, after := [] }

/-- A partition with two jobs of one number, to the lines 0 and 1 of its memory. -/
def twoJobs : State :=
  State.reset.updPart 0 fun q => { q with stat := .up, courts := [0], jobs := [lineJob 0, lineJob 64] }

/-- Refutes O22: of the bytes that arrive for a job it has every job of that number record the line that lies there in its own
range, where the model records the line of the job that asked. In `twoJobs`, where two jobs bear number 0, the 64 bytes
for the first leave line 0 recorded for both; the statement has the second record line 1. (Where no two jobs bear one
number the two agree; the statement lacks that premise.) -/
theorem not_moverJobs : ¬ Obligations.MoverJobs := by
  unfold Obligations.MoverJobs
  intro h
  obtain ⟨-, hdata, -⟩ := h
  obtain ⟨harrives, -⟩ := hdata twoJobs 0 0 0 0 {} (List.replicate 64 0) .unsupported (lineJob 0) rfl
  have hp : (0 : Part).val < twoJobs.parts.length := by decide
  have hstated := harrives rfl rfl rfl (by decide) (by decide) (by decide) (by decide) (by decide)
  have hmodel := exec_hostReadCompletion_plain (s := twoJobs) (p := 0) (id := 0) (off := 0) (d := List.replicate 64 0)
    (j := lineJob 0) rfl rfl rfl rfl (by decide) (by decide) (by decide) (by decide) (by decide)
  have hsame := congrArg (fun t : State => (t.part (0 : Part)).jobs.map (·.lines))
    (Host.Outcome.next.inj (hmodel.symm.trans hstated))
  dsimp only at hsame
  rw [lines_updJob_wrPa hp, lines_updJob_wrPa hp] at hsame
  exact absurd hsame (by decide)

end Sys2Proof.Machine
